-- ==== Sys2Proof/Word.lean ====
section
/-! DEFINITION. The word types of the K2 (R10, R11) and the names of its numbered things (R4 to R6, R23, R63). -/

namespace Sys2Proof

/-- A byte is 8 bits (R11). -/
abbrev Byte := BitVec 8

/-- A half-word is 16 bits (R11). -/
abbrev Half := BitVec 16

/-- A word is 64 bits (R11). -/
abbrev Word := BitVec 64

/-- A line is 64 bytes; byte i of it is bits [8i+7:8i] (R10, R11). -/
abbrev Line := BitVec 512

/-- A core index (R4). -/
abbrev CoreId := BitVec 11

/-- A slice number (R6). -/
abbrev SliceId := BitVec 6

/-- A handler-table index (R163). -/
abbrev Hidx := BitVec 6

/-- A space identifier (R175). -/
abbrev Sid := BitVec 12

/-- A partition number (R422). -/
abbrev Pid := BitVec 4

/-- A reference to a completion counter object (R211). -/
abbrev ObjRef := BitVec 32

/-- A reference to a derivation record (R178). -/
abbrev RecRef := BitVec 21

/-- A channel number (R27). -/
abbrev Chan := BitVec 5

/-- A buoy number (R116). -/
abbrev BuoyId := BitVec 7

/-- A physical address (R142). -/
abbrev PA := BitVec 56

/-- A virtual address (R96). -/
abbrev VA := BitVec 56

/-- A fault code (R392). -/
abbrev Code := BitVec 16

/-- A general register g0-g15 (R63). -/
abbrev GReg := BitVec 4

/-- A channel handle c0-c15 (R63). -/
abbrev Handle := BitVec 4

/-- A vector register v0-v31 (R63). -/
abbrev VReg := BitVec 5

/-- A predicate p0-p7 (R63). -/
abbrev PReg := BitVec 3

/-- An accumulator a0-a3 (R63). -/
abbrev AReg := BitVec 2

end Sys2Proof
end

