-- ==== Sys2Proof/Syntax.lean ====
section
/-! DEFINITION. The syntax of the machine's steps: the heads of Yaland with their operands (R63 to R67, R82 to R89), the messages that
travel in the module (R23 to R27), the events that carry them, and the one inductive `Instr`, with one constructor per row of the opcode
table: 188 heads and 122 events. A head's operands are those its entry gives it; the length of its tail is no operand. -/

namespace Sys2Proof

/-- The type suffixes and their codes, in code order; `nosfx` is code 14 (R82). -/
inductive Ty
  | i8 | i16 | i32 | i64 | z8 | z16 | z32 | z64 | f16 | bf16 | f19 | f32 | t8 | t4 | nosfx
  deriving DecidableEq, Repr

/-- A predicate prefix: none, `(pN)` or `(~pN)` (R66). -/
inductive Guard
  | always
  | on (p : PReg) (inv : Bool)
  deriving DecidableEq, Repr

/-- A register source: a general register, or a channel handle with its wait count (R65, R241). -/
inductive Src
  | g (r : GReg)
  | c (h : Handle) (k : BitVec 4)
  deriving DecidableEq, Repr

/-- A third operand: a source, or the immediate of layout I already extended to 64 bits (R84, R243). -/
inductive Opd
  | src (x : Src)
  | imm (v : Word)
  deriving DecidableEq, Repr

/-- A register or an immediate, for heads whose register form names a general register only. -/
inductive RegImm
  | reg (r : GReg)
  | imm (v : Word)
  deriving DecidableEq, Repr

/-- `OP.t gA, gB, gC|imm` (R245 to R247). -/
structure AluOp where
  q : Guard
  t : Ty
  a : GReg
  b : Src
  c : Opd
  deriving DecidableEq, Repr

/-- `OP gA, gB, gC|imm` without a suffix (R249, R250, R258 to R261). -/
structure BinOp where
  q : Guard
  a : GReg
  b : Src
  c : Opd
  deriving DecidableEq, Repr

/-- `OP.t gA, gB` (R247, R248, R257). -/
structure UnOp where
  q : Guard
  t : Ty
  a : GReg
  b : Src
  deriving DecidableEq, Repr

/-- `FSHL gA, gB, gC, gD|n` (R251). -/
structure FshOp where
  q : Guard
  a : GReg
  b : Src
  c : Src
  n : RegImm
  deriving DecidableEq, Repr

/-- `LOG3 gA, gB, gC, gD, tt` (R252). -/
structure Log3Op where
  q : Guard
  a : GReg
  b : Src
  c : Src
  d : GReg
  tt : Byte
  deriving DecidableEq, Repr

/-- `CMP.cc.t pA, gB, gC|imm` (R253). -/
structure CmpOp where
  q : Guard
  t : Ty
  p : PReg
  b : Src
  c : Opd
  deriving DecidableEq, Repr

/-- `SEL gA, gB, gC, pD` (R254). -/
structure SelOp where
  q : Guard
  a : GReg
  b : Src
  c : Src
  p : PReg
  deriving DecidableEq, Repr

/-- `CVT.t gA, gB, s` (R255). -/
structure CvtOp where
  q : Guard
  t : Ty
  a : GReg
  b : Src
  s : Ty
  deriving DecidableEq, Repr

/-- A two-register branch: offset in half-words (R85, R264). -/
structure BrrOp where
  a : GReg
  b : GReg
  off : BitVec 19
  deriving DecidableEq, Repr

/-- The second part of a memory operand: an index register (g0 for none) or a displacement in bytes (R65, R269). -/
inductive Disp
  | idx (r : GReg)
  | imm (e : BitVec 32)
  deriving DecidableEq, Repr

/-- A memory operand: base register (0 selects the workspace, R89) and index or displacement. -/
structure MemOpd where
  base : GReg
  d : Disp
  deriving DecidableEq, Repr

/-- A load, store or ordered reduction with its register (R274, R278, R282). -/
structure LsOp where
  q : Guard
  t : Ty
  a : GReg
  m : MemOpd
  deriving DecidableEq, Repr

/-- `ATOM.op.t gA, [gB], gC` (and gD for CAS) (R281). -/
structure AtomOp where
  q : Guard
  t : Ty
  a : GReg
  b : GReg
  c : Src
  d : GReg
  deriving DecidableEq, Repr

/-- `BUPD.op.t [gB], vA, gC|mask` (R283). -/
structure BupdOp where
  q : Guard
  t : Ty
  v : BitVec 4
  b : GReg
  mask : RegImm
  deriving DecidableEq, Repr

/-- `DISCARD mem, gA` (R285). -/
structure DiscardOp where
  q : Guard
  a : GReg
  m : MemOpd
  deriving DecidableEq, Repr

/-- `BARINIT [gB], gA, gC` (R286). -/
structure BarinitOp where
  q : Guard
  b : GReg
  a : GReg
  c : GReg
  deriving DecidableEq, Repr

/-- The kinds in a fence's set: [0] r, [1] w, [2] e (R231). -/
structure FenceOp where
  pred : BitVec 3
  succ : BitVec 3
  deriving DecidableEq, Repr

/-- A handle with an unsigned count (R300, R301). -/
structure HandleOp where
  q : Guard
  h : Handle
  n : BitVec 9
  deriving DecidableEq, Repr

/-- `CSEND gA, gB, n` (R302). -/
structure CsendOp where
  q : Guard
  a : GReg
  b : GReg
  n : BitVec 4
  deriving DecidableEq, Repr

/-- `OP gA, gB` with general registers only. -/
structure RrOp where
  a : GReg
  b : GReg
  deriving DecidableEq, Repr

/-- `CANCEL.level gA, gB` (R312); gB is read under R241 (R295). -/
structure CancelOp where
  a : GReg
  b : Src
  deriving DecidableEq, Repr

/-- A guarded head with one source or immediate operand (R295, R303, R304, R317). -/
structure GiOp where
  q : Guard
  c : Opd
  deriving DecidableEq, Repr

/-- `DECR gA, n|gC` (R307). -/
structure DecrOp where
  q : Guard
  a : GReg
  c : Opd
  deriving DecidableEq, Repr

/-- `CRD gA, REG` and `CWR REG, gA`: the number of R131. -/
structure CrOp where
  q : Guard
  a : GReg
  n : Byte
  deriving DecidableEq, Repr

/-- `LOGCTL gA, gB, op`; the row names op (R320). -/
structure LogOp where
  q : Guard
  a : GReg
  b : Src
  deriving DecidableEq, Repr

/-- A vector source: a vector register, or a stream handle with its wait count (R323, R326). -/
inductive VSrc
  | v (r : VReg)
  | c (h : Handle) (k : BitVec 4)
  deriving DecidableEq, Repr

/-- A second vector source, or a general register broadcast to every lane (R323). -/
inductive VOpd
  | src (x : VSrc)
  | bc (g : GReg)
  deriving DecidableEq, Repr

/-- `VOP.t vA, vB, vC|gC` (R327, R329). -/
structure V3Op where
  q : Guard
  t : Ty
  a : VReg
  b : VSrc
  c : VOpd
  deriving DecidableEq, Repr

/-- `VFMA.t vA, vB, vC|gC, vD` (R328). -/
structure V4Op where
  q : Guard
  t : Ty
  a : VReg
  b : VSrc
  c : VOpd
  d : VReg
  deriving DecidableEq, Repr

/-- The logic heads (R330); `d` and `tt` are used where the entry names them. -/
structure VLogOp where
  q : Guard
  a : VReg
  b : VSrc
  c : VOpd
  d : VReg
  tt : Byte
  deriving DecidableEq, Repr

/-- `VCMP.cc.t pA, vB, vC|gC` (R331). -/
structure VcmpOp where
  q : Guard
  t : Ty
  p : PReg
  b : VSrc
  c : VOpd
  deriving DecidableEq, Repr

/-- `VCVT.t vA, vB, s, part` (R333). -/
structure VcvtOp where
  q : Guard
  t : Ty
  a : VReg
  b : VSrc
  s : Ty
  part : BitVec 3
  deriving DecidableEq, Repr

/-- `ENC.t` and `DEC.t` `vA, vB, s, Tn, part` (R334, R335). -/
structure EncOp where
  q : Guard
  t : Ty
  a : VReg
  b : VSrc
  s : Ty
  tbl : Bool
  part : BitVec 3
  deriving DecidableEq, Repr

/-- The value VBCAST fills with (R336). -/
inductive BcSrc
  | g (r : GReg)
  | lane (v : VReg) (n : BitVec 27)
  deriving DecidableEq, Repr

/-- `VBCAST.t vA, gC` or `VBCAST.t vA, vB, n` (R336). -/
structure VbcastOp where
  q : Guard
  t : Ty
  a : VReg
  b : BcSrc
  deriving DecidableEq, Repr

/-- `VPERM.t vA, vB, vC` and, with a fourth register, `vA, vB, vC, vD` (R337). -/
structure VpermOp where
  q : Guard
  t : Ty
  a : VReg
  b : VSrc
  c : VSrc
  d : Option VReg
  deriving DecidableEq, Repr

/-- `VRED.op.t gA, vB` (R338). -/
structure VredOp where
  q : Guard
  t : Ty
  a : GReg
  b : VReg
  deriving DecidableEq, Repr

/-- `VLD.t vA, mem` and `VST.t mem, vA`: base, index and displacement (R339). -/
structure VmemOp where
  q : Guard
  t : Ty
  a : VReg
  base : GReg
  idx : GReg
  e : BitVec 32
  deriving DecidableEq, Repr

/-- `VOP.f32 vA, vB` (R344). -/
structure VfnOp where
  q : Guard
  a : VReg
  b : VSrc
  deriving DecidableEq, Repr

/-- `MXMUL aA, gB, gC, gD` (R351, R352). -/
structure MxmulOp where
  q : Guard
  acc : AReg
  b : GReg
  c : GReg
  d : GReg
  deriving DecidableEq, Repr

/-- `MXST.t [gB], aA, gC` and, with a stride register, `[gB], aA, gC, gD` (R355). -/
structure MxstOp where
  q : Guard
  t : Ty
  acc : AReg
  b : GReg
  c : GReg
  d : Option GReg
  deriving DecidableEq, Repr

/-- `MXEDGE gA, gC` and `MXSPLIT gA, gC` (R357, R358). -/
structure MxacOp where
  a : GReg
  c : GReg
  deriving DecidableEq, Repr

/-- `RSTAT vA, aN` (R361). -/
structure RstatOp where
  a : VReg
  acc : AReg
  deriving DecidableEq, Repr

/-- `RSTAT.E vA, aN, vC, gK` (R361). -/
structure RstatEOp where
  a : VReg
  acc : AReg
  c : VReg
  k : GReg
  deriving DecidableEq, Repr

/-- `GMU t, gB` and `GSUB f, gB` (R366, R367). -/
structure GmsgOp where
  t : BitVec 4
  b : GReg
  deriving DecidableEq, Repr

/-- `CXQ gA, gB` (R371). -/
structure CxqOp where
  q : Guard
  a : GReg
  b : GReg
  deriving DecidableEq, Repr

/-- `CXWAIT n, gB` (R383). -/
structure CxwaitOp where
  q : Guard
  n : BitVec 2
  b : GReg
  deriving DecidableEq, Repr

/-- `MAP`, `GRANT` and `UNMAP` `gA, gB, gC, gD` (R387, R388). -/
structure SpaceOp where
  q : Guard
  a : GReg
  b : GReg
  c : GReg
  d : GReg
  deriving DecidableEq, Repr

/-- `SPQRY gA, gB, sel|gC` (R389). -/
structure SpqryOp where
  q : Guard
  a : GReg
  b : GReg
  c : RegImm
  deriving DecidableEq, Repr

/-! ## Messages -/

/-- The task a request is made for, as the request carries it (R23, R176, R197, R205). -/
structure Who where
  core : CoreId
  hidx : Hidx
  sid  : Sid
  pid  : Pid
  lref : ObjRef
  tix  : BitVec 16
  deriving DecidableEq, Repr

/-- The step of a buoy that a request took (R26), or none for an access to a window (R145), with a number that tells it from everything else that
the core has sent, so that an answer that comes after the core has answered for itself is known (R412). A request that has not left bears 0. -/
structure Step where
  b : Option BuoyId
  n : Nat
  deriving DecidableEq, Repr

/-- The read-modify-write operations of ATOM (R281). -/
inductive AtomKind
  | add | and | or | xor | min | max | swap | cas
  deriving DecidableEq, Repr

/-- The operations of BUPD and of BRED (R282, R283). -/
inductive UpdKind
  | set | add | mul | min | max
  deriving DecidableEq, Repr

/-- What a bank pipeline is asked to do (R147, R281 to R286); `copy` is CX's write, with the granules it leaves poisoned (R376). -/
inductive BankOp
  | load
  | store
  | copy (poi : BitVec 2)
  | atom (k : AtomKind) (t : Ty) (c d : Word)
  | bred (k : UpdKind) (t : Ty)
  | bupd (k : UpdKind) (t : Ty) (mask : BitVec 16)
  | discard
  | barinit (earr : BitVec 16) (ebyt : BitVec 48)
  deriving DecidableEq, Repr

/-- What of a CX transfer a request serves (R375, R377): a translation, a source read or the write of a unit by its number, or a post. -/
inductive CxPart
  | look
  | read (u : Nat)
  | write (u : Nat)
  | post
  deriving DecidableEq, Repr

/-- What the core does with a reply (R26): data or an answer for outstanding load `id`; an answer for the head that holds the task;
the answer of retained request `id`; the answer of a line request of VX or of a half of MX, or of a CX transfer; a step to return and no
more; nothing, for an update that the host makes through a port (R284). -/
inductive Ret
  | load (id : Nat)
  | held (h : Hidx)
  | retained (id : Nat)
  | vxLine
  | mxLine (remote : Bool)
  | cx (cch : BitVec 2) (id : BitVec 32) (part : CxPart)
  | step
  | host (h : BitVec 1)
  deriving DecidableEq, Repr

/-- A MEMREQ, or a late-translated request on its way to its home (R25, R183, R272). `data` holds the operand bytes from the first
byte up; `bm` has a bit for each of the `n` bytes that takes part; `fptr` is the format and VA of the first byte; `rref` names the
record that translated a late request; `kind` is the SFQ kind (R197). -/
structure MemReq where
  who  : Who
  op   : BankOp
  pa   : PA
  n    : Nat
  data : Line
  bm   : BitVec 64
  fptr : Word
  key  : BitVec 6
  det  : Bool
  q    : BitVec 2
  seq  : BitVec 16
  buoy : Option Step
  ret  : Ret
  rref : Option RecRef
  kind : BitVec 3
  deriving DecidableEq, Repr

/-- An ATC entry (R182); `psz`, `rts` as in the record. -/
structure AtcEntry where
  v    : Bool
  psz  : BitVec 3
  rts  : BitVec 4
  det  : Bool
  key  : BitVec 6
  loge : Bool
  logr : BitVec 5
  sid  : Sid
  vpn  : BitVec 44
  ppn  : BitVec 44
  deriving DecidableEq, Repr

/-- What a reply carries (R25, R26, R182, R183, R296); data come with the poison bits of their line, which a fill of the read-only cache
keeps (R158). -/
inductive RepBody
  | data (fptr : Word) (n : Nat) (d : Line) (poi : BitVec 2)
  | ok
  | status (w : Word)
  | fault (code : Code) (faddr : Word)
  | xlate (e : AtcEntry)
  | pair (w0 w1 : Word)
  deriving DecidableEq, Repr

/-- A MEMREP (R26, R219). -/
structure MemRep where
  core   : CoreId
  ret    : Ret
  body   : RepBody
  buoy   : Option Step
  marked : Bool
  deriving DecidableEq, Repr

/-- A translation miss (R182); `need` has the bits of the rights that the access needs (R178), `kind` is its slice-fault kind (R200). -/
structure MissReq where
  who  : Who
  fptr : Word
  need : BitVec 4
  kind : BitVec 3
  buoy : Option Step
  ret  : Ret
  deriving DecidableEq, Repr

/-- What only a root-space MAP names (R180). -/
structure RootMap where
  pa   : PA
  det  : Bool
  key  : BitVec 6
  loge : Bool
  logr : BitVec 5
  deriving DecidableEq, Repr

/-- A MAP or GRANT on its way (R180, R181, R387); `done` counts the pages committed. -/
structure MapReq where
  who   : Who
  grant : Bool
  sva   : VA
  tva   : VA
  tsid  : Sid
  r     : BitVec 4
  psz   : BitVec 3
  n     : Nat
  done  : Nat
  root  : Option RootMap
  /-- A reserved bit was set (R387). -/
  bad   : Bool
  buoy  : Option Step
  ret   : Ret
  deriving DecidableEq, Repr

/-- The fields of a derivation record (R178). -/
structure DRec where
  wd   : Bool
  stub : Bool
  psz  : BitVec 3
  rts  : BitVec 4
  det  : Bool
  key  : BitVec 6
  loge : Bool
  logr : BitVec 5
  dep  : BitVec 4
  sid  : Sid
  vpn  : BitVec 44
  infl : BitVec 16
  ppn  : BitVec 44
  par  : RecRef
  chd  : RecRef
  sib  : RecRef
  deriving DecidableEq, Repr

/-- An UNMAP on its way (R388). -/
structure UnmapReq where
  who   : Who
  start : VA
  self  : Bool
  len   : Nat
  dref  : BitVec 32
  bad   : Bool
  buoy  : Option Step
  ret   : Ret
  deriving DecidableEq, Repr

/-- A SPACE query (R389). -/
structure SpqryReq where
  who  : Who
  va   : VA
  sel  : BitVec 1
  buoy : Option Step
  ret  : Ret
  deriving DecidableEq, Repr

/-- A packet of class CHAN, GAUSS or MXCMD (R23): the fields of its header, whose `len` is the number of its one to eight payload words less 1.
A kind is true for a slice, and an index then is the slice's number. -/
structure Packet where
  sdev  : BitVec 10
  pid   : Pid
  skind : Bool
  src   : CoreId
  ddev  : BitVec 10
  dkind : Bool
  dst   : CoreId
  eos   : Bool
  chan  : Chan
  cls   : BitVec 3
  ws    : List Word
  deriving DecidableEq, Repr

/-- A core rectangle, both corners included (R302, R308, R409). -/
structure Rect where
  x0 : BitVec 6
  y0 : BitVec 5
  x1 : BitVec 6
  y1 : BitVec 5
  deriving DecidableEq, Repr

/-- A multicast packet at a router (R409, R410): the packet, its rectangle, whether the router still owes it to its own core, and the routers to
which it still owes it. -/
structure McPacket where
  pkt  : Packet
  rect : Rect
  own  : Bool
  next : List (BitVec 6 × BitVec 5)
  deriving DecidableEq, Repr

/-- Who a launch message comes from (R37): a core's LAUNCH, the host through a port, or a service core's launch. -/
inductive Issuer
  | core | host (h : BitVec 1) | service (sl : SliceId)
  deriving DecidableEq, Repr

/-- A launch message on its way to its queue's home (R37, R308, R309); `core` and `hidx` are those of a LAUNCH. -/
structure LaunchReq where
  pid    : Pid
  queue  : BitVec 3
  msg    : Line
  sid    : Sid
  par    : ObjRef
  priv   : Bool
  issuer : Issuer
  core   : CoreId
  hidx   : Hidx
  buoy   : Option Step
  deriving DecidableEq, Repr

/-- A SPAWN message on its way to the launch object and to its core (R311). -/
structure SpawnReq where
  who  : Who
  priv : Bool
  msg  : Line
  tix  : BitVec 32
  buoy : Option Step
  deriving DecidableEq, Repr

/-- The level CANCEL names (R211, R312). -/
inductive Level
  | launch | graph | phase | job
  deriving DecidableEq, Repr

/-- A CANCEL on its way (R312); `lvl` is none for the kernel's own walk. -/
structure CancelReq where
  pid  : Pid
  lvl  : Option Level
  ref  : ObjRef
  core : CoreId
  hidx : Hidx
  buoy : Option Step
  reply : Bool
  deriving DecidableEq, Repr

/-- The status of a member completion (R212). -/
inductive MStat
  | done | fault | cancelled
  deriving DecidableEq, Repr

/-- An arrival of BAR or BAR.Q on its way to the bank (R216, R287). -/
structure ArriveReq where
  who  : Who
  pa   : PA
  key  : BitVec 6
  fptr : Word
  headPc : BitVec 56
  buoy : Option Step
  deriving DecidableEq, Repr

/-- A byte post of CX (R216, R377); `cch` and `id` name the transfer that a reply of BAD_BARRIER reaches. -/
structure BytesReq where
  who  : Who
  pa   : PA
  key  : BitVec 6
  n    : Nat
  cch  : BitVec 2
  id   : BitVec 32
  buoy : Option Step
  deriving DecidableEq, Repr

/-- A request record of SCRUB as the kernel receives it (R319). -/
structure ScrubReq where
  who  : Who
  part : Pid
  scope : BitVec 5
  cobj : ObjRef
  rdst : Word
  nonce : BitVec 128
  /-- Device time when the kernel accepted it (R431). -/
  time : Word
  deriving DecidableEq, Repr

/-- An access to a core's scratchpad window (R145). -/
structure WindowReq where
  req : MemReq
  deriving DecidableEq, Repr

/-- The register file of R421 a write without a row of its own reaches. -/
inductive RegTarget
  | sevc (n : BitVec 3)
  | evc (c : BitVec 5) (n : BitVec 3)
  | sfqHead
  | keySlot (n : BitVec 6) (w : BitVec 2)
  | touched (w : BitVec 6)
  | other (off : BitVec 23)
  /-- No register: the service kernel's own acts on its slice that have no row: it enables migration with an area of frames, or ends it (R416), it
  says where its object area begins (R211), and it fences a slice or takes the fence back (R434). -/
  | migration (first : BitVec 44) (n : BitVec 19)
  | objectArea (base : PA)
  | sliceFence (on : Bool)
  deriving DecidableEq, Repr

/-- A snoop's request (R415). -/
inductive SnoopKind
  | invalidate | downgrade
  deriving DecidableEq, Repr

/-- A grant of the switch directory (R415). -/
inductive GrantKind
  | shared | exclusive
  deriving DecidableEq, Repr

/-- The use a key is loaded for (R424). -/
inductive KeyUse
  | xts | gcm
  deriving DecidableEq, Repr

/-- A link of the module: one of the 24 scale-up ports or of the two host ports (R3, R413, R418). -/
inductive LinkId
  | port (n : Fin 24)
  | host (h : BitVec 1)
  deriving DecidableEq, Repr

/-- A function of a host port: 0 the physical function, p + 1 that of partition p (R418). -/
structure FnId where
  h : BitVec 1
  n : BitVec 5
  deriving DecidableEq, Repr

/-- Where a link or IDE key goes (R414, R419). -/
inductive KeyDest
  | port (n : Fin 24)
  | ide (fn : FnId)
  deriving DecidableEq, Repr

/-- What a port sends (R414, R419): a slot of a scale-up link, with its bytes, or a flit of an IDE stream. -/
inductive FlitOut
  | slot (port : Fin 24) (bytes : List Byte)
  | ide (fn : FnId)
  deriving DecidableEq, Repr

/-- What a port receives (R414, R419): a sealed slot, whose CRC is right or not, or a flit of an IDE stream with its key-generation bit. -/
inductive FlitIn
  | slot (port : Fin 24) (crc : Bool) (bytes tag : List Byte)
  | ide (fn : FnId) (gen : Bool)
  deriving DecidableEq, Repr

/-- What is on its way in the module, or still to come from outside: one constructor for each event row of the opcode table that carries
something, with what it carries. -/
inductive Event
  /-- AGE_WRAP (R166). -/
  | ageWrap (c : CoreId) (h : Hidx)
  /-- MEMREP_RECEIVE (R26). -/
  | memrepReceive (r : MemRep)
  /-- CEILING_RECOVERY (R220). -/
  | ceilingRecovery (c : CoreId) (b : BuoyId)
  /-- BUOY_SILENCE_TIMEOUT (R412). -/
  | buoySilenceTimeout (c : CoreId) (b : BuoyId)
  /-- BANK_REQUEST (R147). -/
  | bankRequest (r : MemReq)
  /-- BANK_MISS_FILL (R147). -/
  | bankMissFill (ln : BitVec 50)
  /-- WRITE_BACK_ACCEPT (R151). -/
  | writeBackAccept (ln : BitVec 50)
  /-- COPY_SLICE_LOAD (R150). -/
  | copySliceLoad (sl : SliceId) (r : MemReq)
  /-- COPY_INVALIDATE (R150). -/
  | copyInvalidate (sl : SliceId) (ln : BitVec 50)
  /-- INVALIDATE_ACK (R229). -/
  | invalidateAck (ln : BitVec 50) (die : BitVec 2)
  /-- LATE_REQUEST_AT_HOME (R183). -/
  | lateRequestAtHome (r : MemReq)
  /-- LANDED_NOTICE (R183). -/
  | landedNotice (sl : SliceId) (rec : RecRef)
  /-- TRANSLATION_MISS (R182). -/
  | translationMiss (m : MissReq)
  /-- MAP_AT_HOME (R180). -/
  | mapAtHome (m : MapReq)
  /-- MAP_FORWARD (R180). -/
  | mapForward (m : MapReq)
  /-- RECORD_CREATION (R180). -/
  | recordCreation (src : SliceId) (rec : RecRef) (d : DRec)
  /-- UNMAP_AT_COORDINATOR (R388). -/
  | unmapAtCoordinator (u : UnmapReq)
  /-- UNMAP_PART (R388). -/
  | unmapPart (id : Nat) (sl : SliceId)
  /-- WITHDRAW_MESSAGE (R185). -/
  | withdrawMessage (id : Nat) (rec : RecRef)
  /-- WITHDRAW_ACK (R185). -/
  | withdrawAck (id : Nat) (rec : RecRef)
  /-- SHOOTDOWN (R185). -/
  | shootdown (c : CoreId) (id : Nat) (lo hi : PA)
  /-- SHOOTDOWN_ACK (R184). -/
  | shootdownAck (c : CoreId) (id : Nat)
  /-- RECORD_REMOVAL (R441). -/
  | recordRemoval (id : Nat)
  /-- WITHDRAW_COMPLETION_POST (R388). -/
  | withdrawCompletionPost (id : Nat) (sl : SliceId)
  /-- SPQRY_AT_HOME (R389). -/
  | spqryAtHome (m : SpqryReq)
  /-- DET_REFUSAL (R207). -/
  | detRefusal (r : MemReq)
  /-- ROOM_NOTICE (R207). -/
  | roomNotice (c : CoreId) (bank : BitVec 10)
  /-- CLOSE_REPORT (R289). -/
  | closeReport (c : CoreId) (l : ObjRef)
  /-- CLOSE_AT_BANK (R206). -/
  | closeAtBank (bank : BitVec 10) (l : ObjRef) (q : BitVec 2) (last : Bool)
  /-- CLOSE_ACK (R289). -/
  | closeAck (bank : BitVec 10) (l : ObjRef) (last : Bool)
  /-- CLOSE_NOTICE (R289). -/
  | closeNotice (c : CoreId) (l : ObjRef) (q : BitVec 32)
  /-- WAITING_REPORT (R208). -/
  | waitingReport (c : CoreId) (l : ObjRef) (w m : Option Bool)
  /-- QUANTUM_OVERFLOW_NOTICE (R396). -/
  | quantumOverflowNotice (c : CoreId) (l : ObjRef) (q : BitVec 32)
  /-- FAULT_MARK (R447). -/
  | faultMark (l : ObjRef)
  /-- MEMBER_START_POST (R212). -/
  | memberStartPost (l : ObjRef) (src : Option CoreId)
  /-- COMPLETION_POST (R212). -/
  | completionPost (l : ObjRef) (st : MStat) (src : Option (CoreId × Step))
  /-- LAUNCH_MESSAGE_AT_HOME (R309). -/
  | launchMessageAtHome (m : LaunchReq)
  /-- HOST_LAUNCH_WRITE (R40), through the partition's function or through physical function 0 (R41). -/
  | hostLaunchWrite (h : BitVec 1) (pf : Bool) (p : Pid) (queue : BitVec 3) (whole : Bool) (msg : Line)
  /-- HOST_CREATION_WRITE (R214), in the same way. -/
  | hostCreationWrite (h : BitVec 1) (pf : Bool) (p : Pid) (whole : Bool) (msg : Line)
  /-- SPAWN_MEMBER_ADD (R311). -/
  | spawnMemberAdd (m : SpawnReq)
  /-- SPAWN_PLACE (R311). -/
  | spawnPlace (m : SpawnReq)
  /-- SPAWN_MEMBER_REMOVE (R311). -/
  | spawnMemberRemove (m : SpawnReq)
  /-- CANCEL_AT_OBJECT (R213). -/
  | cancelAtObject (m : CancelReq)
  /-- TERMINATION_NOTICE (R213). -/
  | terminationNotice (c : CoreId) (l : ObjRef)
  /-- CANCEL_WALK (R213). -/
  | cancelWalk (l : ObjRef)
  /-- PLACEMENT (R310). -/
  | placement (p : Pid)
  /-- DECR_APPLY (R210). -/
  | decrApply (p : Pid) (c : CoreId) (h : Hidx) (n : BitVec 32) (src : Option (Who × Nat))
  /-- CHAN_PACKET_RECEIVE (R169). -/
  | chanPacketReceive (k : Packet)
  /-- GAUSS_PART_RECEIVE (R363). -/
  | gaussPartReceive (k : Packet)
  /-- MXCMD_RECEIVE (R360). -/
  | mxcmdReceive (k : Packet) (w : Who) (q : BitVec 2)
  /-- BARRIER_ARRIVE (R216). -/
  | barrierArrive (m : ArriveReq)
  /-- BARRIER_BYTES (R216). -/
  | barrierBytes (m : BytesReq)
  /-- BARRIER_WAKE (R288). -/
  | barrierWake (c : CoreId) (ln : BitVec 50) (gen : BitVec 32)
  /-- ARRIVAL_REPLY (R288). -/
  | arrivalReply (w : Who) (gen : BitVec 32) (adv : Bool) (flt : Option (Code × Word)) (headPc : BitVec 56) (buoy : Option Step) (marked : Bool)
  /-- CX_TRANSFER_START (R375). -/
  | cxTransferStart (c : CoreId)
  /-- HALO_START (R379). -/
  | haloStart (c : CoreId) (ln : BitVec 50) (gen : BitVec 32)
  /-- CX_UNIT_WRITE (R375). -/
  | cxUnitWrite (c : CoreId) (cch : BitVec 2) (id : BitVec 32)
  /-- CX_BYTES_POST (R377). -/
  | cxBytesPost (c : CoreId) (cch : BitVec 2) (id : BitVec 32)
  /-- GCM_TAG_CHECK (R381). -/
  | gcmTagCheck (c : CoreId) (cch : BitVec 2) (id : BitVec 32)
  /-- CX_TRANSFER_COMPLETE (R382). -/
  | cxTransferComplete (c : CoreId) (cch : BitVec 2) (id : BitVec 32)
  /-- VX_HEAD_START (R325). -/
  | vxHeadStart (c : CoreId)
  /-- VX_HEAD_COMPLETE (R325). -/
  | vxHeadComplete (c : CoreId)
  /-- VST_SEND (R342). -/
  | vstSend (c : CoreId)
  /-- MX_HEAD_START (R353). -/
  | mxHeadStart (c : CoreId) (remote : Bool)
  /-- MX_STEP_APPLY (R114). -/
  | mxStepApply (c : CoreId) (remote : Bool)
  /-- MXST_SEND (R355). -/
  | mxstSend (c : CoreId) (remote : Bool)
  /-- GFORM_JOIN (R313). -/
  | gformJoin (leader : CoreId) (w : Who) (pos : BitVec 4)
  /-- GANG_START (R174). -/
  | gangStart (c : CoreId) (h : Hidx)
  /-- REMOTE_COMPLETION_NOTICE (R232). -/
  | remoteCompletionNotice (c : CoreId) (rec : Option (BitVec 3 × Who × Code × Word))
  /-- PORT_HEADER_DISCARD (R24). -/
  | portHeaderDiscard (l : LinkId) (hdr : Word)
  /-- MULTICAST_REPLICATE (R409). -/
  | multicastReplicate (x : BitVec 6) (y : BitVec 5) (m : McPacket)
  /-- MULTICAST_BLOCK_TIMEOUT (R410). -/
  | multicastBlockTimeout (x : BitVec 6) (y : BitVec 5)
  /-- BANK_OP_LINE0 (R284). -/
  | bankOpLine0 (h : BitVec 1) (sl : SliceId) (slot : BitVec 16) (d : Line)
  /-- BANK_OP_LINE1 (R284). -/
  | bankOpLine1 (h : BitVec 1) (sl : SliceId) (slot : BitVec 16) (d : Line)
  /-- SERVICE_RETRY (R189). -/
  | serviceRetry (sl : SliceId) (i : Byte)
  /-- SERVICE_FAIL (R189). -/
  | serviceFail (sl : SliceId) (i : Byte)
  /-- SERVICE_TRANSLATION_ANSWER (R189). -/
  | serviceTranslationAnswer (sl : SliceId) (i : Byte)
  /-- SWAP_OUT (R402). -/
  | swapOut (p : Pid)
  /-- RESTORE (R402). -/
  | restore (p : Pid)
  /-- CORE_FENCE (R434). -/
  | coreFence (c : CoreId)
  /-- CORE_REENABLE (R434). -/
  | coreReenable (c : CoreId) (sblk : Byte)
  /-- PARTITION_DESCRIPTOR_WRITE (R422). -/
  | partitionDescriptorWrite (sl : SliceId) (ws : List Word)
  /-- STITCH_DESCRIPTOR_WRITE (R407). -/
  | stitchDescriptorWrite (sl : SliceId) (n : BitVec 2) (w : Word)
  /-- LOG_CONTROL_WRITE (R428). -/
  | logControlWrite (sl : SliceId) (n : BitVec 2) (w : Word)
  /-- REGISTER_WRITE (R13). -/
  | registerWrite (sl : SliceId) (t : RegTarget) (w : Word)
  /-- KEY_LOAD (R424). -/
  | keyLoad (p : Pid) (slot : BitVec 6) (u : KeyUse) (key : BitVec 512)
  /-- KEY_ERASE (R426). -/
  | keyErase (slot : BitVec 6)
  /-- GET_MEASUREMENTS (R432). -/
  | getMeasurements (fn : FnId)
  /-- SCRUB_RUN (R429). -/
  | scrubRun (m : ScrubReq)
  /-- LOG_INTERVAL_END (R223). -/
  | logIntervalEnd
  /-- LOG_COUNT_SUM (R223). -/
  | logCountSum (p : Pid)
  /-- PATROL_READ (R151). -/
  | patrolRead (granule : BitVec 51)
  /-- DIRECTORY_COUNT_REPORT (R416). -/
  | directoryCountReport (sl : SliceId) (frame : BitVec 44) (h : Nat)
  /-- MOVE_COMPLETE (R440). -/
  | moveComplete (sl : SliceId) (frame : BitVec 44)
  /-- DIRECTORY_GRANT (R415). -/
  | directoryGrant (sl : SliceId) (ln : BitVec 50) (g : GrantKind) (gen : BitVec 4) (d : Line)
  /-- SNOOP (R415). -/
  | snoop (ln : BitVec 50) (k : SnoopKind)
  /-- LINK_DOWN (R417). -/
  | linkDown (l : LinkId)
  /-- LINK_RECOVER (R417). -/
  | linkRecover (l : LinkId)
  /-- QUARANTINE_TIMEOUT (R417). -/
  | quarantineTimeout (l : LinkId)
  /-- FLIT_SEND (R414). -/
  | flitSend (f : FlitOut)
  /-- FLIT_RECEIVE (R414). -/
  | flitReceive (f : FlitIn)
  /-- IDE_KEY_SWITCH (R419). -/
  | ideKeySwitch (fn : FnId)
  /-- IDE_OLD_BANK_ERASE (R419). -/
  | ideOldBankErase (fn : FnId)
  /-- VF_CONFIG_CHANGE (R418). -/
  | vfConfigChange (fn : FnId)
  /-- VF_TEARDOWN (R420). -/
  | vfTeardown (fn : FnId)
  /-- VF_DRAIN_EXPIRY (R420). -/
  | vfDrainExpiry (fn : FnId)
  /-- FIRMWARE_UPDATE (R433). -/
  | firmwareUpdate (version : BitVec 32) (verified : Bool)
  /-- THERMAL_TRIP (R436). -/
  | thermalTrip
  /-- RESET (R15). -/
  | reset
  /-- WINDOW_ACCESS (R145). -/
  | windowAccess (m : WindowReq)
  /-- SID_ALLOCATION (R184). -/
  | sidAllocation (p : Pid) (sid : Sid) (create : Bool)
  /-- KERNEL_OBJECT_CREATION (R214). -/
  | kernelObjectCreation (p : Pid) (lvl : BitVec 2) (exp : BitVec 32) (par : ObjRef)
  /-- TDISP_LOCK (R418). -/
  | tdispLock (fn : FnId)
  /-- TDISP_START (R418). -/
  | tdispStart (fn : FnId)
  /-- TDISP_STOP (R418). -/
  | tdispStop (fn : FnId)
  /-- LINK_KEY_LOAD (R419). -/
  | linkKeyLoad (d : KeyDest)
  /-- KEY_EX (R423). -/
  | keyEx (fn : FnId) (version : Byte) (algs : Bool)
  /-- SLICE_RELOAD_COMPLETE (R433). -/
  | sliceReloadComplete (sl : SliceId)
  /-- HOST_PORT_REMOVAL (R143). -/
  | hostPortRemoval (h : BitVec 1)
  /-- PEER_DEVICE_DECONFIGURE (R143). -/
  | peerDeviceDeconfigure (dev : BitVec 10)
  /-- A sealed slot, or a flit of an IDE stream with its key-generation bit, that leaves over a link (R414, R419). -/
  | slotOut (port : Fin 24) (bytes tag : List Byte)
  | ideOut (fn : FnId) (gen : Bool)
  /-- The answer of a function in ERROR to a request of the host (R420). -/
  | completerAbort (fn : FnId)
  /-- Bytes that leave over a host link in answer to a request (R432); nothing inside the module receives them. -/
  | hostAnswer (fn : FnId) (bytes : List Byte)
  deriving DecidableEq, Repr


/-- The steps of the machine, one constructor per row of the opcode table, in the table's order: the heads with their operands, and the
events. What an event carries is an `Event`, which the state holds while the event is handled. -/
inductive Instr
  /-- ADD (R245). -/
  | add (o : AluOp)
  /-- SUB (R245). -/
  | sub (o : AluOp)
  /-- MUL (R245). -/
  | mul (o : AluOp)
  /-- MULH (R245). -/
  | mulh (o : AluOp)
  /-- DIV (R246). -/
  | div (o : AluOp)
  /-- MOD (R246). -/
  | mod (o : AluOp)
  /-- ABS (R247). -/
  | abs (o : UnOp)
  /-- NEG (R247). -/
  | neg (o : UnOp)
  /-- MIN (R247). -/
  | min (o : AluOp)
  /-- MAX (R247). -/
  | max (o : AluOp)
  /-- CLZ (R248). -/
  | clz (o : UnOp)
  /-- CTZ (R248). -/
  | ctz (o : UnOp)
  /-- POPC (R248). -/
  | popc (o : UnOp)
  /-- AND (R249). -/
  | and (o : BinOp)
  /-- ANDN (R249). -/
  | andn (o : BinOp)
  /-- OR (R249). -/
  | or (o : BinOp)
  /-- XOR (R249). -/
  | xor (o : BinOp)
  /-- LOG3 (R252). -/
  | log3 (o : Log3Op)
  /-- SHL (R250). -/
  | shl (o : BinOp)
  /-- SHR (R250). -/
  | shr (o : BinOp)
  /-- SRA (R250). -/
  | sra (o : BinOp)
  /-- FSHL (R251). -/
  | fshl (o : FshOp)
  /-- FSHR (R251). -/
  | fshr (o : FshOp)
  /-- CMP_EQ (R253). -/
  | cmpEq (o : CmpOp)
  /-- CMP_NE (R253). -/
  | cmpNe (o : CmpOp)
  /-- CMP_LT (R253). -/
  | cmpLt (o : CmpOp)
  /-- CMP_LE (R253). -/
  | cmpLe (o : CmpOp)
  /-- CMP_GT (R253). -/
  | cmpGt (o : CmpOp)
  /-- CMP_GE (R253). -/
  | cmpGe (o : CmpOp)
  /-- SEL (R254). -/
  | sel (o : SelOp)
  /-- CVT (R255). -/
  | cvt (o : CvtOp)
  /-- CVT_SAT (R255). -/
  | cvtSat (o : CvtOp)
  /-- LDI (R256). -/
  | ldi (a : GReg) (v : Word)
  /-- MOV (R257). -/
  | mov (a b : GReg)
  /-- MOV_X (R257). -/
  | movX (o : UnOp)
  /-- PSTEP (R258). -/
  | pstep (o : BinOp)
  /-- PTAG (R259). -/
  | ptag (o : BinOp)
  /-- PGET (R260). -/
  | pget (o : BinOp)
  /-- PDIFF (R261). -/
  | pdiff (o : BinOp)
  /-- BR (R263). -/
  | br (off : BitVec 19)
  /-- CALL (R263). -/
  | call (off : BitVec 19)
  /-- RET (R263). -/
  | ret
  /-- JR (R263). -/
  | jr (b : GReg)
  /-- BEQ (R264). -/
  | beq (o : BrrOp)
  /-- BNE (R264). -/
  | bne (o : BrrOp)
  /-- BLT_I64 (R264). -/
  | bltI64 (o : BrrOp)
  /-- BGE_I64 (R264). -/
  | bgeI64 (o : BrrOp)
  /-- BZ (R264). -/
  | bz (a : GReg) (off : BitVec 19)
  /-- BNZ (R264). -/
  | bnz (a : GReg) (off : BitVec 19)
  /-- BLT_Z64 (R264). -/
  | bltZ64 (o : BrrOp)
  /-- BGE_Z64 (R264). -/
  | bgeZ64 (o : BrrOp)
  /-- BALL (R265). -/
  | ball (p : PReg) (n : Byte) (off : BitVec 19)
  /-- BANY (R265). -/
  | bany (p : PReg) (n : Byte) (off : BitVec 19)
  /-- BP (R265). -/
  | bp (p : PReg) (off : BitVec 19)
  /-- BNP (R265). -/
  | bnp (p : PReg) (off : BitVec 19)
  /-- BBY (R266). -/
  | bby (b : BuoyId) (lvl : BitVec 6) (off : BitVec 19)
  /-- BCF (R266). -/
  | bcf (h : Handle) (n : Byte) (off : BitVec 19)
  /-- BEOS (R266). -/
  | beos (h : Handle) (off : BitVec 19)
  /-- LD (R274). -/
  | ld (o : LsOp)
  /-- LDNB (R275). -/
  | ldnb (o : LsOp)
  /-- LDC (R276). -/
  | ldc (o : LsOp)
  /-- RO_INV (R277). -/
  | roInv
  /-- ST (R278). -/
  | st (o : LsOp)
  /-- ATOM_ADD (R281). -/
  | atomAdd (o : AtomOp)
  /-- ATOM_AND (R281). -/
  | atomAnd (o : AtomOp)
  /-- ATOM_OR (R281). -/
  | atomOr (o : AtomOp)
  /-- ATOM_XOR (R281). -/
  | atomXor (o : AtomOp)
  /-- ATOM_MIN (R281). -/
  | atomMin (o : AtomOp)
  /-- ATOM_MAX (R281). -/
  | atomMax (o : AtomOp)
  /-- ATOM_SWAP (R281). -/
  | atomSwap (o : AtomOp)
  /-- ATOM_CAS (R281). -/
  | atomCas (o : AtomOp)
  /-- BRED_ADD (R282). -/
  | bredAdd (o : LsOp)
  /-- BRED_MIN (R282). -/
  | bredMin (o : LsOp)
  /-- BRED_MAX (R282). -/
  | bredMax (o : LsOp)
  /-- BUPD_SET (R283). -/
  | bupdSet (o : BupdOp)
  /-- BUPD_ADD (R283). -/
  | bupdAdd (o : BupdOp)
  /-- BUPD_MUL (R283). -/
  | bupdMul (o : BupdOp)
  /-- BUPD_MIN (R283). -/
  | bupdMin (o : BupdOp)
  /-- BUPD_MAX (R283). -/
  | bupdMax (o : BupdOp)
  /-- DISCARD (R285). -/
  | discard (o : DiscardOp)
  /-- BARINIT (R286). -/
  | barinit (o : BarinitOp)
  /-- BAR (R287). -/
  | bar (b : GReg)
  /-- BAR_Q (R287). -/
  | barQ (b : GReg)
  /-- QCLOSE (R290). -/
  | qclose
  /-- DRAINST (R291). -/
  | drainst (a : GReg)
  /-- FENCE_TASK (R231). -/
  | fenceTask (o : FenceOp)
  /-- FENCE_CORE (R231). -/
  | fenceCore (o : FenceOp)
  /-- FENCE_GANG (R231). -/
  | fenceGang (o : FenceOp)
  /-- FENCE_DIE (R231). -/
  | fenceDie (o : FenceOp)
  /-- FENCE_DEVICE (R231). -/
  | fenceDevice (o : FenceOp)
  /-- FENCE_SYSTEM (R231). -/
  | fenceSystem (o : FenceOp)
  /-- SERVICE_CORE_FENCE (R233). -/
  | serviceCoreFence (scope : BitVec 3) (o : FenceOp)
  /-- CBIND (R298). -/
  | cbind (h : Handle) (b : GReg)
  /-- CUNBIND (R299). -/
  | cunbind (h : Handle)
  /-- CADV (R300). -/
  | cadv (o : HandleOp)
  /-- CFILL (R301). -/
  | cfill (a : GReg) (h : Handle)
  /-- CWAIT (R301). -/
  | cwait (o : HandleOp)
  /-- CSEND (R302). -/
  | csend (o : CsendOp)
  /-- CSEND_EOS (R302). -/
  | csendEos (o : CsendOp)
  /-- CMASK (R303). -/
  | cmask (o : GiOp)
  /-- CUNMASK (R303). -/
  | cunmask (o : GiOp)
  /-- SETPRIO (R304). -/
  | setprio (o : GiOp)
  /-- YIELD (R305). -/
  | yield
  /-- SLEEP (R60). -/
  | sleep
  /-- END (R305). -/
  | endTask
  /-- DECR (R307). -/
  | decr (o : DecrOp)
  /-- SPAWN (R311). -/
  | spawn (o : RrOp)
  /-- LAUNCH (R309). -/
  | launch (o : RrOp)
  /-- LAUNCH_BAR (R309). -/
  | launchBar (o : RrOp)
  /-- CANCEL_LAUNCH (R312). -/
  | cancelLaunch (o : CancelOp)
  /-- CANCEL_GRAPH (R312). -/
  | cancelGraph (o : CancelOp)
  /-- CANCEL_PHASE (R312). -/
  | cancelPhase (o : CancelOp)
  /-- CANCEL_JOB (R312). -/
  | cancelJob (o : CancelOp)
  /-- GFORM (R313). -/
  | gform (b : Src)
  /-- GREL (R314). -/
  | grel
  /-- TBLD (R315). -/
  | tbld (n : Bool) (b : GReg) (c : Src)
  /-- CRD (R316). -/
  | crd (o : CrOp)
  /-- CWR (R316). -/
  | cwr (o : CrOp)
  /-- TRAP (R317). -/
  | trap (o : GiOp)
  /-- RFT (R317). -/
  | rft
  /-- BKPT (R317). -/
  | bkpt
  /-- NOP (R317). -/
  | nop
  /-- SCRUB (R319). -/
  | scrub (o : RrOp)
  /-- LOGCTL_DEFINE (R320). -/
  | logctlDefine (o : LogOp)
  /-- LOGCTL_DISABLE (R320). -/
  | logctlDisable (o : LogOp)
  /-- LOGCTL_SEQUENCE (R320). -/
  | logctlSequence (o : LogOp)
  /-- VADD (R327). -/
  | vadd (o : V3Op)
  /-- VSUB (R327). -/
  | vsub (o : V3Op)
  /-- VMUL (R327). -/
  | vmul (o : V3Op)
  /-- VADD_SAT (R327). -/
  | vaddSat (o : V3Op)
  /-- VSUB_SAT (R327). -/
  | vsubSat (o : V3Op)
  /-- VMUL_SAT (R327). -/
  | vmulSat (o : V3Op)
  /-- VFMA (R328). -/
  | vfma (o : V4Op)
  /-- VFMS (R328). -/
  | vfms (o : V4Op)
  /-- VMIN (R329). -/
  | vmin (o : V3Op)
  /-- VMAX (R329). -/
  | vmax (o : V3Op)
  /-- VMINN (R329). -/
  | vminn (o : V3Op)
  /-- VMAXN (R329). -/
  | vmaxn (o : V3Op)
  /-- VAND (R330). -/
  | vand (o : VLogOp)
  /-- VOR (R330). -/
  | vor (o : VLogOp)
  /-- VXOR (R330). -/
  | vxor (o : VLogOp)
  /-- VSEL (R330). -/
  | vsel (o : VLogOp)
  /-- VLOG3 (R330). -/
  | vlog3 (o : VLogOp)
  /-- VCMP_EQ (R331). -/
  | vcmpEq (o : VcmpOp)
  /-- VCMP_NE (R331). -/
  | vcmpNe (o : VcmpOp)
  /-- VCMP_LT (R331). -/
  | vcmpLt (o : VcmpOp)
  /-- VCMP_LE (R331). -/
  | vcmpLe (o : VcmpOp)
  /-- VCMP_GT (R331). -/
  | vcmpGt (o : VcmpOp)
  /-- VCMP_GE (R331). -/
  | vcmpGe (o : VcmpOp)
  /-- VCVT (R333). -/
  | vcvt (o : VcvtOp)
  /-- VCVT_SAT (R333). -/
  | vcvtSat (o : VcvtOp)
  /-- ENC (R334). -/
  | enc (o : EncOp)
  /-- ENC_SAT (R334). -/
  | encSat (o : EncOp)
  /-- DEC (R335). -/
  | dec (o : EncOp)
  /-- VBCAST (R336). -/
  | vbcast (o : VbcastOp)
  /-- VPERM (R337). -/
  | vperm (o : VpermOp)
  /-- VRED_ADD (R338). -/
  | vredAdd (o : VredOp)
  /-- VRED_MIN (R338). -/
  | vredMin (o : VredOp)
  /-- VRED_MAX (R338). -/
  | vredMax (o : VredOp)
  /-- VLD (R341). -/
  | vld (o : VmemOp)
  /-- VST (R342). -/
  | vst (o : VmemOp)
  /-- VRCP (R344). -/
  | vrcp (o : VfnOp)
  /-- VRSQ (R344). -/
  | vrsq (o : VfnOp)
  /-- VEXP2 (R344). -/
  | vexp2 (o : VfnOp)
  /-- VLOG2 (R344). -/
  | vlog2 (o : VfnOp)
  /-- MXCLR (R350). -/
  | mxclr (acc : AReg)
  /-- MXMUL (R351). -/
  | mxmul (o : MxmulOp)
  /-- MXS3 (R352). -/
  | mxs3 (o : MxmulOp)
  /-- MXST (R355). -/
  | mxst (o : MxstOp)
  /-- MXST_SAT (R355). -/
  | mxstSat (o : MxstOp)
  /-- MXEDGE (R357). -/
  | mxedge (o : MxacOp)
  /-- MXSPLIT_ENTER (R358). -/
  | mxsplitEnter (o : MxacOp)
  /-- MXSPLIT_LEAVE (R358). -/
  | mxsplitLeave (o : MxacOp)
  /-- MXREM (R359). -/
  | mxrem (o : RrOp)
  /-- MXRSM (R354). -/
  | mxrsm (acc : AReg)
  /-- RSTAT (R361). -/
  | rstat (o : RstatOp)
  /-- RSTAT_E (R361). -/
  | rstatE (o : RstatEOp)
  /-- GMU (R366). -/
  | gmu (o : GmsgOp)
  /-- GSUM (R367). -/
  | gsum (b : GReg)
  /-- GSUB (R367). -/
  | gsub (o : GmsgOp)
  /-- GRES (R368). -/
  | gres (o : RrOp)
  /-- CXQ (R371). -/
  | cxq (o : CxqOp)
  /-- CXQ_NB (R371). -/
  | cxqNb (o : CxqOp)
  /-- CXWAIT (R383). -/
  | cxwait (o : CxwaitOp)
  /-- MAP (R387). -/
  | map (o : SpaceOp)
  /-- GRANT (R387). -/
  | grant (o : SpaceOp)
  /-- UNMAP (R388). -/
  | unmap (o : SpaceOp)
  /-- SPQRY (R389). -/
  | spqry (o : SpqryOp)
  /-- LINE_BOUNDARY_SELECTION (R166). -/
  | lineBoundarySelection
  /-- AGE_WRAP (R166). -/
  | ageWrap
  /-- MEMREP_RECEIVE (R26). -/
  | memrepReceive
  /-- CEILING_RECOVERY (R220). -/
  | ceilingRecovery
  /-- BUOY_SILENCE_TIMEOUT (R412). -/
  | buoySilenceTimeout
  /-- BANK_REQUEST (R147). -/
  | bankRequest
  /-- BANK_MISS_FILL (R147). -/
  | bankMissFill
  /-- WRITE_BACK_ACCEPT (R151). -/
  | writeBackAccept
  /-- COPY_SLICE_LOAD (R150). -/
  | copySliceLoad
  /-- COPY_INVALIDATE (R150). -/
  | copyInvalidate
  /-- INVALIDATE_ACK (R229). -/
  | invalidateAck
  /-- LATE_REQUEST_AT_HOME (R183). -/
  | lateRequestAtHome
  /-- LANDED_NOTICE (R183). -/
  | landedNotice
  /-- TRANSLATION_MISS (R182). -/
  | translationMiss
  /-- MAP_AT_HOME (R180). -/
  | mapAtHome
  /-- MAP_FORWARD (R180). -/
  | mapForward
  /-- RECORD_CREATION (R180). -/
  | recordCreation
  /-- UNMAP_AT_COORDINATOR (R388). -/
  | unmapAtCoordinator
  /-- UNMAP_PART (R388). -/
  | unmapPart
  /-- WITHDRAW_MESSAGE (R185). -/
  | withdrawMessage
  /-- WITHDRAW_ACK (R185). -/
  | withdrawAck
  /-- SHOOTDOWN (R185). -/
  | shootdown
  /-- SHOOTDOWN_ACK (R184). -/
  | shootdownAck
  /-- RECORD_REMOVAL (R441). -/
  | recordRemoval
  /-- WITHDRAW_COMPLETION_POST (R388). -/
  | withdrawCompletionPost
  /-- SPQRY_AT_HOME (R389). -/
  | spqryAtHome
  /-- DET_REFUSAL (R207). -/
  | detRefusal
  /-- ROOM_NOTICE (R207). -/
  | roomNotice
  /-- CLOSE_REPORT (R289). -/
  | closeReport
  /-- CLOSE_AT_BANK (R206). -/
  | closeAtBank
  /-- CLOSE_ACK (R289). -/
  | closeAck
  /-- CLOSE_NOTICE (R289). -/
  | closeNotice
  /-- WAITING_REPORT (R208). -/
  | waitingReport
  /-- QUANTUM_OVERFLOW_NOTICE (R396). -/
  | quantumOverflowNotice
  /-- FAULT_MARK (R447). -/
  | faultMark
  /-- MEMBER_START_POST (R212). -/
  | memberStartPost
  /-- COMPLETION_POST (R212). -/
  | completionPost
  /-- LAUNCH_MESSAGE_AT_HOME (R309). -/
  | launchMessageAtHome
  /-- HOST_LAUNCH_WRITE (R40). -/
  | hostLaunchWrite
  /-- HOST_CREATION_WRITE (R214). -/
  | hostCreationWrite
  /-- SPAWN_MEMBER_ADD (R311). -/
  | spawnMemberAdd
  /-- SPAWN_PLACE (R311). -/
  | spawnPlace
  /-- SPAWN_MEMBER_REMOVE (R311). -/
  | spawnMemberRemove
  /-- CANCEL_AT_OBJECT (R213). -/
  | cancelAtObject
  /-- TERMINATION_NOTICE (R213). -/
  | terminationNotice
  /-- CANCEL_WALK (R213). -/
  | cancelWalk
  /-- PLACEMENT (R310). -/
  | placement
  /-- DECR_APPLY (R210). -/
  | decrApply
  /-- CHAN_PACKET_RECEIVE (R169). -/
  | chanPacketReceive
  /-- GAUSS_PART_RECEIVE (R363). -/
  | gaussPartReceive
  /-- MXCMD_RECEIVE (R360). -/
  | mxcmdReceive
  /-- BARRIER_ARRIVE (R216). -/
  | barrierArrive
  /-- BARRIER_BYTES (R216). -/
  | barrierBytes
  /-- BARRIER_WAKE (R288). -/
  | barrierWake
  /-- ARRIVAL_REPLY (R288). -/
  | arrivalReply
  /-- CX_TRANSFER_START (R375). -/
  | cxTransferStart
  /-- HALO_START (R379). -/
  | haloStart
  /-- CX_UNIT_WRITE (R375). -/
  | cxUnitWrite
  /-- CX_BYTES_POST (R377). -/
  | cxBytesPost
  /-- GCM_TAG_CHECK (R381). -/
  | gcmTagCheck
  /-- CX_TRANSFER_COMPLETE (R382). -/
  | cxTransferComplete
  /-- VX_HEAD_START (R325). -/
  | vxHeadStart
  /-- VX_HEAD_COMPLETE (R325). -/
  | vxHeadComplete
  /-- VST_SEND (R342). -/
  | vstSend
  /-- MX_HEAD_START (R353). -/
  | mxHeadStart
  /-- MX_STEP_APPLY (R114). -/
  | mxStepApply
  /-- MXST_SEND (R355). -/
  | mxstSend
  /-- GFORM_JOIN (R313). -/
  | gformJoin
  /-- GANG_START (R174). -/
  | gangStart
  /-- REMOTE_COMPLETION_NOTICE (R232). -/
  | remoteCompletionNotice
  /-- PORT_HEADER_DISCARD (R24). -/
  | portHeaderDiscard
  /-- MULTICAST_REPLICATE (R409). -/
  | multicastReplicate
  /-- MULTICAST_BLOCK_TIMEOUT (R410). -/
  | multicastBlockTimeout
  /-- BANK_OP_LINE0 (R284). -/
  | bankOpLine0
  /-- BANK_OP_LINE1 (R284). -/
  | bankOpLine1
  /-- SERVICE_RETRY (R189). -/
  | serviceRetry
  /-- SERVICE_FAIL (R189). -/
  | serviceFail
  /-- SERVICE_TRANSLATION_ANSWER (R189). -/
  | serviceTranslationAnswer
  /-- SWAP_OUT (R402). -/
  | swapOut
  /-- RESTORE (R402). -/
  | restore
  /-- CORE_FENCE (R434). -/
  | coreFence
  /-- CORE_REENABLE (R434). -/
  | coreReenable
  /-- PARTITION_DESCRIPTOR_WRITE (R422). -/
  | partitionDescriptorWrite
  /-- STITCH_DESCRIPTOR_WRITE (R407). -/
  | stitchDescriptorWrite
  /-- LOG_CONTROL_WRITE (R428). -/
  | logControlWrite
  /-- REGISTER_WRITE (R13). -/
  | registerWrite
  /-- KEY_LOAD (R424). -/
  | keyLoad
  /-- KEY_ERASE (R426). -/
  | keyErase
  /-- GET_MEASUREMENTS (R432). -/
  | getMeasurements
  /-- SCRUB_RUN (R429). -/
  | scrubRun
  /-- LOG_INTERVAL_END (R223). -/
  | logIntervalEnd
  /-- LOG_COUNT_SUM (R223). -/
  | logCountSum
  /-- PATROL_READ (R151). -/
  | patrolRead
  /-- DIRECTORY_COUNT_REPORT (R416). -/
  | directoryCountReport
  /-- MOVE_COMPLETE (R440). -/
  | moveComplete
  /-- DIRECTORY_GRANT (R415). -/
  | directoryGrant
  /-- SNOOP (R415). -/
  | snoop
  /-- LINK_DOWN (R417). -/
  | linkDown
  /-- LINK_RECOVER (R417). -/
  | linkRecover
  /-- QUARANTINE_TIMEOUT (R417). -/
  | quarantineTimeout
  /-- FLIT_SEND (R414). -/
  | flitSend
  /-- FLIT_RECEIVE (R414). -/
  | flitReceive
  /-- IDE_KEY_SWITCH (R419). -/
  | ideKeySwitch
  /-- IDE_OLD_BANK_ERASE (R419). -/
  | ideOldBankErase
  /-- VF_CONFIG_CHANGE (R418). -/
  | vfConfigChange
  /-- VF_TEARDOWN (R420). -/
  | vfTeardown
  /-- VF_DRAIN_EXPIRY (R420). -/
  | vfDrainExpiry
  /-- FIRMWARE_UPDATE (R433). -/
  | firmwareUpdate
  /-- THERMAL_TRIP (R436). -/
  | thermalTrip
  /-- RESET (R15). -/
  | reset
  /-- WINDOW_ACCESS (R145). -/
  | windowAccess
  /-- ILLEGAL_OP (R91). -/
  | illegalOp
  /-- SID_ALLOCATION (R184). -/
  | sidAllocation
  /-- KERNEL_OBJECT_CREATION (R214). -/
  | kernelObjectCreation
  /-- TDISP_LOCK (R418). -/
  | tdispLock
  /-- TDISP_START (R418). -/
  | tdispStart
  /-- TDISP_STOP (R418). -/
  | tdispStop
  /-- LINK_KEY_LOAD (R419). -/
  | linkKeyLoad
  /-- KEY_EX (R423). -/
  | keyEx
  /-- SLICE_RELOAD_COMPLETE (R433). -/
  | sliceReloadComplete
  /-- HOST_PORT_REMOVAL (R143). -/
  | hostPortRemoval
  /-- PEER_DEVICE_DECONFIGURE (R143). -/
  | peerDeviceDeconfigure
  deriving DecidableEq, Repr

/-- The row of the opcode table that an event is a step of. (The last four have left the device and
stand in `out` only; given to the machine they would change nothing.) -/
def Event.instr : Event → Instr
  | .ageWrap _ _ => .ageWrap
  | .memrepReceive _ => .memrepReceive
  | .ceilingRecovery _ _ => .ceilingRecovery
  | .buoySilenceTimeout _ _ => .buoySilenceTimeout
  | .bankRequest _ => .bankRequest
  | .bankMissFill _ => .bankMissFill
  | .writeBackAccept _ => .writeBackAccept
  | .copySliceLoad _ _ => .copySliceLoad
  | .copyInvalidate _ _ => .copyInvalidate
  | .invalidateAck _ _ => .invalidateAck
  | .lateRequestAtHome _ => .lateRequestAtHome
  | .landedNotice _ _ => .landedNotice
  | .translationMiss _ => .translationMiss
  | .mapAtHome _ => .mapAtHome
  | .mapForward _ => .mapForward
  | .recordCreation _ _ _ => .recordCreation
  | .unmapAtCoordinator _ => .unmapAtCoordinator
  | .unmapPart _ _ => .unmapPart
  | .withdrawMessage _ _ => .withdrawMessage
  | .withdrawAck _ _ => .withdrawAck
  | .shootdown _ _ _ _ => .shootdown
  | .shootdownAck _ _ => .shootdownAck
  | .recordRemoval _ => .recordRemoval
  | .withdrawCompletionPost _ _ => .withdrawCompletionPost
  | .spqryAtHome _ => .spqryAtHome
  | .detRefusal _ => .detRefusal
  | .roomNotice _ _ => .roomNotice
  | .closeReport _ _ => .closeReport
  | .closeAtBank _ _ _ _ => .closeAtBank
  | .closeAck _ _ _ => .closeAck
  | .closeNotice _ _ _ => .closeNotice
  | .waitingReport _ _ _ _ => .waitingReport
  | .quantumOverflowNotice _ _ _ => .quantumOverflowNotice
  | .faultMark _ => .faultMark
  | .memberStartPost _ _ => .memberStartPost
  | .completionPost _ _ _ => .completionPost
  | .launchMessageAtHome _ => .launchMessageAtHome
  | .hostLaunchWrite _ _ _ _ _ _ => .hostLaunchWrite
  | .hostCreationWrite _ _ _ _ _ => .hostCreationWrite
  | .spawnMemberAdd _ => .spawnMemberAdd
  | .spawnPlace _ => .spawnPlace
  | .spawnMemberRemove _ => .spawnMemberRemove
  | .cancelAtObject _ => .cancelAtObject
  | .terminationNotice _ _ => .terminationNotice
  | .cancelWalk _ => .cancelWalk
  | .placement _ => .placement
  | .decrApply _ _ _ _ _ => .decrApply
  | .chanPacketReceive _ => .chanPacketReceive
  | .gaussPartReceive _ => .gaussPartReceive
  | .mxcmdReceive _ _ _ => .mxcmdReceive
  | .barrierArrive _ => .barrierArrive
  | .barrierBytes _ => .barrierBytes
  | .barrierWake _ _ _ => .barrierWake
  | .arrivalReply _ _ _ _ _ _ _ => .arrivalReply
  | .cxTransferStart _ => .cxTransferStart
  | .haloStart _ _ _ => .haloStart
  | .cxUnitWrite _ _ _ => .cxUnitWrite
  | .cxBytesPost _ _ _ => .cxBytesPost
  | .gcmTagCheck _ _ _ => .gcmTagCheck
  | .cxTransferComplete _ _ _ => .cxTransferComplete
  | .vxHeadStart _ => .vxHeadStart
  | .vxHeadComplete _ => .vxHeadComplete
  | .vstSend _ => .vstSend
  | .mxHeadStart _ _ => .mxHeadStart
  | .mxStepApply _ _ => .mxStepApply
  | .mxstSend _ _ => .mxstSend
  | .gformJoin _ _ _ => .gformJoin
  | .gangStart _ _ => .gangStart
  | .remoteCompletionNotice _ _ => .remoteCompletionNotice
  | .portHeaderDiscard _ _ => .portHeaderDiscard
  | .multicastReplicate _ _ _ => .multicastReplicate
  | .multicastBlockTimeout _ _ => .multicastBlockTimeout
  | .bankOpLine0 _ _ _ _ => .bankOpLine0
  | .bankOpLine1 _ _ _ _ => .bankOpLine1
  | .serviceRetry _ _ => .serviceRetry
  | .serviceFail _ _ => .serviceFail
  | .serviceTranslationAnswer _ _ => .serviceTranslationAnswer
  | .swapOut _ => .swapOut
  | .restore _ => .restore
  | .coreFence _ => .coreFence
  | .coreReenable _ _ => .coreReenable
  | .partitionDescriptorWrite _ _ => .partitionDescriptorWrite
  | .stitchDescriptorWrite _ _ _ => .stitchDescriptorWrite
  | .logControlWrite _ _ _ => .logControlWrite
  | .registerWrite _ _ _ => .registerWrite
  | .keyLoad _ _ _ _ => .keyLoad
  | .keyErase _ => .keyErase
  | .getMeasurements _ => .getMeasurements
  | .scrubRun _ => .scrubRun
  | .logIntervalEnd => .logIntervalEnd
  | .logCountSum _ => .logCountSum
  | .patrolRead _ => .patrolRead
  | .directoryCountReport _ _ _ => .directoryCountReport
  | .moveComplete _ _ => .moveComplete
  | .directoryGrant _ _ _ _ _ => .directoryGrant
  | .snoop _ _ => .snoop
  | .linkDown _ => .linkDown
  | .linkRecover _ => .linkRecover
  | .quarantineTimeout _ => .quarantineTimeout
  | .flitSend _ => .flitSend
  | .flitReceive _ => .flitReceive
  | .ideKeySwitch _ => .ideKeySwitch
  | .ideOldBankErase _ => .ideOldBankErase
  | .vfConfigChange _ => .vfConfigChange
  | .vfTeardown _ => .vfTeardown
  | .vfDrainExpiry _ => .vfDrainExpiry
  | .firmwareUpdate _ _ => .firmwareUpdate
  | .thermalTrip => .thermalTrip
  | .reset => .reset
  | .windowAccess _ => .windowAccess
  | .sidAllocation _ _ _ => .sidAllocation
  | .kernelObjectCreation _ _ _ _ => .kernelObjectCreation
  | .tdispLock _ => .tdispLock
  | .tdispStart _ => .tdispStart
  | .tdispStop _ => .tdispStop
  | .linkKeyLoad _ => .linkKeyLoad
  | .keyEx _ _ _ => .keyEx
  | .sliceReloadComplete _ => .sliceReloadComplete
  | .hostPortRemoval _ => .hostPortRemoval
  | .peerDeviceDeconfigure _ => .peerDeviceDeconfigure
  | .slotOut _ _ _ => .flitSend
  | .ideOut _ _ => .flitSend
  | .completerAbort _ => .vfTeardown
  | .hostAnswer _ _ => .getMeasurements

end Sys2Proof
end

