-- ==== Sys2Proof/WellFormed.lean ====
section
/-! DEFINITION. Which instructions are well-formed: the operand values that the encodings of R82 to R89 and the entries of the
instruction chapters admit. Messages are well-formed when they carry what the packet formats can carry (R23). -/

namespace Sys2Proof

/-- The integer suffixes `.i*` and `.z*` (R71). -/
def Ty.isInt : Ty → Bool
  | .i8 | .i16 | .i32 | .i64 | .z8 | .z16 | .z32 | .z64 => true
  | _ => false

/-- The signed suffixes `.i*` (R71). -/
def Ty.isSigned : Ty → Bool
  | .i8 | .i16 | .i32 | .i64 => true
  | _ => false

/-- The float suffixes `.f*` (R71). -/
def Ty.isFloat : Ty → Bool
  | .f16 | .bf16 | .f19 | .f32 => true
  | _ => false

/-- The lane count of a type (R124); the logic heads see 64 byte lanes (R322). -/
def Ty.lanes : Ty → Nat
  | .i8 | .z8 | .t8 | .nosfx => 64
  | .i16 | .z16 | .f16 | .bf16 => 32
  | .i32 | .z32 | .f32 | .f19 => 16
  | .i64 | .z64 => 8
  | .t4 => 128

/-- `.i* .z* .f32`: ADD, SUB, MUL, CMP, MIN, MAX (R71). -/
def tyArith (t : Ty) : Bool := t.isInt || t == .f32

/-- `.i64 .z64`: MULH, DIV, MOD (R71). -/
def ty64 (t : Ty) : Bool := t == .i64 || t == .z64

/-- `.i* .f32`: ABS, NEG (R71). -/
def tyAbs (t : Ty) : Bool := t.isSigned || t == .f32

/-- No suffix (R82). -/
def tyNone (t : Ty) : Bool := t == .nosfx

/-- `.i* .z* .f*`: codes 0 to 11 (R71, R255). -/
def tyNum (t : Ty) : Bool := t.isInt || t.isFloat

/-- `.i* .z* .f*` or no suffix: LD, LDC, LDNB, ST (R82). -/
def tyLoad (t : Ty) : Bool := tyNum t || t == .nosfx

/-- `.i32 .i64 .z32 .z64`: ATOM (R281). -/
def tyAtom (t : Ty) : Bool := t == .i32 || t == .i64 || t == .z32 || t == .z64

/-- `.i32 .i64 .f32`: BRED, BUPD (R282, R283). -/
def tyBank (t : Ty) : Bool := t == .i32 || t == .i64 || t == .f32

/-- `.i8 .i16 .i32 .z8 .z16 .f*`: VADD, VSUB, VMUL, VCMP (R71). -/
def tyVArith (t : Ty) : Bool := t == .i8 || t == .i16 || t == .i32 || t == .z8 || t == .z16 || t.isFloat

/-- `.i* .f*`: VBCAST, VPERM (R71). -/
def tyVMove (t : Ty) : Bool := t.isSigned || t.isFloat

/-- `.i8 .i16 .i32 .f* .t8 .t4`: MXST (R347). -/
def tyMxst (t : Ty) : Bool := t == .i8 || t == .i16 || t == .i32 || t.isFloat || t == .t8 || t == .t4

/-- A handle's wait count is 1 to 15 (R65, R91). -/
def Src.wf : Src → Bool
  | .g _ => true
  | .c _ k => k != 0

/-- A source in a field that has no wait count waits for one slot (R83, R84). -/
def Src.one : Src → Bool
  | .g _ => true
  | .c _ k => k == 1

/-- The signed immediate of layout I has at most 48 bits (R84). -/
def immS48 (v : Word) : Bool := (v + 2 ^ 47).toNat < 2 ^ 48

/-- B and C with a signed immediate (R84, R243). -/
def Opd.wfSigned (b : Src) : Opd → Bool
  | .src x => b.wf && x.wf
  | .imm v => b.one && immS48 v

/-- B and C with an unsigned immediate up to `m` (R243). -/
def Opd.wfUpTo (b : Src) (m : Nat) : Opd → Bool
  | .src x => b.wf && x.wf
  | .imm v => b.one && decide (v.toNat ≤ m)

/-- A C operand alone, with an unsigned immediate up to `m`. -/
def Opd.wfAlone (m : Nat) : Opd → Bool
  | .src x => x.wf
  | .imm v => decide (v.toNat ≤ m)

def Opd.isImm : Opd → Bool
  | .src _ => false
  | .imm _ => true

def AluOp.wf (o : AluOp) (ok : Ty → Bool) : Bool := ok o.t && o.c.wfSigned o.b && !(o.t == .f32 && o.c.isImm)
def BinOp.wfSigned (o : BinOp) : Bool := o.c.wfSigned o.b
def BinOp.wfUpTo (o : BinOp) (m : Nat) : Bool := o.c.wfUpTo o.b m
def BinOp.wfRegs (o : BinOp) : Bool := o.c.wfSigned o.b && !o.c.isImm
def UnOp.wf (o : UnOp) (ok : Ty → Bool) : Bool := ok o.t && o.b.wf

/-- The count of a funnel shift in T64 is 0 to 63 (R251). -/
def FshOp.wf (o : FshOp) : Bool :=
  o.b.wf && o.c.wf && (match o.n with | .reg _ => true | .imm v => decide (v.toNat ≤ 63))

def Log3Op.wf (o : Log3Op) : Bool := o.b.wf && o.c.wf
def SelOp.wf (o : SelOp) : Bool := o.b.wf && o.c.wf
def CvtOp.wf (o : CvtOp) : Bool := tyNum o.t && tyNum o.s && o.b.wf
def CmpOp.wf (o : CmpOp) : Bool := tyArith o.t && o.c.wfSigned o.b && !(o.t == .f32 && o.c.isImm)
def LsOp.wf (o : LsOp) (ok : Ty → Bool) : Bool := ok o.t
def AtomOp.wf (o : AtomOp) : Bool := tyAtom o.t && o.b != 0 && o.c.wf

/-- BUPD's mask immediate has 16 bits (R283). -/
def BupdOp.wf (o : BupdOp) : Bool :=
  tyBank o.t && o.b != 0 && (match o.mask with | .reg _ => true | .imm v => decide (v.toNat < 2 ^ 16))

def GiOp.wfUpTo (o : GiOp) (m : Nat) : Bool := o.c.wfAlone m
def DecrOp.wf (o : DecrOp) : Bool := o.c.wfAlone (2 ^ 32 - 1)

/-- The numbers of R131; CRD and CWR on GEOM need A in 1 to 14 (R316). -/
def CrOp.wfWrite (o : CrOp) : Bool :=
  decide (o.n.toNat ≤ 14) && (o.n != 1 || (decide (1 ≤ o.a.toNat) && decide (o.a.toNat ≤ 14)))

def CrOp.wfRead (o : CrOp) : Bool :=
  o.wfWrite || (decide (64 ≤ o.n.toNat) && decide (o.n.toNat ≤ 191))

def VSrc.wf : VSrc → Bool
  | .v _ => true
  | .c _ k => k != 0

def VOpd.wf : VOpd → Bool
  | .src x => x.wf
  | .bc _ => true

def VOpd.isBc : VOpd → Bool
  | .src _ => false
  | .bc _ => true

def V3Op.wf (o : V3Op) (ok : Ty → Bool) : Bool := ok o.t && o.b.wf && o.c.wf
def V4Op.wf (o : V4Op) : Bool := o.t.isFloat && o.b.wf && o.c.wf
def VLogOp.wf (o : VLogOp) : Bool := o.b.wf && o.c.wf
def VcmpOp.wf (o : VcmpOp) : Bool := tyVArith o.t && o.b.wf && o.c.wf

/-- The range of `part` between `ls` source lanes and `lt` target lanes (R332). -/
def partOk (ls lt part : Nat) : Bool :=
  if ls ≤ lt then decide (part < lt / ls) else decide (part < ls / lt)

def VcvtOp.wf (o : VcvtOp) : Bool := tyNum o.t && tyNum o.s && o.b.wf && partOk o.s.lanes o.t.lanes o.part.toNat

/-- ENC: codes of `t` from float lanes of `s` (R334). -/
def EncOp.wfEnc (o : EncOp) : Bool :=
  (o.t == .t8 || o.t == .t4) && o.s.isFloat && o.b.wf && partOk o.s.lanes o.t.lanes o.part.toNat

/-- DEC: float lanes of `s` from codes of `t` (R335). -/
def EncOp.wfDec (o : EncOp) : Bool :=
  (o.t == .t8 || o.t == .t4) && o.s.isFloat && o.b.wf && partOk o.t.lanes o.s.lanes o.part.toNat

/-- VBCAST's lane number is below the lane count (R336). -/
def VbcastOp.wf (o : VbcastOp) : Bool :=
  tyVMove o.t && (match o.b with | .g _ => true | .lane _ n => decide (n.toNat < o.t.lanes))

def VpermOp.wf (o : VpermOp) : Bool := tyVMove o.t && o.b.wf && o.c.wf
def VredOp.wf (o : VredOp) : Bool := o.t == .i32 || o.t == .f32
def VmemOp.wf (o : VmemOp) : Bool := tyLoad o.t || o.t == .t8 || o.t == .t4
def MxstOp.wf (o : MxstOp) : Bool := tyMxst o.t && o.b != 0 && (o.d.isSome || o.q == .always)

/-- SPQRY's immediate is 0 or 1 (R389). -/
def SpqryOp.wf (o : SpqryOp) : Bool := match o.c with | .reg _ => true | .imm v => decide (v.toNat ≤ 1)

/-- A packet has one to eight payload words (R23). -/
def Packet.wf (k : Packet) : Bool := decide (1 ≤ k.ws.length) && decide (k.ws.length ≤ 8)

/-- A request is for bytes of one line (R25, R272). -/
def MemReq.wf (r : MemReq) : Bool := decide (r.pa.toNat % 64 + r.n ≤ 64)

/-- Messages are well-formed when they carry what their packet formats can carry (R23). -/
def Event.wf : Event → Bool
  | .ageWrap _ _ => true
  | .memrepReceive _ => true
  | .ceilingRecovery _ _ => true
  | .buoySilenceTimeout _ _ => true
  | .bankRequest r => r.wf
  | .bankMissFill _ => true
  | .writeBackAccept _ => true
  | .copySliceLoad _ r => r.wf
  | .copyInvalidate _ _ => true
  | .invalidateAck _ _ => true
  | .lateRequestAtHome r => r.wf
  | .landedNotice _ _ => true
  | .translationMiss _ => true
  | .mapAtHome _ => true
  | .mapForward _ => true
  | .recordCreation _ _ _ => true
  | .unmapAtCoordinator _ => true
  | .unmapPart _ _ => true
  | .withdrawMessage _ _ => true
  | .withdrawAck _ _ => true
  | .shootdown _ _ _ _ => true
  | .shootdownAck _ _ => true
  | .recordRemoval _ => true
  | .withdrawCompletionPost _ _ => true
  | .spqryAtHome _ => true
  | .detRefusal r => r.wf
  | .roomNotice _ _ => true
  | .closeReport _ _ => true
  | .closeAtBank _ _ _ _ => true
  | .closeAck _ _ _ => true
  | .closeNotice _ _ _ => true
  | .waitingReport _ _ _ _ => true
  | .quantumOverflowNotice _ _ _ => true
  | .faultMark _ => true
  | .memberStartPost _ _ => true
  | .completionPost _ _ _ => true
  | .launchMessageAtHome _ => true
  | .hostLaunchWrite _ _ _ _ _ _ => true
  | .hostCreationWrite _ _ _ _ _ => true
  | .spawnMemberAdd _ => true
  | .spawnPlace _ => true
  | .spawnMemberRemove _ => true
  | .cancelAtObject _ => true
  | .terminationNotice _ _ => true
  | .cancelWalk _ => true
  | .placement _ => true
  | .decrApply _ _ _ _ _ => true
  | .chanPacketReceive k => k.wf
  | .gaussPartReceive k => k.wf
  | .mxcmdReceive k _ _ => k.wf
  | .barrierArrive _ => true
  | .barrierBytes _ => true
  | .barrierWake _ _ _ => true
  | .arrivalReply _ _ _ _ _ _ _ => true
  | .cxTransferStart _ => true
  | .haloStart _ _ _ => true
  | .cxUnitWrite _ _ _ => true
  | .cxBytesPost _ _ _ => true
  | .gcmTagCheck _ _ _ => true
  | .cxTransferComplete _ _ _ => true
  | .vxHeadStart _ => true
  | .vxHeadComplete _ => true
  | .vstSend _ => true
  | .mxHeadStart _ _ => true
  | .mxStepApply _ _ => true
  | .mxstSend _ _ => true
  | .gformJoin _ _ _ => true
  | .gangStart _ _ => true
  | .remoteCompletionNotice _ _ => true
  | .portHeaderDiscard _ _ => true
  | .multicastReplicate _ _ m => m.pkt.wf
  | .multicastBlockTimeout _ _ => true
  | .bankOpLine0 _ _ _ _ => true
  | .bankOpLine1 _ _ _ _ => true
  | .serviceRetry _ _ => true
  | .serviceFail _ _ => true
  | .serviceTranslationAnswer _ _ => true
  | .swapOut _ => true
  | .restore _ => true
  | .coreFence _ => true
  | .coreReenable _ _ => true
  | .partitionDescriptorWrite _ _ => true
  | .stitchDescriptorWrite _ _ _ => true
  | .logControlWrite _ _ _ => true
  | .registerWrite _ _ _ => true
  | .keyLoad _ _ _ _ => true
  | .keyErase _ => true
  | .getMeasurements _ => true
  | .scrubRun _ => true
  | .logIntervalEnd => true
  | .logCountSum _ => true
  | .patrolRead _ => true
  | .directoryCountReport _ _ _ => true
  | .moveComplete _ _ => true
  | .directoryGrant _ _ _ _ _ => true
  | .snoop _ _ => true
  | .linkDown _ => true
  | .linkRecover _ => true
  | .quarantineTimeout _ => true
  | .flitSend _ => true
  | .flitReceive _ => true
  | .ideKeySwitch _ => true
  | .ideOldBankErase _ => true
  | .vfConfigChange _ => true
  | .vfTeardown _ => true
  | .vfDrainExpiry _ => true
  | .firmwareUpdate _ _ => true
  | .thermalTrip => true
  | .reset => true
  | .windowAccess m => m.req.wf
  | .sidAllocation _ _ _ => true
  | .kernelObjectCreation _ _ _ _ => true
  | .tdispLock _ => true
  | .tdispStart _ => true
  | .tdispStop _ => true
  | .linkKeyLoad _ => true
  | .keyEx _ _ _ => true
  | .sliceReloadComplete _ => true
  | .hostPortRemoval _ => true
  | .peerDeviceDeconfigure _ => true
  | .slotOut _ _ _ => true
  | .ideOut _ _ => true
  | .completerAbort _ => true
  | .hostAnswer _ _ => true

/-- Well-formed instructions. `mxsplitLeave` has the encoding of `mxsplitEnter`, which the decoder answers for both (R358). -/
def Instr.wf : Instr → Bool
  | .add o => o.wf tyArith
  | .sub o => o.wf tyArith
  | .mul o => o.wf tyArith
  | .mulh o => o.wf ty64
  | .div o => o.wf ty64
  | .mod o => o.wf ty64
  | .abs o => o.wf tyAbs
  | .neg o => o.wf tyAbs
  | .min o => o.wf tyArith
  | .max o => o.wf tyArith
  | .clz o => o.wf tyNone
  | .ctz o => o.wf tyNone
  | .popc o => o.wf tyNone
  | .and o => o.wfSigned
  | .andn o => o.wfSigned
  | .or o => o.wfSigned
  | .xor o => o.wfSigned
  | .log3 o => o.wf
  | .shl o => o.wfUpTo 63
  | .shr o => o.wfUpTo 63
  | .sra o => o.wfUpTo 63
  | .fshl o => o.wf
  | .fshr o => o.wf
  | .cmpEq o => o.wf
  | .cmpNe o => o.wf
  | .cmpLt o => o.wf
  | .cmpLe o => o.wf
  | .cmpGt o => o.wf
  | .cmpGe o => o.wf
  | .sel o => o.wf
  | .cvt o => o.wf
  | .cvtSat o => o.wf
  | .ldi _ _ => true
  | .mov _ _ => true
  | .movX o => o.wf tyNone
  | .pstep o => o.wfSigned
  | .ptag o => o.wfUpTo 255
  | .pget o => o.wfUpTo 7
  | .pdiff o => o.wfRegs
  | .br _ => true
  | .call _ => true
  | .ret => true
  | .jr _ => true
  | .beq _ => true
  | .bne _ => true
  | .bltI64 _ => true
  | .bgeI64 _ => true
  | .bz _ _ => true
  | .bnz _ _ => true
  | .bltZ64 _ => true
  | .bgeZ64 _ => true
  | .ball _ n _ => 1 ≤ n.toNat && n.toNat ≤ 64
  | .bany _ n _ => 1 ≤ n.toNat && n.toNat ≤ 64
  | .bp _ _ => true
  | .bnp _ _ => true
  | .bby _ _ _ => true
  | .bcf _ _ _ => true
  | .beos _ _ => true
  | .ld o => o.wf tyLoad
  | .ldnb o => o.wf tyLoad
  | .ldc o => o.wf tyLoad
  | .roInv => true
  | .st o => o.wf tyLoad
  | .atomAdd o => o.wf && o.d == 0
  | .atomAnd o => o.wf && o.d == 0
  | .atomOr o => o.wf && o.d == 0
  | .atomXor o => o.wf && o.d == 0
  | .atomMin o => o.wf && o.d == 0
  | .atomMax o => o.wf && o.d == 0
  | .atomSwap o => o.wf && o.d == 0
  | .atomCas o => o.wf
  | .bredAdd o => o.wf tyBank && o.m.base != 0
  | .bredMin o => o.wf tyBank && o.m.base != 0
  | .bredMax o => o.wf tyBank && o.m.base != 0
  | .bupdSet o => o.wf
  | .bupdAdd o => o.wf
  | .bupdMul o => o.wf
  | .bupdMin o => o.wf
  | .bupdMax o => o.wf
  | .discard o => o.m.base != 0
  | .barinit o => o.b != 0
  | .bar b => b != 0
  | .barQ b => b != 0
  | .qclose => true
  | .drainst _ => true
  | .fenceTask _ => true
  | .fenceCore _ => true
  | .fenceGang _ => true
  | .fenceDie _ => true
  | .fenceDevice _ => true
  | .fenceSystem _ => true
  | .serviceCoreFence scope _ => scope.toNat ≤ 5
  | .cbind _ _ => true
  | .cunbind _ => true
  | .cadv o => 1 ≤ o.n.toNat && o.n.toNat ≤ 256
  | .cfill _ _ => true
  | .cwait o => 1 ≤ o.n.toNat && o.n.toNat ≤ 256
  | .csend o => 1 ≤ o.n.toNat && o.n.toNat ≤ 8 && o.b.toNat + o.n.toNat ≤ 16
  | .csendEos o => 1 ≤ o.n.toNat && o.n.toNat ≤ 8 && o.b.toNat + o.n.toNat ≤ 16
  | .cmask o => o.wfUpTo 7
  | .cunmask o => o.wfUpTo 7
  | .setprio o => o.wfUpTo 7
  | .yield => true
  | .sleep => true
  | .endTask => true
  | .decr o => o.wf
  | .spawn o => o.b != 0
  | .launch o => o.b != 0
  | .launchBar o => o.b != 0
  | .cancelLaunch o => o.b.one
  | .cancelGraph o => o.b.one
  | .cancelPhase o => o.b.one
  | .cancelJob o => o.b.one
  | .gform b => b.one
  | .grel => true
  | .tbld _ b c => b != 0 && c.one
  | .crd o => o.wfRead
  | .cwr o => o.wfWrite
  | .trap o => o.wfUpTo (2 ^ 32 - 1)
  | .rft => true
  | .bkpt => true
  | .nop => true
  | .scrub o => o.b != 0
  | .logctlDefine o => o.b.one
  | .logctlDisable o => o.b.one
  | .logctlSequence o => o.b.one
  | .vadd o => o.wf tyVArith
  | .vsub o => o.wf tyVArith
  | .vmul o => o.wf tyVArith
  | .vaddSat o => o.wf tyVArith
  | .vsubSat o => o.wf tyVArith
  | .vmulSat o => o.wf tyVArith
  | .vfma o => o.wf
  | .vfms o => o.wf
  | .vmin o => o.wf tyNum
  | .vmax o => o.wf tyNum
  | .vminn o => o.wf tyNum
  | .vmaxn o => o.wf tyNum
  | .vand o => o.wf && o.d == 0 && o.tt == 0
  | .vor o => o.wf && o.d == 0 && o.tt == 0
  | .vxor o => o.wf && o.d == 0 && o.tt == 0
  | .vsel o => o.wf && o.tt == 0 && !o.c.isBc
  | .vlog3 o => o.wf && !o.c.isBc
  | .vcmpEq o => o.wf
  | .vcmpNe o => o.wf
  | .vcmpLt o => o.wf
  | .vcmpLe o => o.wf
  | .vcmpGt o => o.wf
  | .vcmpGe o => o.wf
  | .vcvt o => o.wf
  | .vcvtSat o => o.wf
  | .enc o => o.wfEnc
  | .encSat o => o.wfEnc
  | .dec o => o.wfDec
  | .vbcast o => o.wf
  | .vperm o => o.wf
  | .vredAdd o => o.wf
  | .vredMin o => o.wf
  | .vredMax o => o.wf
  | .vld o => o.wf
  | .vst o => o.wf
  | .vrcp o => o.b.wf
  | .vrsq o => o.b.wf
  | .vexp2 o => o.b.wf
  | .vlog2 o => o.b.wf
  | .mxclr _ => true
  | .mxmul o => o.b != 0
  | .mxs3 o => o.b != 0
  | .mxst o => o.wf
  | .mxstSat o => o.wf
  | .mxedge _ => true
  | .mxsplitEnter _ => true
  | .mxsplitLeave _ => false
  | .mxrem o => 1 ≤ o.a.toNat && o.a.toNat ≤ 14 && o.b != 0
  | .mxrsm _ => true
  | .rstat o => o.a.toNat ≤ 26
  | .rstatE o => o.a.toNat ≤ 30 && o.c.toNat ≤ 30
  | .gmu o => o.t.toNat ≤ 11
  | .gsum _ => true
  | .gsub o => o.t.toNat ≤ 11
  | .gres _ => true
  | .cxq o => 1 ≤ o.b.toNat && o.b.toNat ≤ 12
  | .cxqNb o => 1 ≤ o.b.toNat && o.b.toNat ≤ 12
  | .cxwait _ => true
  | .map _ => true
  | .grant _ => true
  | .unmap _ => true
  | .spqry o => o.wf
  | .lineBoundarySelection => true
  | .ageWrap => true
  | .memrepReceive => true
  | .ceilingRecovery => true
  | .buoySilenceTimeout => true
  | .bankRequest => true
  | .bankMissFill => true
  | .writeBackAccept => true
  | .copySliceLoad => true
  | .copyInvalidate => true
  | .invalidateAck => true
  | .lateRequestAtHome => true
  | .landedNotice => true
  | .translationMiss => true
  | .mapAtHome => true
  | .mapForward => true
  | .recordCreation => true
  | .unmapAtCoordinator => true
  | .unmapPart => true
  | .withdrawMessage => true
  | .withdrawAck => true
  | .shootdown => true
  | .shootdownAck => true
  | .recordRemoval => true
  | .withdrawCompletionPost => true
  | .spqryAtHome => true
  | .detRefusal => true
  | .roomNotice => true
  | .closeReport => true
  | .closeAtBank => true
  | .closeAck => true
  | .closeNotice => true
  | .waitingReport => true
  | .quantumOverflowNotice => true
  | .faultMark => true
  | .memberStartPost => true
  | .completionPost => true
  | .launchMessageAtHome => true
  | .hostLaunchWrite => true
  | .hostCreationWrite => true
  | .spawnMemberAdd => true
  | .spawnPlace => true
  | .spawnMemberRemove => true
  | .cancelAtObject => true
  | .terminationNotice => true
  | .cancelWalk => true
  | .placement => true
  | .decrApply => true
  | .chanPacketReceive => true
  | .gaussPartReceive => true
  | .mxcmdReceive => true
  | .barrierArrive => true
  | .barrierBytes => true
  | .barrierWake => true
  | .arrivalReply => true
  | .cxTransferStart => true
  | .haloStart => true
  | .cxUnitWrite => true
  | .cxBytesPost => true
  | .gcmTagCheck => true
  | .cxTransferComplete => true
  | .vxHeadStart => true
  | .vxHeadComplete => true
  | .vstSend => true
  | .mxHeadStart => true
  | .mxStepApply => true
  | .mxstSend => true
  | .gformJoin => true
  | .gangStart => true
  | .remoteCompletionNotice => true
  | .portHeaderDiscard => true
  | .multicastReplicate => true
  | .multicastBlockTimeout => true
  | .bankOpLine0 => true
  | .bankOpLine1 => true
  | .serviceRetry => true
  | .serviceFail => true
  | .serviceTranslationAnswer => true
  | .swapOut => true
  | .restore => true
  | .coreFence => true
  | .coreReenable => true
  | .partitionDescriptorWrite => true
  | .stitchDescriptorWrite => true
  | .logControlWrite => true
  | .registerWrite => true
  | .keyLoad => true
  | .keyErase => true
  | .getMeasurements => true
  | .scrubRun => true
  | .logIntervalEnd => true
  | .logCountSum => true
  | .patrolRead => true
  | .directoryCountReport => true
  | .moveComplete => true
  | .directoryGrant => true
  | .snoop => true
  | .linkDown => true
  | .linkRecover => true
  | .quarantineTimeout => true
  | .flitSend => true
  | .flitReceive => true
  | .ideKeySwitch => true
  | .ideOldBankErase => true
  | .vfConfigChange => true
  | .vfTeardown => true
  | .vfDrainExpiry => true
  | .firmwareUpdate => true
  | .thermalTrip => true
  | .reset => true
  | .windowAccess => true
  | .illegalOp => true
  | .sidAllocation => true
  | .kernelObjectCreation => true
  | .tdispLock => true
  | .tdispStart => true
  | .tdispStop => true
  | .linkKeyLoad => true
  | .keyEx => true
  | .sliceReloadComplete => true
  | .hostPortRemoval => true
  | .peerDeviceDeconfigure => true

end Sys2Proof
end

