-- ==== Sys2Proof/Decode.lean ====
section
/-! DEFINITION. The encoding of Yaland (R74 to R92) and of the service core's fence (R233): the line, the tail layouts, the decoder, and
after it the encoder. The decoder is total and rejects by name. A head is a 16-bit number and a tail of at most 64 bits, both Nat. -/

namespace Sys2Proof

/-! ## Type codes (R82) -/

/-- The code of a type suffix (R82). -/
def Ty.code : Ty → BitVec 4
  | .i8 => 0 | .i16 => 1 | .i32 => 2 | .i64 => 3 | .z8 => 4 | .z16 => 5 | .z32 => 6 | .z64 => 7
  | .f16 => 8 | .bf16 => 9 | .f19 => 10 | .f32 => 11 | .t8 => 12 | .t4 => 13 | .nosfx => 14

/-- The suffix of a code; 15 is not a type (R82). -/
def Ty.ofCode (c : BitVec 4) : Option Ty :=
  match c.toNat with
  | 0 => some .i8 | 1 => some .i16 | 2 => some .i32 | 3 => some .i64 | 4 => some .z8 | 5 => some .z16 | 6 => some .z32
  | 7 => some .z64 | 8 => some .f16 | 9 => some .bf16 | 10 => some .f19 | 11 => some .f32 | 12 => some .t8 | 13 => some .t4
  | 14 => some .nosfx | _ => none

/-! ## Heads and tails as fields -/

/-- The fields of a head half-word (R75). -/
structure HeadF where
  major : BitVec 6
  tl    : BitVec 2
  a     : BitVec 4
  b     : BitVec 4
  deriving DecidableEq, Repr

def HeadF.ofNat (w : Nat) : HeadF :=
  ⟨.ofNat 6 (w / 2 ^ 10), .ofNat 2 (w / 2 ^ 8), .ofNat 4 (w / 2 ^ 4), .ofNat 4 w⟩

def HeadF.toNat (h : HeadF) : Nat := h.major.toNat * 2 ^ 10 + h.tl.toNat * 2 ^ 8 + h.a.toNat * 2 ^ 4 + h.b.toNat

/-- The tail length in half-words of a length code (R75). -/
def tailLen (tl : Nat) : Nat := match tl with | 0 => 0 | 1 => 1 | 2 => 2 | _ => 4

/-- The fields of layouts X and I (R83, R84): in layout I the immediate takes the places of imm32, d, kc, kb and c. -/
structure XTail where
  imm32 : BitVec 32
  d     : BitVec 4
  kc    : BitVec 4
  kb    : BitVec 4
  pen   : BitVec 1
  pn    : BitVec 3
  c     : BitVec 4
  ty    : BitVec 4
  sc    : BitVec 1
  sb    : BitVec 1
  pinv  : BitVec 1
  f     : BitVec 1
  minor : BitVec 4
  deriving DecidableEq, Repr

def XTail.ofNat (w : Nat) : XTail where
  imm32 := .ofNat 32 (w / 2 ^ 32)
  d := .ofNat 4 (w / 2 ^ 28)
  kc := .ofNat 4 (w / 2 ^ 24)
  kb := .ofNat 4 (w / 2 ^ 20)
  pen := .ofNat 1 (w / 2 ^ 19)
  pn := .ofNat 3 (w / 2 ^ 16)
  c := .ofNat 4 (w / 2 ^ 12)
  ty := .ofNat 4 (w / 2 ^ 8)
  sc := .ofNat 1 (w / 2 ^ 7)
  sb := .ofNat 1 (w / 2 ^ 6)
  pinv := .ofNat 1 (w / 2 ^ 5)
  f := .ofNat 1 (w / 2 ^ 4)
  minor := .ofNat 4 w

def XTail.toNat (x : XTail) : Nat :=
  x.imm32.toNat * 2 ^ 32 + x.d.toNat * 2 ^ 28 + x.kc.toNat * 2 ^ 24 + x.kb.toNat * 2 ^ 20 + x.pen.toNat * 2 ^ 19
    + x.pn.toNat * 2 ^ 16 + x.c.toNat * 2 ^ 12 + x.ty.toNat * 2 ^ 8 + x.sc.toNat * 2 ^ 7 + x.sb.toNat * 2 ^ 6
    + x.pinv.toNat * 2 ^ 5 + x.f.toNat * 2 ^ 4 + x.minor.toNat

/-- The 48 bits of layout I's immediate at its longest (R84). -/
def XTail.imm48 (x : XTail) : BitVec 48 := x.imm32 ++ x.d ++ x.kc ++ x.kb ++ x.c

/-- The signed immediate: 4, 16 or 48 bits by the tail length (R84). -/
def XTail.immS (x : XTail) (tl : Nat) : Word :=
  match tl with
  | 1 => x.c.signExtend 64
  | 2 => (x.imm48.setWidth 16).signExtend 64
  | _ => x.imm48.signExtend 64

/-- The immediate where its entry reads it as unsigned (R84). -/
def XTail.immU (x : XTail) : Word := x.imm48.setWidth 64

/-- The fields of layout B (R85). -/
structure BTail where
  off   : BitVec 19
  lvl   : BitVec 8
  rsv   : BitVec 1
  minor : BitVec 4
  deriving DecidableEq, Repr

def BTail.ofNat (w : Nat) : BTail := ⟨.ofNat 19 (w / 2 ^ 13), .ofNat 8 (w / 2 ^ 5), .ofNat 1 (w / 2 ^ 4), .ofNat 4 w⟩

def BTail.toNat (x : BTail) : Nat := x.off.toNat * 2 ^ 13 + x.lvl.toNat * 2 ^ 5 + x.rsv.toNat * 2 ^ 4 + x.minor.toNat

/-- The fields of layout V (R86). -/
structure VTail where
  vd    : BitVec 5
  imm27 : BitVec 27
  vc    : BitVec 5
  vb    : BitVec 5
  va    : BitVec 5
  pn    : BitVec 3
  pen   : BitVec 1
  pinv  : BitVec 1
  ty    : BitVec 4
  sc    : BitVec 1
  sb    : BitVec 1
  rsv   : BitVec 1
  f     : BitVec 1
  minor : BitVec 4
  deriving DecidableEq, Repr

def VTail.ofNat (w : Nat) : VTail where
  vd := .ofNat 5 (w / 2 ^ 59)
  imm27 := .ofNat 27 (w / 2 ^ 32)
  vc := .ofNat 5 (w / 2 ^ 27)
  vb := .ofNat 5 (w / 2 ^ 22)
  va := .ofNat 5 (w / 2 ^ 17)
  pn := .ofNat 3 (w / 2 ^ 14)
  pen := .ofNat 1 (w / 2 ^ 13)
  pinv := .ofNat 1 (w / 2 ^ 12)
  ty := .ofNat 4 (w / 2 ^ 8)
  sc := .ofNat 1 (w / 2 ^ 7)
  sb := .ofNat 1 (w / 2 ^ 6)
  rsv := .ofNat 1 (w / 2 ^ 5)
  f := .ofNat 1 (w / 2 ^ 4)
  minor := .ofNat 4 w

def VTail.toNat (x : VTail) : Nat :=
  x.vd.toNat * 2 ^ 59 + x.imm27.toNat * 2 ^ 32 + x.vc.toNat * 2 ^ 27 + x.vb.toNat * 2 ^ 22 + x.va.toNat * 2 ^ 17
    + x.pn.toNat * 2 ^ 14 + x.pen.toNat * 2 ^ 13 + x.pinv.toNat * 2 ^ 12 + x.ty.toNat * 2 ^ 8 + x.sc.toNat * 2 ^ 7
    + x.sb.toNat * 2 ^ 6 + x.rsv.toNat * 2 ^ 5 + x.f.toNat * 2 ^ 4 + x.minor.toNat

/-- The signed 32-bit displacement of major 0x2A, at bits [63:32] (R86). -/
def VTail.disp (x : VTail) : BitVec 32 := x.vd ++ x.imm27

/-! ## The decoder -/

/-- Why a head is not an instruction: the rows of R91 that give ILLEGAL_OP. -/
inductive Reject
  /-- Major 0x3C to 0x3F, or a tail on major 0x3B, which has N forms only. -/
  | reservedMajor
  /-- No tail on a major or an A value without an N form. -/
  | noNForm
  /-- An N form with A or B outside R88. -/
  | nFields
  /-- A tail length that the layout or the entry does not allow. -/
  | tailLength
  /-- An unassigned minor. -/
  | minor
  /-- Type code 15, or a code not listed for the mnemonic. -/
  | type
  /-- F = 1 where there is no layout I or broadcast form, F = 0 where there is only layout I, or F = 1 with sC = 1. -/
  | layout
  /-- A reserved bit, or a field that the instruction does not use, is not 0. -/
  | unused
  /-- pinv or pn without pen. -/
  | predicate
  /-- A channel operand with wait count 0, or a wait count without a channel operand. -/
  | waitCount
  /-- An operand outside the limits of its entry. -/
  | operand
  /-- A displacement outside 32 signed bits. -/
  | displacement
  deriving DecidableEq, Repr

abbrev Dec (α : Type) := Except Reject α

/-- Go on only if the check holds. -/
def need (p : Bool) (e : Reject) : Dec Unit := if p then .ok () else .error e

/-- The suffix in the type field, if the mnemonic lists it (R82, R91). -/
def tyOf (ok : Ty → Bool) (c : BitVec 4) : Dec Ty :=
  match Ty.ofCode c with
  | some t => if ok t then .ok t else .error .type
  | none => .error .type

/-- The predicate prefix (R66, R83, R86). -/
def guardOf (pen : BitVec 1) (pn : BitVec 3) (pinv : BitVec 1) : Dec Guard :=
  if pen = 1 then .ok (.on pn (pinv == 1)) else if pn = 0 ∧ pinv = 0 then .ok .always else .error .predicate

/-- A register or channel source with its wait count (R83). -/
def srcOf (tl : Nat) (s : BitVec 1) (r k : BitVec 4) : Dec Src :=
  if s = 0 then (if k = 0 then .ok (.g r) else .error .waitCount)
  else if tl = 1 then .ok (.c r 1)
  else if k = 0 then .error .waitCount else .ok (.c r k)

/-- A source in field B of layout I, where a channel waits for one slot (R84). -/
def srcOne (s : BitVec 1) (r : BitVec 4) : Src := if s = 0 then .g r else .c r 1

/-- How an entry reads the immediate of layout I (R243). -/
inductive ImmMode
  | none
  | signed
  | upTo (m : Nat)
  deriving DecidableEq, Repr

/-- The immediate of layout I under the entry's reading. -/
def immOf (m : ImmMode) (x : XTail) (tl : Nat) : Dec Word :=
  match m with
  | .none => .error .layout
  | .signed => .ok (x.immS tl)
  | .upTo n => if x.immU.toNat ≤ n then .ok x.immU else .error .operand

/-- B and C in layouts X and I; D and imm32 are not used (R83, R84). -/
def decBC (m : ImmMode) (h : HeadF) (x : XTail) : Dec (Src × Opd) := do
  if x.f = 0 then
    need (x.d == 0 && x.imm32 == 0) .unused
    let b ← srcOf h.tl.toNat x.sb h.b x.kb
    let c ← srcOf h.tl.toNat x.sc x.c x.kc
    return (b, .src c)
  else
    need (x.sc == 0) .layout
    let v ← immOf m x h.tl.toNat
    return (srcOne x.sb h.b, .imm v)

/-- C alone, with B and A empty where the entry says so. -/
def decC (m : ImmMode) (h : HeadF) (x : XTail) : Dec Opd := do
  need (x.sb == 0) .unused
  if x.f = 0 then
    need (x.d == 0 && x.imm32 == 0 && x.kb == 0) .unused
    let c ← srcOf h.tl.toNat x.sc x.c x.kc
    return .src c
  else
    need (x.sc == 0) .layout
    let v ← immOf m x h.tl.toNat
    return .imm v

/-- Layout X with C, D and imm32 empty: the heads with one source B. -/
def decB (h : HeadF) (x : XTail) : Dec Src := do
  need (x.f == 0) .layout
  need (x.c == 0 && x.sc == 0 && x.kc == 0 && x.d == 0 && x.imm32 == 0) .unused
  srcOf h.tl.toNat x.sb h.b x.kb

def decAlu (mk : AluOp → Instr) (ok : Ty → Bool) (h : HeadF) (x : XTail) : Dec Instr := do
  let t ← tyOf ok x.ty
  let q ← guardOf x.pen x.pn x.pinv
  let (b, c) ← decBC (if t = .f32 then .none else .signed) h x
  return mk ⟨q, t, h.a, b, c⟩

def decBin (mk : BinOp → Instr) (m : ImmMode) (h : HeadF) (x : XTail) : Dec Instr := do
  let _ ← tyOf tyNone x.ty
  let q ← guardOf x.pen x.pn x.pinv
  let (b, c) ← decBC m h x
  return mk ⟨q, h.a, b, c⟩

def decUn (mk : UnOp → Instr) (ok : Ty → Bool) (h : HeadF) (x : XTail) : Dec Instr := do
  let t ← tyOf ok x.ty
  let q ← guardOf x.pen x.pn x.pinv
  let b ← decB h x
  return mk ⟨q, t, h.a, b⟩

/-- FSHL and FSHR: the count is gD in T32 and imm32 in T64 (R251). -/
def decFsh (mk : FshOp → Instr) (h : HeadF) (x : XTail) : Dec Instr := do
  let _ ← tyOf tyNone x.ty
  let q ← guardOf x.pen x.pn x.pinv
  need (x.f == 0) .layout
  let b ← srcOf h.tl.toNat x.sb h.b x.kb
  let c ← srcOf h.tl.toNat x.sc x.c x.kc
  if h.tl = 2 then return mk ⟨q, h.a, b, c, .reg x.d⟩
  else
    need (h.tl == 3) .tailLength
    need (x.d == 0) .unused
    need (decide (x.imm32.toNat ≤ 63)) .operand
    return mk ⟨q, h.a, b, c, .imm (x.imm32.setWidth 64)⟩

def decLog3 (h : HeadF) (x : XTail) : Dec Instr := do
  let _ ← tyOf tyNone x.ty
  let q ← guardOf x.pen x.pn x.pinv
  need (h.tl == 3) .tailLength
  need (x.f == 0) .layout
  need (decide (x.imm32.toNat ≤ 255)) .unused
  let b ← srcOf h.tl.toNat x.sb h.b x.kb
  let c ← srcOf h.tl.toNat x.sc x.c x.kc
  return .log3 ⟨q, h.a, b, c, x.d, x.imm32.setWidth 8⟩

def decCmp (mk : CmpOp → Instr) (h : HeadF) (x : XTail) : Dec Instr := do
  let t ← tyOf tyArith x.ty
  let q ← guardOf x.pen x.pn x.pinv
  need (decide (h.a.toNat ≤ 7)) .operand
  let (b, c) ← decBC (if t = .f32 then .none else .signed) h x
  return mk ⟨q, t, h.a.setWidth 3, b, c⟩

def decSel (h : HeadF) (x : XTail) : Dec Instr := do
  let _ ← tyOf tyNone x.ty
  let q ← guardOf x.pen x.pn x.pinv
  need (decide (2 ≤ h.tl.toNat)) .tailLength
  need (x.f == 0) .layout
  need (decide (x.d.toNat ≤ 7) && x.imm32 == 0) .unused
  let b ← srcOf h.tl.toNat x.sb h.b x.kb
  let c ← srcOf h.tl.toNat x.sc x.c x.kc
  return .sel ⟨q, h.a, b, c, x.d.setWidth 3⟩

/-- CVT: the type field holds the target and C the source code (R255). -/
def decCvt (mk : CvtOp → Instr) (h : HeadF) (x : XTail) : Dec Instr := do
  let t ← tyOf tyNum x.ty
  let q ← guardOf x.pen x.pn x.pinv
  let s ← tyOf tyNum x.c
  let b ← decB h { x with c := 0 }
  return mk ⟨q, t, h.a, b, s⟩

/-- CRD and CWR: layout I, T16 or T32 (R316). -/
def decCr (mk : CrOp → Instr) (ok : CrOp → Bool) (h : HeadF) (x : XTail) : Dec Instr := do
  let _ ← tyOf tyNone x.ty
  let q ← guardOf x.pen x.pn x.pinv
  need (decide (h.tl.toNat ≤ 2)) .tailLength
  need (x.f == 1 && x.sc == 0) .layout
  need (h.b == 0 && x.sb == 0) .unused
  need (decide (x.immU.toNat ≤ 191)) .operand
  let o : CrOp := ⟨q, h.a, x.immU.setWidth 8⟩
  need (ok o) .operand
  return mk o

/-- A memory operand (R269): an index in layout X, a displacement in layout I (R89). -/
def decMem (h : HeadF) (x : XTail) : Dec MemOpd := do
  need (x.sb == 0) .unused
  if x.f = 0 then
    need (x.sc == 0 && x.kc == 0 && x.kb == 0 && x.d == 0 && x.imm32 == 0) .unused
    return ⟨h.b, .idx x.c⟩
  else
    need (x.sc == 0) .layout
    let v := x.immS h.tl.toNat
    need ((v.setWidth 32).signExtend 64 == v) .displacement
    return ⟨h.b, .imm (v.setWidth 32)⟩

def decLs (mk : LsOp → Instr) (ok : Ty → Bool) (ws : Bool) (h : HeadF) (x : XTail) : Dec Instr := do
  let t ← tyOf ok x.ty
  let q ← guardOf x.pen x.pn x.pinv
  need (ws || h.b != 0) .operand
  let m ← decMem h x
  return mk ⟨q, t, h.a, m⟩

/-- ATOM: C is a value and may name a channel; D only for CAS, which needs T32 (R281). -/
def decAtom (mk : AtomOp → Instr) (cas : Bool) (h : HeadF) (x : XTail) : Dec Instr := do
  let t ← tyOf tyAtom x.ty
  let q ← guardOf x.pen x.pn x.pinv
  need (x.f == 0) .layout
  need (x.sb == 0 && x.kb == 0 && x.imm32 == 0) .unused
  need (h.b != 0) .operand
  need (!cas || decide (2 ≤ h.tl.toNat)) .tailLength
  need (cas || x.d == 0) .unused
  let c ← srcOf h.tl.toNat x.sc x.c x.kc
  return mk ⟨q, t, h.a, h.b, c, x.d⟩

/-- BUPD: the mask is gC or an unsigned immediate of 16 bits (R283). -/
def decBupd (mk : BupdOp → Instr) (h : HeadF) (x : XTail) : Dec Instr := do
  let t ← tyOf tyBank x.ty
  let q ← guardOf x.pen x.pn x.pinv
  need (h.b != 0) .operand
  need (x.sb == 0 && x.sc == 0) .unused
  if x.f = 0 then
    need (x.kc == 0 && x.kb == 0 && x.d == 0 && x.imm32 == 0) .unused
    return mk ⟨q, t, h.a, h.b, .reg x.c⟩
  else
    need (decide (x.immU.toNat < 2 ^ 16)) .unused
    return mk ⟨q, t, h.a, h.b, .imm x.immU⟩

def decDiscard (h : HeadF) (x : XTail) : Dec Instr := do
  let _ ← tyOf tyNone x.ty
  let q ← guardOf x.pen x.pn x.pinv
  need (h.b != 0) .operand
  let m ← decMem h x
  return .discard ⟨q, h.a, m⟩

/-- Layout X, type 14, no channel operands, D and imm32 empty: three general registers. -/
def decPlain (h : HeadF) (x : XTail) : Dec Guard := do
  let _ ← tyOf tyNone x.ty
  let q ← guardOf x.pen x.pn x.pinv
  need (x.f == 0) .layout
  need (x.sb == 0 && x.sc == 0 && x.kb == 0 && x.kc == 0 && x.imm32 == 0) .unused
  let _ := h
  return q

/-- As `decPlain`, in T16 alone, with D empty. -/
def decPlain16 (h : HeadF) (x : XTail) : Dec Unit := do
  need (h.tl == 1) .tailLength
  let _ ← decPlain h x
  return ()

/-- FENCE: A = pred, B = succ, T16, C empty (R231). -/
def decFence (mk : FenceOp → Instr) (h : HeadF) (x : XTail) : Dec Instr := do
  decPlain16 h x
  need (x.c == 0) .unused
  need (decide (h.a.toNat ≤ 7) && decide (h.b.toNat ≤ 7)) .unused
  return mk ⟨h.a.setWidth 3, h.b.setWidth 3⟩

/-- Two registers A and B in T16, C empty; `msg` where B names a message pointer 1 to 15 (R295). -/
def decRr (mk : RrOp → Instr) (msg : Bool) (h : HeadF) (x : XTail) : Dec Instr := do
  decPlain16 h x
  need (x.c == 0) .unused
  need (!msg || h.b != 0) .operand
  return mk ⟨h.a, h.b⟩

/-- B read under R241, in T16, with C empty and A as the entry says. -/
def decSrcB16 (h : HeadF) (x : XTail) : Dec Src := do
  need (h.tl == 1) .tailLength
  let _ ← tyOf tyNone x.ty
  let _ ← guardOf x.pen x.pn x.pinv
  decB h x

/-- CADV and CWAIT: layout I with a count of 1 to 256, T16 or T32 (R300, R301). -/
def decHandle (mk : HandleOp → Instr) (h : HeadF) (x : XTail) : Dec Instr := do
  let _ ← tyOf tyNone x.ty
  let q ← guardOf x.pen x.pn x.pinv
  need (decide (h.tl.toNat ≤ 2)) .tailLength
  need (x.f == 1 && x.sc == 0) .layout
  need (h.b == 0 && x.sb == 0) .unused
  need (decide (1 ≤ x.immU.toNat) && decide (x.immU.toNat ≤ 256)) .operand
  return mk ⟨q, h.a, x.immU.setWidth 9⟩

def decCsend (mk : CsendOp → Instr) (h : HeadF) (x : XTail) : Dec Instr := do
  let _ ← tyOf tyNone x.ty
  let q ← guardOf x.pen x.pn x.pinv
  need (x.f == 1 && x.sc == 0) .layout
  need (x.sb == 0) .unused
  need (decide (1 ≤ x.immU.toNat) && decide (x.immU.toNat ≤ 8) && decide (h.b.toNat + x.immU.toNat ≤ 16)) .operand
  return mk ⟨q, h.a, h.b, x.immU.setWidth 4⟩

/-- One source or an unsigned immediate, with A and B empty (R303, R304, R317). -/
def decGi (mk : GiOp → Instr) (m : Nat) (h : HeadF) (x : XTail) : Dec Instr := do
  let _ ← tyOf tyNone x.ty
  let q ← guardOf x.pen x.pn x.pinv
  need (h.a == 0 && h.b == 0) .unused
  let c ← decC (.upTo m) h x
  return mk ⟨q, c⟩

def decDecr (h : HeadF) (x : XTail) : Dec Instr := do
  let _ ← tyOf tyNone x.ty
  let q ← guardOf x.pen x.pn x.pinv
  need (h.b == 0) .unused
  let c ← decC (.upTo (2 ^ 32 - 1)) h x
  return .decr ⟨q, h.a, c⟩

/-- LOGCTL: layout I with op 0 to 2, T16 or T32 (R320). -/
def decLog (h : HeadF) (x : XTail) : Dec Instr := do
  let _ ← tyOf tyNone x.ty
  let q ← guardOf x.pen x.pn x.pinv
  need (decide (h.tl.toNat ≤ 2)) .tailLength
  need (x.f == 1 && x.sc == 0) .layout
  let o : LogOp := ⟨q, h.a, srcOne x.sb h.b⟩
  match x.immU.toNat with
  | 0 => return .logctlDefine o
  | 1 => return .logctlDisable o
  | 2 => return .logctlSequence o
  | _ => .error .operand

/-- The heads of layouts X and I by major and minor (R90). CXQ, CXQ.NB and CXWAIT are read from T32 with or without a predicate, as any head that takes T32
(R91); R371 and R383 name T32 for the predicated ones alone (DEDUCED, log 61). -/
def decX (h : HeadF) (x : XTail) : Dec Instr :=
  match h.major.toNat, x.minor.toNat with
  | 0x00, 0 => decAlu .add tyArith h x
  | 0x00, 1 => decAlu .sub tyArith h x
  | 0x01, 0 => decAlu .mul tyArith h x
  | 0x01, 1 => decAlu .mulh ty64 h x
  | 0x01, 2 => decAlu .div ty64 h x
  | 0x01, 3 => decAlu .mod ty64 h x
  | 0x02, 0 => decBin .and .signed h x
  | 0x02, 1 => decBin .andn .signed h x
  | 0x02, 2 => decBin .or .signed h x
  | 0x02, 3 => decBin .xor .signed h x
  | 0x03, 0 => decLog3 h x
  | 0x04, 0 => decBin .shl (.upTo 63) h x
  | 0x04, 1 => decBin .shr (.upTo 63) h x
  | 0x04, 2 => decBin .sra (.upTo 63) h x
  | 0x04, 3 => decFsh .fshl h x
  | 0x04, 4 => decFsh .fshr h x
  | 0x05, 0 => decCmp .cmpEq h x
  | 0x05, 1 => decCmp .cmpNe h x
  | 0x05, 2 => decCmp .cmpLt h x
  | 0x05, 3 => decCmp .cmpLe h x
  | 0x05, 4 => decCmp .cmpGt h x
  | 0x05, 5 => decCmp .cmpGe h x
  | 0x06, 0 => decUn .abs tyAbs h x
  | 0x06, 1 => decUn .neg tyAbs h x
  | 0x06, 2 => decAlu .min tyArith h x
  | 0x06, 3 => decAlu .max tyArith h x
  | 0x07, 0 => decUn .clz tyNone h x
  | 0x07, 1 => decUn .ctz tyNone h x
  | 0x07, 2 => decUn .popc tyNone h x
  | 0x09, 0 => decUn .movX tyNone h x
  | 0x0A, 0 => decCr .crd CrOp.wfRead h x
  | 0x0A, 1 => decCr .cwr CrOp.wfWrite h x
  | 0x0B, 0 => decCvt .cvt h x
  | 0x0B, 1 => decCvt .cvtSat h x
  | 0x0B, 2 => decSel h x
  | 0x0C, 0 => decBin .pstep .signed h x
  | 0x0D, 0 => decBin .ptag (.upTo 255) h x
  | 0x0E, 0 => decBin .pget (.upTo 7) h x
  | 0x0F, 0 => decBin .pdiff .none h x
  | 0x14, 0 => decLs .ld tyLoad true h x
  | 0x15, 0 => decLs .st tyLoad true h x
  | 0x16, 0 => decLs .ldc tyLoad true h x
  | 0x16, 1 => decLs .ldnb tyLoad true h x
  | 0x16, 2 => do
    decPlain16 h x
    need (h.a == 0 && h.b == 0 && x.c == 0) .unused
    return .roInv
  | 0x17, 0 => decDiscard h x
  | 0x18, 0 => decAtom .atomAdd false h x
  | 0x18, 1 => decAtom .atomAnd false h x
  | 0x18, 2 => decAtom .atomOr false h x
  | 0x18, 3 => decAtom .atomXor false h x
  | 0x18, 4 => decAtom .atomMin false h x
  | 0x18, 5 => decAtom .atomMax false h x
  | 0x18, 6 => decAtom .atomSwap false h x
  | 0x18, 7 => decAtom .atomCas true h x
  | 0x19, 0 => decLs .bredAdd tyBank false h x
  | 0x19, 1 => decLs .bredMin tyBank false h x
  | 0x19, 2 => decLs .bredMax tyBank false h x
  | 0x1A, 0 => decBupd .bupdSet h x
  | 0x1A, 1 => decBupd .bupdAdd h x
  | 0x1A, 2 => decBupd .bupdMul h x
  | 0x1A, 3 => decBupd .bupdMin h x
  | 0x1A, 4 => decBupd .bupdMax h x
  | 0x1B, 0 => do
    let q ← decPlain h x
    need (x.d == 0) .unused
    need (h.b != 0) .operand
    return .barinit ⟨q, h.b, h.a, x.c⟩
  | 0x1C, 0 => decFence .fenceTask h x
  | 0x1C, 1 => decFence .fenceCore h x
  | 0x1C, 2 => decFence .fenceGang h x
  | 0x1C, 3 => decFence .fenceDie h x
  | 0x1C, 4 => decFence .fenceDevice h x
  | 0x1C, 5 => decFence .fenceSystem h x
  | 0x1D, 0 => do
    decPlain16 h x
    need (h.a == 0 && x.c == 0) .unused
    need (h.b != 0) .operand
    return .bar h.b
  | 0x1D, 1 => do
    decPlain16 h x
    need (h.a == 0 && x.c == 0) .unused
    need (h.b != 0) .operand
    return .barQ h.b
  | 0x1D, 2 => do
    decPlain16 h x
    need (h.a == 0 && h.b == 0 && x.c == 0) .unused
    return .qclose
  | 0x1E, 0 => do
    decPlain16 h x
    need (x.c == 0) .unused
    return .cbind h.a h.b
  | 0x1E, 1 => do
    decPlain16 h x
    need (h.b == 0 && x.c == 0) .unused
    return .cunbind h.a
  | 0x1E, 2 => decCsend .csend h x
  | 0x1E, 3 => decCsend .csendEos h x
  | 0x1E, 4 => decHandle .cadv h x
  | 0x1F, 0 => do
    decPlain16 h x
    need (x.c == 0) .unused
    return .cfill h.a h.b
  | 0x1F, 1 => decGi .cmask 7 h x
  | 0x1F, 2 => decGi .cunmask 7 h x
  | 0x1F, 3 => decHandle .cwait h x
  | 0x20, 3 => decGi .setprio 7 h x
  | 0x21, 0 => decRr .spawn true h x
  | 0x21, 1 => decDecr h x
  | 0x22, 0 => decRr .launch true h x
  | 0x22, 1 => decRr .launchBar true h x
  | 0x22, 2 => do let b ← decSrcB16 h x; return .cancelLaunch ⟨h.a, b⟩
  | 0x22, 3 => do let b ← decSrcB16 h x; return .cancelGraph ⟨h.a, b⟩
  | 0x22, 4 => do let b ← decSrcB16 h x; return .cancelPhase ⟨h.a, b⟩
  | 0x22, 5 => do let b ← decSrcB16 h x; return .cancelJob ⟨h.a, b⟩
  | 0x23, 0 => do
    let b ← decSrcB16 h x
    need (h.a == 0) .unused
    return .gform b
  | 0x23, 1 => do
    decPlain16 h x
    need (h.a == 0 && h.b == 0 && x.c == 0) .unused
    return .grel
  | 0x2E, 0 => do
    decPlain16 h x
    need (h.b == 0 && x.c == 0) .unused
    need (decide (h.a.toNat ≤ 3)) .operand
    return .mxclr (h.a.setWidth 2)
  | 0x2E, 1 => decMxmul .mxmul h x
  | 0x2E, 2 => decMxmul .mxs3 h x
  | 0x2F, 0 => decMxst .mxst h x
  | 0x2F, 1 => decMxst .mxstSat h x
  | 0x30, 0 => do
    decPlain16 h x
    need (h.b == 0) .unused
    return .mxedge ⟨h.a, x.c⟩
  | 0x30, 1 => do
    decPlain16 h x
    need (h.b == 0) .unused
    return .mxsplitEnter ⟨h.a, x.c⟩
  | 0x30, 2 => do
    decPlain16 h x
    need (x.c == 0) .unused
    need (decide (1 ≤ h.a.toNat) && decide (h.a.toNat ≤ 14) && h.b != 0) .operand
    return .mxrem ⟨h.a, h.b⟩
  | 0x30, 3 => do
    decPlain16 h x
    need (h.b == 0 && x.c == 0) .unused
    need (decide (h.a.toNat ≤ 3)) .operand
    return .mxrsm (h.a.setWidth 2)
  | 0x32, 0 => do
    decPlain16 h x
    need (x.c == 0) .unused
    need (decide (h.a.toNat ≤ 11)) .operand
    return .gmu ⟨h.a, h.b⟩
  | 0x33, 0 => do
    decPlain16 h x
    need (h.a == 0 && x.c == 0) .unused
    return .gsum h.b
  | 0x33, 1 => do
    decPlain16 h x
    need (x.c == 0) .unused
    need (decide (h.a.toNat ≤ 11)) .operand
    return .gsub ⟨h.a, h.b⟩
  | 0x33, 2 => decRr .gres false h x
  | 0x34, 0 => decCxq .cxq h x
  | 0x34, 1 => decCxq .cxqNb h x
  | 0x35, 0 => do
    need (decide (h.tl.toNat ≤ 2)) .tailLength
    let q ← decPlain h x
    need (x.c == 0 && x.d == 0) .unused
    need (decide (h.a.toNat ≤ 3)) .operand
    return .cxwait ⟨q, h.a.setWidth 2, h.b⟩
  | 0x36, 0 => decSpace .map h x
  | 0x36, 1 => decSpace .grant h x
  | 0x36, 2 => decSpace .unmap h x
  | 0x37, 0 => decSpqry h x
  | 0x38, 0 => decGi .trap (2 ^ 32 - 1) h x
  | 0x38, 1 => do
    decPlain16 h x
    need (h.a == 0 && h.b == 0 && x.c == 0) .unused
    return .rft
  | 0x39, 0 => do
    need (h.tl == 1) .tailLength
    let _ ← tyOf tyNone x.ty
    let _ ← guardOf x.pen x.pn x.pinv
    need (x.f == 0) .layout
    need (x.sb == 0) .unused
    need (decide (h.a.toNat ≤ 1) && h.b != 0) .operand
    let c ← srcOf 1 x.sc x.c 0
    return .tbld (h.a == 1) h.b c
  | 0x3A, 0 => decRr .scrub true h x
  | 0x3A, 1 => decLog h x
  | m, _ => .error (if m ∈ [0x08, 0x3B] ∨ 0x3C ≤ m then .reservedMajor else .minor)
where
  /-- MXMUL and MXS3: T32 or T64 (R347). -/
  decMxmul (mk : MxmulOp → Instr) (h : HeadF) (x : XTail) : Dec Instr := do
    need (decide (2 ≤ h.tl.toNat)) .tailLength
    let q ← decPlain h x
    need (decide (h.a.toNat ≤ 3) && h.b != 0) .operand
    return mk ⟨q, h.a.setWidth 2, h.b, x.c, x.d⟩
  /-- MXST: the row stride register stands in T32 and T64 (R347). -/
  decMxst (mk : MxstOp → Instr) (h : HeadF) (x : XTail) : Dec Instr := do
    let t ← tyOf tyMxst x.ty
    let q ← decPlain h { x with ty := 14 }
    need (decide (h.a.toNat ≤ 3) && h.b != 0) .operand
    return mk ⟨q, t, h.a.setWidth 2, h.b, x.c, if h.tl = 1 then none else some x.d⟩
  /-- CXQ: T16, or T32 when predicated (R371). -/
  decCxq (mk : CxqOp → Instr) (h : HeadF) (x : XTail) : Dec Instr := do
    need (decide (h.tl.toNat ≤ 2)) .tailLength
    let q ← decPlain h x
    need (x.c == 0 && x.d == 0) .unused
    need (decide (1 ≤ h.b.toNat) && decide (h.b.toNat ≤ 12)) .operand
    return mk ⟨q, h.a, h.b⟩
  /-- MAP, GRANT and UNMAP: T32 or T64 (R387). -/
  decSpace (mk : SpaceOp → Instr) (h : HeadF) (x : XTail) : Dec Instr := do
    need (decide (2 ≤ h.tl.toNat)) .tailLength
    let q ← decPlain h x
    return mk ⟨q, h.a, h.b, x.c, x.d⟩
  /-- SPQRY (R389). -/
  decSpqry (h : HeadF) (x : XTail) : Dec Instr := do
    let _ ← tyOf tyNone x.ty
    let q ← guardOf x.pen x.pn x.pinv
    need (x.sb == 0 && x.sc == 0) .unused
    if x.f = 0 then
      need (x.kc == 0 && x.kb == 0 && x.d == 0 && x.imm32 == 0) .unused
      return .spqry ⟨q, h.a, h.b, .reg x.c⟩
    else
      need (decide (x.immU.toNat ≤ 1)) .operand
      return .spqry ⟨q, h.a, h.b, .imm x.immU⟩

/-- The heads of layout B: T32 alone (R85, R262 to R266). -/
def decBr (h : HeadF) (x : BTail) : Dec Instr := do
  need (h.tl == 2) .tailLength
  need (x.rsv == 0) .unused
  let plain : Bool := x.lvl == 0
  match h.major.toNat, x.minor.toNat with
  | 0x10, 0 => need (h.a == 0 && h.b == 0 && plain) .unused; return .br x.off
  | 0x10, 1 => need (h.a == 0 && h.b == 0 && plain) .unused; return .call x.off
  | 0x11, 0 => need plain .unused; return .beq ⟨h.a, h.b, x.off⟩
  | 0x11, 1 => need plain .unused; return .bne ⟨h.a, h.b, x.off⟩
  | 0x11, 2 => need plain .unused; return .bltI64 ⟨h.a, h.b, x.off⟩
  | 0x11, 3 => need plain .unused; return .bgeI64 ⟨h.a, h.b, x.off⟩
  | 0x11, 4 => need (h.b == 0 && plain) .unused; return .bz h.a x.off
  | 0x11, 5 => need (h.b == 0 && plain) .unused; return .bnz h.a x.off
  | 0x11, 6 => need plain .unused; return .bltZ64 ⟨h.a, h.b, x.off⟩
  | 0x11, 7 => need plain .unused; return .bgeZ64 ⟨h.a, h.b, x.off⟩
  | 0x12, 0 =>
    need (decide (h.a.toNat ≤ 7) && h.b == 0) .unused
    need (decide (1 ≤ x.lvl.toNat) && decide (x.lvl.toNat ≤ 64)) .operand
    return .ball (h.a.setWidth 3) x.lvl x.off
  | 0x12, 1 =>
    need (decide (h.a.toNat ≤ 7) && h.b == 0) .unused
    need (decide (1 ≤ x.lvl.toNat) && decide (x.lvl.toNat ≤ 64)) .operand
    return .bany (h.a.setWidth 3) x.lvl x.off
  | 0x12, 2 => need (decide (h.a.toNat ≤ 7) && h.b == 0 && plain) .unused; return .bp (h.a.setWidth 3) x.off
  | 0x12, 3 => need (decide (h.a.toNat ≤ 7) && h.b == 0 && plain) .unused; return .bnp (h.a.setWidth 3) x.off
  | 0x13, 0 =>
    need (decide (h.a.toNat ≤ 7)) .operand
    need (decide (x.lvl.toNat ≤ 63)) .operand
    return .bby (h.a.setWidth 3 ++ h.b) (x.lvl.setWidth 6) x.off
  | 0x13, 1 => need (h.b == 0) .unused; return .bcf h.a x.lvl x.off
  | 0x13, 2 => need (h.b == 0 && plain) .unused; return .beos h.a x.off
  | _, _ => .error .minor

/-- A vector source (R86, R326): head field `k` is the wait count. -/
def vsrcOf (s : BitVec 1) (r : BitVec 5) (k : BitVec 4) : Dec VSrc :=
  if s = 0 then (if k = 0 then .ok (.v r) else .error .waitCount)
  else if k = 0 then .error .waitCount
  else if r.toNat ≤ 15 then .ok (.c (r.setWidth 4) k) else .error .unused

/-- The C operand, with its broadcast form where the entry has one (R323). -/
def vopdOf (bc : Bool) (x : VTail) (k : BitVec 4) : Dec VOpd := do
  if x.f = 0 then
    let c ← vsrcOf x.sc x.vc k
    return .src c
  else
    need (bc && x.sc == 0) .layout
    need (k == 0) .waitCount
    need (decide (x.vc.toNat ≤ 15)) .operand
    return .bc (x.vc.setWidth 4)

/-- vC empty: no register, no channel, no broadcast. -/
def vcNone (h : HeadF) (x : VTail) : Dec Unit := do
  need (x.f == 0) .layout
  need (x.vc == 0 && x.sc == 0 && h.b == 0) .unused

def decV3 (mk : V3Op → Instr) (ok : Ty → Bool) (h : HeadF) (x : VTail) : Dec Instr := do
  let t ← tyOf ok x.ty
  let q ← guardOf x.pen x.pn x.pinv
  need (x.vd == 0 && x.imm27 == 0) .unused
  let b ← vsrcOf x.sb x.vb h.a
  let c ← vopdOf true x h.b
  return mk ⟨q, t, x.va, b, c⟩

def decV4 (mk : V4Op → Instr) (h : HeadF) (x : VTail) : Dec Instr := do
  let t ← tyOf Ty.isFloat x.ty
  let q ← guardOf x.pen x.pn x.pinv
  need (h.tl == 3) .tailLength
  need (x.imm27 == 0) .unused
  let b ← vsrcOf x.sb x.vb h.a
  let c ← vopdOf true x h.b
  return mk ⟨q, t, x.va, b, c, x.vd⟩

/-- The logic heads; VSEL and VLOG3 need T64 and take no broadcast, VLOG3 alone has a table (R330). -/
def decVLog (mk : VLogOp → Instr) (four tt : Bool) (h : HeadF) (x : VTail) : Dec Instr := do
  let _ ← tyOf tyNone x.ty
  let q ← guardOf x.pen x.pn x.pinv
  need (!four || h.tl == 3) .tailLength
  need (four || x.vd == 0) .unused
  need (decide (x.imm27.toNat ≤ if tt then 255 else 0)) .unused
  let b ← vsrcOf x.sb x.vb h.a
  let c ← vopdOf (!four) x h.b
  return mk ⟨q, x.va, b, c, x.vd, x.imm27.setWidth 8⟩

def decVcmp (mk : VcmpOp → Instr) (h : HeadF) (x : VTail) : Dec Instr := do
  let t ← tyOf tyVArith x.ty
  let q ← guardOf x.pen x.pn x.pinv
  need (x.vd == 0 && x.imm27 == 0 && decide (x.va.toNat ≤ 7)) .unused
  let b ← vsrcOf x.sb x.vb h.a
  let c ← vopdOf true x h.b
  return mk ⟨q, t, x.va.setWidth 3, b, c⟩

/-- The part field (R332). -/
def partOf (x : VTail) : Dec (BitVec 3) := do
  need (x.vd == 0 && decide (x.imm27.toNat ≤ 7)) .unused
  return x.imm27.setWidth 3

/-- VCVT: vC holds the source code (R333). -/
def decVcvt (mk : VcvtOp → Instr) (h : HeadF) (x : VTail) : Dec Instr := do
  let t ← tyOf tyNum x.ty
  let q ← guardOf x.pen x.pn x.pinv
  let p ← partOf x
  need (decide (x.vc.toNat ≤ 15)) .unused
  let s ← tyOf tyNum (x.vc.setWidth 4)
  vcNone h { x with vc := 0 }
  let b ← vsrcOf x.sb x.vb h.a
  need (partOk s.lanes t.lanes p.toNat) .operand
  return mk ⟨q, t, x.va, b, s, p⟩

/-- ENC and DEC: vC holds the float code and the table (R334, R335). -/
def decEnc (mk : EncOp → Instr) (dec : Bool) (h : HeadF) (x : VTail) : Dec Instr := do
  let t ← tyOf (fun t => t == .t8 || t == .t4) x.ty
  let q ← guardOf x.pen x.pn x.pinv
  let p ← partOf x
  let s ← tyOf Ty.isFloat (x.vc.setWidth 4)
  vcNone h { x with vc := 0 }
  let b ← vsrcOf x.sb x.vb h.a
  need (if dec then partOk t.lanes s.lanes p.toNat else partOk s.lanes t.lanes p.toNat) .operand
  return mk ⟨q, t, x.va, b, s, decide (16 ≤ x.vc.toNat), p⟩

/-- VBCAST: a general register with F = 1, or a lane in T64 (R336). -/
def decVbcast (h : HeadF) (x : VTail) : Dec Instr := do
  let t ← tyOf tyVMove x.ty
  let q ← guardOf x.pen x.pn x.pinv
  need (h.a == 0 && h.b == 0 && x.sb == 0 && x.sc == 0 && x.vd == 0) .unused
  if x.f = 1 then
    need (x.vb == 0 && x.imm27 == 0) .unused
    need (decide (x.vc.toNat ≤ 15)) .operand
    return .vbcast ⟨q, t, x.va, .g (x.vc.setWidth 4)⟩
  else
    need (h.tl == 3) .tailLength
    need (x.vc == 0) .unused
    need (decide (x.imm27.toNat < t.lanes)) .operand
    return .vbcast ⟨q, t, x.va, .lane x.vb x.imm27⟩

def decVperm (h : HeadF) (x : VTail) : Dec Instr := do
  let t ← tyOf tyVMove x.ty
  let q ← guardOf x.pen x.pn x.pinv
  need (x.f == 0) .layout
  need (x.imm27 == 0) .unused
  let b ← vsrcOf x.sb x.vb h.a
  let c ← vsrcOf x.sc x.vc h.b
  return .vperm ⟨q, t, x.va, b, c, if h.tl = 2 then none else some x.vd⟩

def decVred (mk : VredOp → Instr) (h : HeadF) (x : VTail) : Dec Instr := do
  let t ← tyOf (fun t => t == .i32 || t == .f32) x.ty
  let q ← guardOf x.pen x.pn x.pinv
  need (x.vd == 0 && x.imm27 == 0 && decide (x.va.toNat ≤ 15) && h.a == 0 && x.sb == 0) .unused
  vcNone h x
  return mk ⟨q, t, x.va.setWidth 4, x.vb⟩

/-- VLD and VST: A and B are base and index, T64 has the displacement (R339). -/
def decVmem (mk : VmemOp → Instr) (h : HeadF) (x : VTail) : Dec Instr := do
  let t ← tyOf (fun t => tyLoad t || t == .t8 || t == .t4) x.ty
  let q ← guardOf x.pen x.pn x.pinv
  need (x.vb == 0 && x.vc == 0 && x.sb == 0 && x.sc == 0) .unused
  need (x.f == 0) .layout
  return mk ⟨q, t, x.va, h.a, h.b, x.disp⟩

def decVfn (mk : VfnOp → Instr) (h : HeadF) (x : VTail) : Dec Instr := do
  let _ ← tyOf (· == .f32) x.ty
  let q ← guardOf x.pen x.pn x.pinv
  need (x.vd == 0 && x.imm27 == 0) .unused
  vcNone h x
  let b ← vsrcOf x.sb x.vb h.a
  return mk ⟨q, x.va, b⟩

/-- RSTAT and RSTAT.E cannot be predicated (R361). -/
def decRstat (e : Bool) (h : HeadF) (x : VTail) : Dec Instr := do
  let _ ← tyOf tyNone x.ty
  need (x.pen == 0 && x.pn == 0 && x.pinv == 0 && x.sb == 0 && x.sc == 0 && x.f == 0 && h.a == 0 && h.b == 0 && x.vd == 0
    && decide (x.vb.toNat ≤ 3)) .unused
  if e then
    need (h.tl == 3) .tailLength
    need (decide (x.imm27.toNat ≤ 15)) .unused
    need (decide (x.va.toNat ≤ 30) && decide (x.vc.toNat ≤ 30)) .operand
    return .rstatE ⟨x.va, x.vb.setWidth 2, x.vc, x.imm27.setWidth 4⟩
  else
    need (h.tl == 2) .tailLength
    need (x.imm27 == 0 && x.vc == 0) .unused
    need (decide (x.va.toNat ≤ 26)) .operand
    return .rstat ⟨x.va, x.vb.setWidth 2⟩

/-- The heads of layout V: T32 or T64, and bit [5] is 0 (R86, R90). -/
def decV (h : HeadF) (x : VTail) : Dec Instr := do
  need (decide (2 ≤ h.tl.toNat)) .tailLength
  need (x.rsv == 0) .unused
  match h.major.toNat, x.minor.toNat with
  | 0x24, 0 => decV3 .vadd tyVArith h x
  | 0x24, 1 => decV3 .vsub tyVArith h x
  | 0x24, 2 => decV3 .vmul tyVArith h x
  | 0x24, 4 => decV3 .vaddSat tyVArith h x
  | 0x24, 5 => decV3 .vsubSat tyVArith h x
  | 0x24, 6 => decV3 .vmulSat tyVArith h x
  | 0x25, 0 => decV4 .vfma h x
  | 0x25, 1 => decV4 .vfms h x
  | 0x26, 0 => decV3 .vmin tyNum h x
  | 0x26, 1 => decV3 .vmax tyNum h x
  | 0x26, 2 => decV3 .vminn tyNum h x
  | 0x26, 3 => decV3 .vmaxn tyNum h x
  | 0x27, 0 => decVcvt .vcvt h x
  | 0x27, 1 => decVcvt .vcvtSat h x
  | 0x27, 2 => decEnc .enc false h x
  | 0x27, 3 => decEnc .encSat false h x
  | 0x27, 4 => decEnc .dec true h x
  | 0x28, 0 => decVcmp .vcmpEq h x
  | 0x28, 1 => decVcmp .vcmpNe h x
  | 0x28, 2 => decVcmp .vcmpLt h x
  | 0x28, 3 => decVcmp .vcmpLe h x
  | 0x28, 4 => decVcmp .vcmpGt h x
  | 0x28, 5 => decVcmp .vcmpGe h x
  | 0x29, 0 => decVbcast h x
  | 0x29, 1 => decVperm h x
  | 0x29, 2 => decVred .vredAdd h x
  | 0x29, 3 => decVred .vredMin h x
  | 0x29, 4 => decVred .vredMax h x
  | 0x2A, 0 => decVmem .vld h x
  | 0x2A, 1 => decVmem .vst h x
  | 0x2B, 0 => decVLog .vand false false h x
  | 0x2B, 1 => decVLog .vor false false h x
  | 0x2B, 2 => decVLog .vxor false false h x
  | 0x2B, 3 => decVLog .vsel true false h x
  | 0x2B, 4 => decVLog .vlog3 true true h x
  | 0x2C, 0 => decVfn .vrcp h x
  | 0x2C, 1 => decVfn .vrsq h x
  | 0x2D, 0 => decVfn .vexp2 h x
  | 0x2D, 1 => decVfn .vlog2 h x
  | 0x31, 0 => decRstat false h x
  | 0x31, 1 => decRstat true h x
  | _, _ => .error .minor

/-- The N forms (R88). -/
def decN (h : HeadF) : Dec Instr :=
  match h.major.toNat with
  | 0x09 => .ok (.mov h.a h.b)
  | 0x10 =>
    if h.a = 0 then (if h.b = 0 then .ok .ret else .error .nFields)
    else if h.a = 1 then .ok (.jr h.b) else .error .noNForm
  | 0x1C => if h.b = 0 then .ok (.drainst h.a) else .error .nFields
  | 0x20 =>
    if h.b ≠ 0 then .error .nFields
    else match h.a.toNat with
      | 0 => .ok .endTask
      | 1 => .ok .yield
      | 2 => .ok .sleep
      | _ => .error .noNForm
  | 0x3B =>
    if h.b ≠ 0 then .error .nFields
    else match h.a.toNat with
      | 0 => .ok .nop
      | 1 => .ok .bkpt
      | _ => .error .noNForm
  | m => .error (if 0x3C ≤ m then .reservedMajor else .noNForm)

/-- LDI: the whole tail is the immediate, sign-extended (R87). -/
def decW (h : HeadF) (w : Nat) : Dec Instr := do
  need (h.b == 0) .unused
  match h.tl.toNat with
  | 1 => return .ldi h.a ((BitVec.ofNat 16 w).signExtend 64)
  | 2 => return .ldi h.a ((BitVec.ofNat 32 w).signExtend 64)
  | _ => return .ldi h.a (BitVec.ofNat 64 w)

/-- Is the major of layout V (R90)? -/
def isMajorV (m : Nat) : Bool := (decide (0x24 ≤ m) && decide (m ≤ 0x2D)) || m == 0x31

/-- The instruction of a head half-word and its tail (R90, R91). -/
def decodeHead (hw tail : Nat) : Dec Instr :=
  let h := HeadF.ofNat hw
  let m := h.major.toNat
  if h.tl = 0 then decN h
  else if m = 0x08 then decW h tail
  else if 0x10 ≤ m ∧ m ≤ 0x13 then decBr h (BTail.ofNat tail)
  else if isMajorV m then decV h (VTail.ofNat tail)
  else decX h (XTail.ofNat tail)

/-- The service core's fences (R233): the scoped fence on custom-0, and a standard RISC-V FENCE, which acts as FENCE.SYSTEM with r set
by PR or PI and w by PW or PO. -/
def decodeService (w : Nat) : Option Instr :=
  let p := w / 2 ^ 24 % 16
  let s := w / 2 ^ 20 % 16
  let f := w / 2 ^ 12 % 8
  if w % 2 ^ 12 = 0x00B ∧ w / 2 ^ 15 % 32 = 0 ∧ w / 2 ^ 28 = 0 ∧ p ≤ 7 ∧ s ≤ 7 ∧ f ≤ 5 then
    some (.serviceCoreFence (.ofNat 3 f) ⟨.ofNat 3 p, .ofNat 3 s⟩)
  else if w % 2 ^ 7 = 0x0F ∧ f = 0 then
    some (.serviceCoreFence 5 ⟨rvSet p, rvSet s⟩)
  else none
where
  /-- I, O, R, W are bits 3, 2, 1, 0 of a RISC-V set. -/
  rvSet (n : Nat) : BitVec 3 :=
    (if n / 2 % 2 = 1 ∨ n / 8 = 1 then 1 else 0) + (if n % 2 = 1 ∨ n / 4 % 2 = 1 then 2 else 0)

/-! ## The line -/

/-- Half-word `k` of a line (R74). -/
def halfAt (l : Line) (k : Nat) : Nat := (l.extractLsb' (16 * k) 16).toNat

/-- The head count in the header (R74). -/
def headCount (l : Line) : Nat := halfAt l 0 / 2 ^ 11

/-- The tail length in half-words of head `i` (R75). -/
def tailLenAt (l : Line) (i : Nat) : Nat := tailLen (halfAt l i / 2 ^ 8 % 4)

/-- The sum of the tail lengths of heads 1 to `i` (R76). -/
def tailSum (l : Line) : Nat → Nat
  | 0 => 0
  | i + 1 => tailSum l i + tailLenAt l (i + 1)

/-- The gap between the heads and the tails is zero: half-words `n + 1` to `31 - s` (R76). -/
def gapZero (l : Line) (n s : Nat) : Bool :=
  (List.range 32).all fun k => decide (k ≤ n) || decide (31 < k + s) || halfAt l k == 0

/-- The checks of R79; a line that fails one raises ILLEGAL_LINE. -/
def lineOk (l : Line) : Bool :=
  let n := headCount l
  let s := tailSum l n
  halfAt l 0 % 2 ^ 11 == 0 && decide (1 ≤ n) && decide (n + s ≤ 31) && gapZero l n s

/-- The tail of head `i`: half-words `32 - s - t` to `31 - s`, the lowest-numbered lowest (R76). -/
def tailAt (l : Line) (i : Nat) : Nat :=
  let t := tailLenAt l i
  let s := tailSum l (i - 1)
  (l.toNat / 2 ^ (16 * (32 - s - t))) % 2 ^ (16 * t)

/-- The instruction of head `i` of a line that passes its checks (R92). -/
def decodeAt (l : Line) (i : Nat) : Dec Instr := decodeHead (halfAt l i) (tailAt l i)

/-- The instruction whose bits are `w`, the first word lowest: a head and its tail, or a word of the service core. -/
def decodeTableWord (nbits w : Nat) : Option Instr :=
  match (if nbits = 32 ∧ w % 2 ^ 12 = 0x00B then decodeService w else none) with
  | some i => some i
  | none =>
    match decodeHead (w % 2 ^ 16) (w / 2 ^ 16 % 2 ^ (16 * tailLen (w / 2 ^ 8 % 4))) with
    | .ok i => some i
    | .error _ => none

/-! ## The encoder -/

/-- An encoded head: its half-word and its tail. -/
abbrev Words := Nat × Nat

/-- The empty tail of layout X for a minor and a type code. -/
def XTail.base (minor ty : BitVec 4) : XTail := ⟨0, 0, 0, 0, 0, 0, 0, ty, 0, 0, 0, 0, minor⟩

def XTail.guard (x : XTail) : Guard → XTail
  | .always => x
  | .on p inv => { x with pen := 1, pn := p, pinv := if inv then 1 else 0 }

/-- Put source `b` into the flags of field B; its register goes into the head. -/
def XTail.srcB (x : XTail) : Src → XTail
  | .g _ => x
  | .c _ k => { x with sb := 1, kb := k }

def XTail.srcC (x : XTail) : Src → XTail
  | .g r => { x with c := r }
  | .c h k => { x with sc := 1, c := h, kc := k }

/-- The register or handle number of a source. -/
def Src.num : Src → BitVec 4
  | .g r => r
  | .c h _ => h

/-- Layout X in the shortest tail that holds the fields and is not below `least` (R68, R83). -/
def encX (major : BitVec 6) (least : Nat) (a b : BitVec 4) (x : XTail) : Words :=
  let tl := if x.imm32 ≠ 0 ∨ least = 3 then 3
    else if x.d ≠ 0 ∨ x.pen = 1 ∨ 1 < x.kb.toNat ∨ 1 < x.kc.toNat ∨ least = 2 then 2 else 1
  let x := if tl = 1 then { x with kb := 0, kc := 0 } else x
  (HeadF.toNat ⟨major, .ofNat 2 tl, a, b⟩, x.toNat)

/-- Layout I with the immediate `v`, in the shortest tail that holds it (R68, R84). -/
def encI (major : BitVec 6) (signed : Bool) (a b : BitVec 4) (x : XTail) (v : Word) : Words :=
  let fits (n : Nat) : Bool :=
    if signed then ((v.setWidth n).signExtend 64 == v) else ((v.setWidth n).setWidth 64 == v)
  let tl := if x.pen = 0 ∧ fits 4 then 1 else if fits 16 then 2 else 3
  let x := { x with
    f := 1, kb := 0
    c := v.extractLsb' 0 4 }
  let x := if tl = 1 then x
    else { x with kb := v.extractLsb' 4 4, kc := v.extractLsb' 8 4, d := v.extractLsb' 12 4 }
  let x := if tl = 3 then { x with imm32 := v.extractLsb' 16 32 } else x
  (HeadF.toNat ⟨major, .ofNat 2 tl, a, b⟩, x.toNat)

/-- B and C in layout X or I. -/
def encBC (major : BitVec 6) (signed : Bool) (a : BitVec 4) (x : XTail) (b : Src) : Opd → Words
  | .src c => encX major 1 a b.num ((x.srcB b).srcC c)
  | .imm v => encI major signed a b.num (x.srcB b) v

/-- C alone. -/
def encC (major : BitVec 6) (a : BitVec 4) (x : XTail) : Opd → Words
  | .src c => encX major 1 a 0 (x.srcC c)
  | .imm v => encI major false a 0 x v

def encAlu (major : BitVec 6) (minor : BitVec 4) (o : AluOp) : Words :=
  encBC major true o.a ((XTail.base minor o.t.code).guard o.q) o.b o.c

def encBin (major : BitVec 6) (minor : BitVec 4) (signed : Bool) (o : BinOp) : Words :=
  encBC major signed o.a ((XTail.base minor 14).guard o.q) o.b o.c

def encUn (major : BitVec 6) (minor : BitVec 4) (o : UnOp) : Words :=
  encX major 1 o.a o.b.num (((XTail.base minor o.t.code).guard o.q).srcB o.b)

def encFsh (minor : BitVec 4) (o : FshOp) : Words :=
  let x := (((XTail.base minor 14).guard o.q).srcB o.b).srcC o.c
  match o.n with
  | .reg d => encX 0x04 2 o.a o.b.num { x with d := d }
  | .imm v => encX 0x04 3 o.a o.b.num { x with imm32 := v.setWidth 32 }

def encCmp (minor : BitVec 4) (o : CmpOp) : Words :=
  encBC 0x05 true (o.p.setWidth 4) ((XTail.base minor o.t.code).guard o.q) o.b o.c

def encCvt (minor : BitVec 4) (o : CvtOp) : Words :=
  encX 0x0B 1 o.a o.b.num { ((XTail.base minor o.t.code).guard o.q).srcB o.b with c := o.s.code }

def encMem (major : BitVec 6) (a : BitVec 4) (x : XTail) (m : MemOpd) : Words :=
  match m.d with
  | .idx r => encX major 1 a m.base { x with c := r }
  | .imm e => encI major true a m.base x (e.signExtend 64)

def encLs (major : BitVec 6) (minor : BitVec 4) (o : LsOp) : Words :=
  encMem major o.a ((XTail.base minor o.t.code).guard o.q) o.m

def encAtom (minor : BitVec 4) (least : Nat) (o : AtomOp) : Words :=
  encX 0x18 least o.a o.b { ((XTail.base minor o.t.code).guard o.q).srcC o.c with d := o.d }

def encBupd (minor : BitVec 4) (o : BupdOp) : Words :=
  let x := (XTail.base minor o.t.code).guard o.q
  match o.mask with
  | .reg r => encX 0x1A 1 o.v o.b { x with c := r }
  | .imm v => encI 0x1A false o.v o.b x v

/-- Three or four general registers with type 14. -/
def encRegs (major : BitVec 6) (minor : BitVec 4) (least : Nat) (q : Guard) (a b c d : BitVec 4) : Words :=
  encX major least a b { (XTail.base minor 14).guard q with c := c, d := d }

def encFence (minor : BitVec 4) (o : FenceOp) : Words :=
  encRegs 0x1C minor 1 .always (o.pred.setWidth 4) (o.succ.setWidth 4) 0 0

def encSrcB (major : BitVec 6) (minor : BitVec 4) (a : BitVec 4) (b : Src) : Words :=
  encX major 1 a b.num ((XTail.base minor 14).srcB b)

def encBranch (major : BitVec 6) (minor : BitVec 4) (a b : BitVec 4) (lvl : Byte) (off : BitVec 19) : Words :=
  (HeadF.toNat ⟨major, 2, a, b⟩, BTail.toNat ⟨off, lvl, 0, minor⟩)

def VTail.base (minor ty : BitVec 4) : VTail := ⟨0, 0, 0, 0, 0, 0, 0, 0, ty, 0, 0, 0, 0, minor⟩

def VTail.guard (x : VTail) : Guard → VTail
  | .always => x
  | .on p inv => { x with pen := 1, pn := p, pinv := if inv then 1 else 0 }

def VTail.srcB (x : VTail) : VSrc → VTail
  | .v r => { x with vb := r }
  | .c h _ => { x with sb := 1, vb := h.setWidth 5 }

def VTail.srcC (x : VTail) : VOpd → VTail
  | .src (.v r) => { x with vc := r }
  | .src (.c h _) => { x with sc := 1, vc := h.setWidth 5 }
  | .bc g => { x with f := 1, vc := g.setWidth 5 }

/-- The wait count a vector source puts into the head (R86). -/
def VSrc.wait : VSrc → BitVec 4
  | .v _ => 0
  | .c _ k => k

def VOpd.wait : VOpd → BitVec 4
  | .src x => x.wait
  | .bc _ => 0

/-- Layout V in the shortest tail that holds the fields; `long` where the entry needs T64 (R68, R86). -/
def encV (major : BitVec 6) (long : Bool) (a b : BitVec 4) (x : VTail) : Words :=
  let tl := if long ∨ x.vd ≠ 0 ∨ x.imm27 ≠ 0 then 3 else 2
  (HeadF.toNat ⟨major, .ofNat 2 tl, a, b⟩, x.toNat)

def encV3 (major : BitVec 6) (minor : BitVec 4) (o : V3Op) : Words :=
  encV major false o.b.wait o.c.wait { (((VTail.base minor o.t.code).guard o.q).srcB o.b).srcC o.c with va := o.a }

def encV4 (minor : BitVec 4) (o : V4Op) : Words :=
  encV 0x25 true o.b.wait o.c.wait
    { (((VTail.base minor o.t.code).guard o.q).srcB o.b).srcC o.c with va := o.a, vd := o.d }

def encVLog (minor : BitVec 4) (long : Bool) (o : VLogOp) : Words :=
  encV 0x2B long o.b.wait o.c.wait
    { (((VTail.base minor 14).guard o.q).srcB o.b).srcC o.c with va := o.a, vd := o.d, imm27 := o.tt.setWidth 27 }

def encVcmp (minor : BitVec 4) (o : VcmpOp) : Words :=
  encV 0x28 false o.b.wait o.c.wait
    { (((VTail.base minor o.t.code).guard o.q).srcB o.b).srcC o.c with va := o.p.setWidth 5 }

def encVcvt (minor : BitVec 4) (o : VcvtOp) : Words :=
  encV 0x27 false o.b.wait 0
    { ((VTail.base minor o.t.code).guard o.q).srcB o.b with
      va := o.a, vc := o.s.code.setWidth 5, imm27 := o.part.setWidth 27 }

def encEnc (minor : BitVec 4) (o : EncOp) : Words :=
  encV 0x27 false o.b.wait 0
    { ((VTail.base minor o.t.code).guard o.q).srcB o.b with
      va := o.a, vc := o.s.code.setWidth 5 + (if o.tbl then 16 else 0), imm27 := o.part.setWidth 27 }

def encVbcast (o : VbcastOp) : Words :=
  let x := { (VTail.base 0 o.t.code).guard o.q with va := o.a }
  match o.b with
  | .g r => encV 0x29 false 0 0 { x with f := 1, vc := r.setWidth 5 }
  | .lane v n => encV 0x29 true 0 0 { x with vb := v, imm27 := n }

def encVperm (o : VpermOp) : Words :=
  let x := { (((VTail.base 1 o.t.code).guard o.q).srcB o.b).srcC (.src o.c) with va := o.a }
  match o.d with
  | none => encV 0x29 false o.b.wait o.c.wait x
  | some d => encV 0x29 true o.b.wait o.c.wait { x with vd := d }

def encVred (minor : BitVec 4) (o : VredOp) : Words :=
  encV 0x29 false 0 0 { (VTail.base minor o.t.code).guard o.q with va := o.a.setWidth 5, vb := o.b }

def encVmem (minor : BitVec 4) (o : VmemOp) : Words :=
  encV 0x2A false o.base o.idx { (VTail.base minor o.t.code).guard o.q with
    va := o.a, vd := o.e.extractLsb' 27 5, imm27 := o.e.extractLsb' 0 27 }

def encVfn (major : BitVec 6) (minor : BitVec 4) (o : VfnOp) : Words :=
  encV major false o.b.wait 0 { ((VTail.base minor 11).guard o.q).srcB o.b with va := o.a }

def encMxst (minor : BitVec 4) (o : MxstOp) : Words :=
  let x := { (XTail.base minor o.t.code).guard o.q with c := o.c }
  match o.d with
  | none => encX 0x2F 1 (o.acc.setWidth 4) o.b x
  | some d => encX 0x2F 2 (o.acc.setWidth 4) o.b { x with d := d }

/-- LDI in the shortest tail (R256). -/
def encLdi (a : GReg) (v : Word) : Words :=
  if (v.setWidth 16).signExtend 64 = v then (HeadF.toNat ⟨0x08, 1, a, 0⟩, (v.setWidth 16).toNat)
  else if (v.setWidth 32).signExtend 64 = v then (HeadF.toNat ⟨0x08, 2, a, 0⟩, (v.setWidth 32).toNat)
  else (HeadF.toNat ⟨0x08, 3, a, 0⟩, v.toNat)

def encNForm (major : BitVec 6) (a b : BitVec 4) : Words := (HeadF.toNat ⟨major, 0, a, b⟩, 0)

/-- The half-word and tail of an instruction of Yaland; an event of the module and the service core's fence have none. -/
def encode : Instr → Option Words
  | .add o => some (encAlu 0x00 0 o)
  | .sub o => some (encAlu 0x00 1 o)
  | .mul o => some (encAlu 0x01 0 o)
  | .mulh o => some (encAlu 0x01 1 o)
  | .div o => some (encAlu 0x01 2 o)
  | .mod o => some (encAlu 0x01 3 o)
  | .abs o => some (encUn 0x06 0 o)
  | .neg o => some (encUn 0x06 1 o)
  | .min o => some (encAlu 0x06 2 o)
  | .max o => some (encAlu 0x06 3 o)
  | .clz o => some (encUn 0x07 0 o)
  | .ctz o => some (encUn 0x07 1 o)
  | .popc o => some (encUn 0x07 2 o)
  | .and o => some (encBin 0x02 0 true o)
  | .andn o => some (encBin 0x02 1 true o)
  | .or o => some (encBin 0x02 2 true o)
  | .xor o => some (encBin 0x02 3 true o)
  | .log3 o => some (encX 0x03 3 o.a o.b.num
      { (((XTail.base 0 14).guard o.q).srcB o.b).srcC o.c with d := o.d, imm32 := o.tt.setWidth 32 })
  | .shl o => some (encBin 0x04 0 false o)
  | .shr o => some (encBin 0x04 1 false o)
  | .sra o => some (encBin 0x04 2 false o)
  | .fshl o => some (encFsh 3 o)
  | .fshr o => some (encFsh 4 o)
  | .cmpEq o => some (encCmp 0 o)
  | .cmpNe o => some (encCmp 1 o)
  | .cmpLt o => some (encCmp 2 o)
  | .cmpLe o => some (encCmp 3 o)
  | .cmpGt o => some (encCmp 4 o)
  | .cmpGe o => some (encCmp 5 o)
  | .sel o => some (encX 0x0B 2 o.a o.b.num
      { (((XTail.base 2 14).guard o.q).srcB o.b).srcC o.c with d := o.p.setWidth 4 })
  | .cvt o => some (encCvt 0 o)
  | .cvtSat o => some (encCvt 1 o)
  | .ldi a v => some (encLdi a v)
  | .mov a b => some (encNForm 0x09 a b)
  | .movX o => some (encUn 0x09 0 o)
  | .pstep o => some (encBin 0x0C 0 true o)
  | .ptag o => some (encBin 0x0D 0 false o)
  | .pget o => some (encBin 0x0E 0 false o)
  | .pdiff o => some (encBin 0x0F 0 true o)
  | .br off => some (encBranch 0x10 0 0 0 0 off)
  | .call off => some (encBranch 0x10 1 0 0 0 off)
  | .ret => some (encNForm 0x10 0 0)
  | .jr b => some (encNForm 0x10 1 b)
  | .beq o => some (encBranch 0x11 0 o.a o.b 0 o.off)
  | .bne o => some (encBranch 0x11 1 o.a o.b 0 o.off)
  | .bltI64 o => some (encBranch 0x11 2 o.a o.b 0 o.off)
  | .bgeI64 o => some (encBranch 0x11 3 o.a o.b 0 o.off)
  | .bz a off => some (encBranch 0x11 4 a 0 0 off)
  | .bnz a off => some (encBranch 0x11 5 a 0 0 off)
  | .bltZ64 o => some (encBranch 0x11 6 o.a o.b 0 o.off)
  | .bgeZ64 o => some (encBranch 0x11 7 o.a o.b 0 o.off)
  | .ball p n off => some (encBranch 0x12 0 (p.setWidth 4) 0 n off)
  | .bany p n off => some (encBranch 0x12 1 (p.setWidth 4) 0 n off)
  | .bp p off => some (encBranch 0x12 2 (p.setWidth 4) 0 0 off)
  | .bnp p off => some (encBranch 0x12 3 (p.setWidth 4) 0 0 off)
  | .bby b lvl off => some (encBranch 0x13 0 ((b.extractLsb' 4 3).setWidth 4) (b.extractLsb' 0 4) (lvl.setWidth 8) off)
  | .bcf h n off => some (encBranch 0x13 1 h 0 n off)
  | .beos h off => some (encBranch 0x13 2 h 0 0 off)
  | .ld o => some (encLs 0x14 0 o)
  | .ldnb o => some (encLs 0x16 1 o)
  | .ldc o => some (encLs 0x16 0 o)
  | .roInv => some (encRegs 0x16 2 1 .always 0 0 0 0)
  | .st o => some (encLs 0x15 0 o)
  | .atomAdd o => some (encAtom 0 1 o)
  | .atomAnd o => some (encAtom 1 1 o)
  | .atomOr o => some (encAtom 2 1 o)
  | .atomXor o => some (encAtom 3 1 o)
  | .atomMin o => some (encAtom 4 1 o)
  | .atomMax o => some (encAtom 5 1 o)
  | .atomSwap o => some (encAtom 6 1 o)
  | .atomCas o => some (encAtom 7 2 o)
  | .bredAdd o => some (encLs 0x19 0 o)
  | .bredMin o => some (encLs 0x19 1 o)
  | .bredMax o => some (encLs 0x19 2 o)
  | .bupdSet o => some (encBupd 0 o)
  | .bupdAdd o => some (encBupd 1 o)
  | .bupdMul o => some (encBupd 2 o)
  | .bupdMin o => some (encBupd 3 o)
  | .bupdMax o => some (encBupd 4 o)
  | .discard o => some (encMem 0x17 o.a ((XTail.base 0 14).guard o.q) o.m)
  | .barinit o => some (encRegs 0x1B 0 1 o.q o.a o.b o.c 0)
  | .bar b => some (encRegs 0x1D 0 1 .always 0 b 0 0)
  | .barQ b => some (encRegs 0x1D 1 1 .always 0 b 0 0)
  | .qclose => some (encRegs 0x1D 2 1 .always 0 0 0 0)
  | .drainst a => some (encNForm 0x1C a 0)
  | .fenceTask o => some (encFence 0 o)
  | .fenceCore o => some (encFence 1 o)
  | .fenceGang o => some (encFence 2 o)
  | .fenceDie o => some (encFence 3 o)
  | .fenceDevice o => some (encFence 4 o)
  | .fenceSystem o => some (encFence 5 o)
  | .cbind h b => some (encRegs 0x1E 0 1 .always h b 0 0)
  | .cunbind h => some (encRegs 0x1E 1 1 .always h 0 0 0)
  | .cadv o => some (encI 0x1E false o.h 0 ((XTail.base 4 14).guard o.q) (o.n.setWidth 64))
  | .cfill a h => some (encRegs 0x1F 0 1 .always a h 0 0)
  | .cwait o => some (encI 0x1F false o.h 0 ((XTail.base 3 14).guard o.q) (o.n.setWidth 64))
  | .csend o => some (encI 0x1E false o.a o.b ((XTail.base 2 14).guard o.q) (o.n.setWidth 64))
  | .csendEos o => some (encI 0x1E false o.a o.b ((XTail.base 3 14).guard o.q) (o.n.setWidth 64))
  | .cmask o => some (encC 0x1F 0 ((XTail.base 1 14).guard o.q) o.c)
  | .cunmask o => some (encC 0x1F 0 ((XTail.base 2 14).guard o.q) o.c)
  | .setprio o => some (encC 0x20 0 ((XTail.base 3 14).guard o.q) o.c)
  | .yield => some (encNForm 0x20 1 0)
  | .sleep => some (encNForm 0x20 2 0)
  | .endTask => some (encNForm 0x20 0 0)
  | .decr o => some (encC 0x21 o.a ((XTail.base 1 14).guard o.q) o.c)
  | .spawn o => some (encRegs 0x21 0 1 .always o.a o.b 0 0)
  | .launch o => some (encRegs 0x22 0 1 .always o.a o.b 0 0)
  | .launchBar o => some (encRegs 0x22 1 1 .always o.a o.b 0 0)
  | .cancelLaunch o => some (encSrcB 0x22 2 o.a o.b)
  | .cancelGraph o => some (encSrcB 0x22 3 o.a o.b)
  | .cancelPhase o => some (encSrcB 0x22 4 o.a o.b)
  | .cancelJob o => some (encSrcB 0x22 5 o.a o.b)
  | .gform b => some (encSrcB 0x23 0 0 b)
  | .grel => some (encRegs 0x23 1 1 .always 0 0 0 0)
  | .tbld n b c => some (encX 0x39 1 (if n then 1 else 0) b ((XTail.base 0 14).srcC c))
  | .crd o => some (encI 0x0A false o.a 0 ((XTail.base 0 14).guard o.q) (o.n.setWidth 64))
  | .cwr o => some (encI 0x0A false o.a 0 ((XTail.base 1 14).guard o.q) (o.n.setWidth 64))
  | .trap o => some (encC 0x38 0 ((XTail.base 0 14).guard o.q) o.c)
  | .rft => some (encRegs 0x38 1 1 .always 0 0 0 0)
  | .bkpt => some (encNForm 0x3B 1 0)
  | .nop => some (encNForm 0x3B 0 0)
  | .scrub o => some (encRegs 0x3A 0 1 .always o.a o.b 0 0)
  | .logctlDefine o => some (encI 0x3A false o.a o.b.num (((XTail.base 1 14).guard o.q).srcB o.b) 0)
  | .logctlDisable o => some (encI 0x3A false o.a o.b.num (((XTail.base 1 14).guard o.q).srcB o.b) 1)
  | .logctlSequence o => some (encI 0x3A false o.a o.b.num (((XTail.base 1 14).guard o.q).srcB o.b) 2)
  | .vadd o => some (encV3 0x24 0 o)
  | .vsub o => some (encV3 0x24 1 o)
  | .vmul o => some (encV3 0x24 2 o)
  | .vaddSat o => some (encV3 0x24 4 o)
  | .vsubSat o => some (encV3 0x24 5 o)
  | .vmulSat o => some (encV3 0x24 6 o)
  | .vfma o => some (encV4 0 o)
  | .vfms o => some (encV4 1 o)
  | .vmin o => some (encV3 0x26 0 o)
  | .vmax o => some (encV3 0x26 1 o)
  | .vminn o => some (encV3 0x26 2 o)
  | .vmaxn o => some (encV3 0x26 3 o)
  | .vand o => some (encVLog 0 false o)
  | .vor o => some (encVLog 1 false o)
  | .vxor o => some (encVLog 2 false o)
  | .vsel o => some (encVLog 3 true o)
  | .vlog3 o => some (encVLog 4 true o)
  | .vcmpEq o => some (encVcmp 0 o)
  | .vcmpNe o => some (encVcmp 1 o)
  | .vcmpLt o => some (encVcmp 2 o)
  | .vcmpLe o => some (encVcmp 3 o)
  | .vcmpGt o => some (encVcmp 4 o)
  | .vcmpGe o => some (encVcmp 5 o)
  | .vcvt o => some (encVcvt 0 o)
  | .vcvtSat o => some (encVcvt 1 o)
  | .enc o => some (encEnc 2 o)
  | .encSat o => some (encEnc 3 o)
  | .dec o => some (encEnc 4 o)
  | .vbcast o => some (encVbcast o)
  | .vperm o => some (encVperm o)
  | .vredAdd o => some (encVred 2 o)
  | .vredMin o => some (encVred 3 o)
  | .vredMax o => some (encVred 4 o)
  | .vld o => some (encVmem 0 o)
  | .vst o => some (encVmem 1 o)
  | .vrcp o => some (encVfn 0x2C 0 o)
  | .vrsq o => some (encVfn 0x2C 1 o)
  | .vexp2 o => some (encVfn 0x2D 0 o)
  | .vlog2 o => some (encVfn 0x2D 1 o)
  | .mxclr acc => some (encRegs 0x2E 0 1 .always (acc.setWidth 4) 0 0 0)
  | .mxmul o => some (encRegs 0x2E 1 2 o.q (o.acc.setWidth 4) o.b o.c o.d)
  | .mxs3 o => some (encRegs 0x2E 2 2 o.q (o.acc.setWidth 4) o.b o.c o.d)
  | .mxst o => some (encMxst 0 o)
  | .mxstSat o => some (encMxst 1 o)
  | .mxedge o => some (encRegs 0x30 0 1 .always o.a 0 o.c 0)
  | .mxsplitEnter o => some (encRegs 0x30 1 1 .always o.a 0 o.c 0)
  | .mxsplitLeave o => some (encRegs 0x30 1 1 .always o.a 0 o.c 0)
  | .mxrem o => some (encRegs 0x30 2 1 .always o.a o.b 0 0)
  | .mxrsm acc => some (encRegs 0x30 3 1 .always (acc.setWidth 4) 0 0 0)
  | .rstat o => some (encV 0x31 false 0 0 { VTail.base 0 14 with va := o.a, vb := o.acc.setWidth 5 })
  | .rstatE o => some (encV 0x31 true 0 0
      { VTail.base 1 14 with va := o.a, vb := o.acc.setWidth 5, vc := o.c, imm27 := o.k.setWidth 27 })
  | .gmu o => some (encRegs 0x32 0 1 .always o.t o.b 0 0)
  | .gsum b => some (encRegs 0x33 0 1 .always 0 b 0 0)
  | .gsub o => some (encRegs 0x33 1 1 .always o.t o.b 0 0)
  | .gres o => some (encRegs 0x33 2 1 .always o.a o.b 0 0)
  | .cxq o => some (encRegs 0x34 0 1 o.q o.a o.b 0 0)
  | .cxqNb o => some (encRegs 0x34 1 1 o.q o.a o.b 0 0)
  | .cxwait o => some (encRegs 0x35 0 1 o.q (o.n.setWidth 4) o.b 0 0)
  | .map o => some (encRegs 0x36 0 2 o.q o.a o.b o.c o.d)
  | .grant o => some (encRegs 0x36 1 2 o.q o.a o.b o.c o.d)
  | .unmap o => some (encRegs 0x36 2 2 o.q o.a o.b o.c o.d)
  | .spqry o =>
    let x := (XTail.base 0 14).guard o.q
    match o.c with
    | .reg r => some (encX 0x37 1 o.a o.b { x with c := r })
    | .imm v => some (encI 0x37 false o.a o.b x v)
  | .serviceCoreFence _ _
  | .lineBoundarySelection
  | .ageWrap
  | .memrepReceive
  | .ceilingRecovery
  | .buoySilenceTimeout
  | .bankRequest
  | .bankMissFill
  | .writeBackAccept
  | .copySliceLoad
  | .copyInvalidate
  | .invalidateAck
  | .lateRequestAtHome
  | .landedNotice
  | .translationMiss
  | .mapAtHome
  | .mapForward
  | .recordCreation
  | .unmapAtCoordinator
  | .unmapPart
  | .withdrawMessage
  | .withdrawAck
  | .shootdown
  | .shootdownAck
  | .recordRemoval
  | .withdrawCompletionPost
  | .spqryAtHome
  | .detRefusal
  | .roomNotice
  | .closeReport
  | .closeAtBank
  | .closeAck
  | .closeNotice
  | .waitingReport
  | .quantumOverflowNotice
  | .faultMark
  | .memberStartPost
  | .completionPost
  | .launchMessageAtHome
  | .hostLaunchWrite
  | .hostCreationWrite
  | .spawnMemberAdd
  | .spawnPlace
  | .spawnMemberRemove
  | .cancelAtObject
  | .terminationNotice
  | .cancelWalk
  | .placement
  | .decrApply
  | .chanPacketReceive
  | .gaussPartReceive
  | .mxcmdReceive
  | .barrierArrive
  | .barrierBytes
  | .barrierWake
  | .arrivalReply
  | .cxTransferStart
  | .haloStart
  | .cxUnitWrite
  | .cxBytesPost
  | .gcmTagCheck
  | .cxTransferComplete
  | .vxHeadStart
  | .vxHeadComplete
  | .vstSend
  | .mxHeadStart
  | .mxStepApply
  | .mxstSend
  | .gformJoin
  | .gangStart
  | .remoteCompletionNotice
  | .portHeaderDiscard
  | .multicastReplicate
  | .multicastBlockTimeout
  | .bankOpLine0
  | .bankOpLine1
  | .serviceRetry
  | .serviceFail
  | .serviceTranslationAnswer
  | .swapOut
  | .restore
  | .coreFence
  | .coreReenable
  | .partitionDescriptorWrite
  | .stitchDescriptorWrite
  | .logControlWrite
  | .registerWrite
  | .keyLoad
  | .keyErase
  | .getMeasurements
  | .scrubRun
  | .logIntervalEnd
  | .logCountSum
  | .patrolRead
  | .directoryCountReport
  | .moveComplete
  | .directoryGrant
  | .snoop
  | .linkDown
  | .linkRecover
  | .quarantineTimeout
  | .flitSend
  | .flitReceive
  | .ideKeySwitch
  | .ideOldBankErase
  | .vfConfigChange
  | .vfTeardown
  | .vfDrainExpiry
  | .firmwareUpdate
  | .thermalTrip
  | .reset
  | .windowAccess
  | .illegalOp
  | .sidAllocation
  | .kernelObjectCreation
  | .tdispLock
  | .tdispStart
  | .tdispStop
  | .linkKeyLoad
  | .keyEx
  | .sliceReloadComplete
  | .hostPortRemoval
  | .peerDeviceDeconfigure => none

/-- The word of the service core's fence (R233). -/
def encodeService (scope : BitVec 3) (o : FenceOp) : Nat :=
  o.pred.toNat * 2 ^ 24 + o.succ.toNat * 2 ^ 20 + scope.toNat * 2 ^ 12 + 0x00B

end Sys2Proof
end

