-- ==== Sys2Proof/Machine/Float.lean ====
section
/-! DEFINITION. Exact numbers and their rounding (R93 to R109, R344): every operation forms the exact value and rounds it once. -/

namespace Sys2Proof.Machine

/-- The exact value of an operand: a sign, a magnitude `m * 2 ^ e`, an infinity or a NaN (R93, R99). -/
inductive Val
  | fin (neg : Bool) (m : Nat) (e : Int)
  | inf (neg : Bool)
  | nan
  deriving DecidableEq, Repr

namespace Val

def zero : Val := .fin false 0 0

def isNan : Val → Bool
  | .nan => true
  | _ => false

def isZero : Val → Bool
  | .fin _ m _ => m == 0
  | _ => false

def sign : Val → Bool
  | .fin n _ _ => n
  | .inf n => n
  | .nan => false

/-- The exact value of an integer. -/
def ofInt (i : Int) : Val := .fin (decide (i < 0)) i.natAbs 0

def negate : Val → Val
  | .fin n m e => .fin (!n) m e
  | .inf n => .inf (!n)
  | .nan => .nan

def abs : Val → Val
  | .fin _ m e => .fin false m e
  | .inf _ => .inf false
  | .nan => .nan

/-- Multiply by a power of two, exactly (R99). -/
def scale (k : Int) : Val → Val
  | .fin n m e => .fin n m (e + k)
  | v => v

/-- The signed mantissa of a finite value at exponent `e0`, for `e0` not above its exponent. -/
def mant (neg : Bool) (m : Nat) (e e0 : Int) : Int :=
  let x : Int := m * 2 ^ (e - e0).toNat
  if neg then -x else x

/-- The exact sum; an exact zero sum is +0 unless both operands are -0, and unlike infinities give NaN (R106). -/
def add : Val → Val → Val
  | .nan, _ => .nan
  | _, .nan => .nan
  | .inf a, .inf b => if a = b then .inf a else .nan
  | .inf a, _ => .inf a
  | _, .inf b => .inf b
  | .fin na ma ea, .fin nb mb eb =>
    if ma = 0 ∧ mb = 0 then .fin (na && nb) 0 0
    else
      let e0 := min ea eb
      let s := Val.mant na ma ea e0 + Val.mant nb mb eb e0
      .fin (decide (s < 0)) s.natAbs e0

def sub (a b : Val) : Val := a.add b.negate

/-- The exact product; infinity times 0 gives NaN (R106, R113). -/
def mul : Val → Val → Val
  | .nan, _ => .nan
  | _, .nan => .nan
  | .inf a, b => if b.isZero then .nan else .inf (a != b.sign)
  | a, .inf b => if a.isZero then .nan else .inf (a.sign != b)
  | .fin na ma ea, .fin nb mb eb => .fin (na != nb) (ma * mb) (ea + eb)

/-- Order of two finite or infinite values, -0 and +0 being equal: `some (a < b, a = b)`; none with a NaN (R253). -/
def cmp : Val → Val → Option Ordering
  | .nan, _ => none
  | _, .nan => none
  | .inf a, .inf b => some (if a = b then .eq else if a then .lt else .gt)
  | .inf a, .fin _ _ _ => some (if a then .lt else .gt)
  | .fin _ _ _, .inf b => some (if b then .gt else .lt)
  | .fin na ma ea, .fin nb mb eb =>
    let e0 := min ea eb
    some (compare (Val.mant na ma ea e0) (Val.mant nb mb eb e0))

end Val

/-- The nearest integer to `m * 2 ^ k`, ties to even (R105). -/
def rneShift (m : Nat) (k : Int) : Nat :=
  if 0 ≤ k then m * 2 ^ k.toNat
  else
    let d := (-k).toNat
    if m.log2 + 2 < d then 0
    else
      let q := m / 2 ^ d
      let r := m % 2 ^ d
      if 2 * r < 2 ^ d then q else if 2 * r = 2 ^ d then q + q % 2 else q + 1

/-- A floating-point layout: fraction bits and exponent bits (R93). -/
structure Fmt where
  fb : Nat
  eb : Nat
  deriving DecidableEq, Repr

namespace Fmt

def f32 : Fmt := ⟨23, 8⟩
def f19 : Fmt := ⟨10, 8⟩
def bf16 : Fmt := ⟨7, 8⟩
def f16 : Fmt := ⟨10, 5⟩

def bias (f : Fmt) : Nat := 2 ^ (f.eb - 1) - 1

/-- The exponent of the smallest subnormal. -/
def emin (f : Fmt) : Int := 1 - (f.bias : Int) - f.fb

def signBit (f : Fmt) : Nat := 2 ^ (f.fb + f.eb)
def infBits (f : Fmt) : Nat := (2 ^ f.eb - 1) * 2 ^ f.fb
def nanBits (f : Fmt) : Nat := f.infBits + 2 ^ (f.fb - 1)
def width (f : Fmt) : Nat := f.fb + f.eb + 1

/-- The value of a bit pattern; bits above the format are ignored (R93, R94). -/
def decode (f : Fmt) (n : Nat) : Val :=
  let s : Bool := n / f.signBit % 2 == 1
  let ex := n / 2 ^ f.fb % 2 ^ f.eb
  let fr := n % 2 ^ f.fb
  if ex = 2 ^ f.eb - 1 then (if fr = 0 then .inf s else .nan)
  else if ex = 0 then .fin s fr f.emin
  else .fin s (2 ^ f.fb + fr) (f.emin + ex - 1)

/-- A magnitude rounded once to nearest, ties to even: the bit pattern without its sign, at or above `infBits` on overflow (R105). -/
def roundMag (f : Fmt) (m : Nat) (e : Int) : Nat :=
  if m = 0 then 0
  else
    let q := max ((m.log2 : Int) + e - f.fb) f.emin
    (q - f.emin).toNat * 2 ^ f.fb + rneShift m (e - q)

/-- The value rounded into the format; `sat` is the .SAT column of R105. -/
def encode (f : Fmt) (sat : Bool) : Val → Nat
  | .nan => f.nanBits
  | .inf s => (if s then f.signBit else 0) + (if sat then f.infBits - 1 else f.infBits)
  | .fin s m e =>
    let r := f.roundMag m e
    (if s then f.signBit else 0) + (if f.infBits ≤ r then (if sat then f.infBits - 1 else f.infBits) else r)

end Fmt

/-- The layout of a float suffix (R93). -/
def tyFmt : Ty → Fmt
  | .f16 => .f16
  | .bf16 => .bf16
  | .f19 => .f19
  | _ => .f32

/-- The width in bits of a suffix's value in a register or in memory; an F19 value has 19 bits in its container (R94, R242). -/
def tyBits : Ty → Nat
  | .i8 | .z8 | .t8 => 8
  | .i16 | .z16 | .f16 | .bf16 => 16
  | .i32 | .z32 | .f32 | .f19 => 32
  | .t4 => 4
  | _ => 64

/-- The exact integer that the low `w` bits of `x` stand for (R242). -/
def intVal (signed : Bool) (w x : Nat) : Int :=
  let n := x % 2 ^ w
  if signed ∧ 2 ^ (w - 1) ≤ n then (n : Int) - 2 ^ w else n

/-- An exact integer reduced to `w` bits (R109, R242). -/
def wrapInt (w : Nat) (i : Int) : Nat := (i % 2 ^ w).toNat

/-- Clamp to the range of the suffix's signedness (R109). -/
def clampInt (signed : Bool) (w : Nat) (i : Int) : Int :=
  let lo : Int := if signed then -(2 ^ (w - 1)) else 0
  let hi : Int := if signed then 2 ^ (w - 1) - 1 else 2 ^ w - 1
  if i < lo then lo else if hi < i then hi else i

/-- The integer nearest a finite value, ties to even. -/
def rneInt (neg : Bool) (m : Nat) (e : Int) : Int :=
  let n : Int := rneShift m e
  if neg then -n else n

/-- Conversion to an integer type under R105, as `w` bits. -/
def toInt (sat signed : Bool) (w : Nat) : Val → Nat
  | .nan => 0
  | .inf s =>
    if sat then wrapInt w (if s then (if signed then -(2 ^ (w - 1)) else 0) else (if signed then 2 ^ (w - 1) - 1 else 2 ^ w - 1)) else 0
  | .fin s m e =>
    let i := rneInt s m e
    wrapInt w (if sat then clampInt signed w i else i)

/-- The exact value of a register or lane of suffix `t` (R242, R255). -/
def tyVal (t : Ty) (x : Nat) : Val :=
  if t.isFloat then (tyFmt t).decode (x % 2 ^ (tyFmt t).width) else .ofInt (intVal t.isSigned (tyBits t) x)

/-- An exact value converted to suffix `t` under R104 and R105: the bits of the value, `tyBits t` wide. -/
def tyEnc (t : Ty) (sat : Bool) (v : Val) : Nat :=
  if t.isFloat then (tyFmt t).encode sat v else toInt sat t.isSigned (tyBits t) v

/-- F16 and BF16 convert to F19 keeping sign, NaN-ness and fraction bits (R104); every other pair goes through the exact value. Under .SAT an infinity gives the
largest finite F19, as R105's row for an infinite source says, although R104 calls that conversion exact (DESIGN CHOICE, log 60). -/
def convert (s t : Ty) (sat : Bool) (x : Nat) : Nat :=
  let v := tyVal s x
  if t = .f19 ∧ v.isNan ∧ (s = .f16 ∨ s = .bf16) then
    let f := tyFmt s
    (if x / f.signBit % 2 = 1 then Fmt.f19.signBit else 0) + Fmt.f19.infBits + x % 2 ^ f.fb * 2 ^ (10 - f.fb)
  else tyEnc t sat v

/-! ## F32 arithmetic (R106) -/

def f32v (x : Nat) : Val := Fmt.f32.decode (x % 2 ^ 32)

def f32Add (a b : Nat) : Nat := Fmt.f32.encode false ((f32v a).add (f32v b))
def f32Sub (a b : Nat) : Nat := Fmt.f32.encode false ((f32v a).sub (f32v b))
def f32Mul (a b : Nat) : Nat := Fmt.f32.encode false ((f32v a).mul (f32v b))

/-- `a * b + c` rounded once; infinity times 0 is NaN whatever c holds (R328). -/
def f32Fma (a b c : Nat) : Nat := Fmt.f32.encode false (((f32v a).mul (f32v b)).add (f32v c))

/-- Is a below b, -0 counting as below +0? Neither is a NaN (R108). -/
def valBelow (a b : Val) : Bool :=
  match a.cmp b with
  | some .lt => true
  | some .eq => a.isZero && b.isZero && a.sign && !b.sign
  | _ => false

/-- VMIN, VMAX, VMINN and VMAXN (R108): `number` returns the operand that is not a NaN. -/
def valExtreme (max number : Bool) (a b : Val) : Val :=
  if a.isNan then (if number then b else .nan)
  else if b.isNan then (if number then a else .nan)
  else if max then (if valBelow a b then b else a) else (if valBelow b a then b else a)

def f32Min (a b : Nat) : Nat := Fmt.f32.encode false (valExtreme false false (f32v a) (f32v b))
def f32Max (a b : Nat) : Nat := Fmt.f32.encode false (valExtreme true false (f32v a) (f32v b))

/-- ABS and NEG on F32: the sign bit cleared or inverted, a NaN giving the canonical NaN (R247). -/
def f32Abs (a : Nat) : Nat := Fmt.f32.encode false (f32v a).abs
def f32Neg (a : Nat) : Nat := Fmt.f32.encode false (f32v a).negate

/-- The quotient of two magnitudes to `p` more bits than its operands, with a sticky bit below: exact enough to round once. -/
def divSticky (p a b : Nat) : Nat :=
  let n := a * 2 ^ p
  2 * (n / b) + (if n % b = 0 then 0 else 1)

/-- The exact quotient as far as one rounding into F32 needs it (R106). -/
def valDiv : Val → Val → Val
  | .nan, _ => .nan
  | _, .nan => .nan
  | .inf _, .inf _ => .nan
  | .inf a, b => .inf (a != b.sign)
  | a, .inf b => .fin (a.sign != b) 0 0
  | .fin na ma ea, .fin nb mb eb =>
    if mb = 0 then (if ma = 0 then .nan else .inf (na != nb))
    else if ma = 0 then .fin (na != nb) 0 0
    else
      let p := mb.log2 + 64
      .fin (na != nb) (divSticky p ma mb) (ea - eb - p - 1)

def f32Div (a b : Nat) : Nat := Fmt.f32.encode false (valDiv (f32v a) (f32v b))

/-! ## Special functions (R344)

Each result is formed to a bound far below half a unit of F32, with a sticky bit for what lies below, and rounded once. -/

/-- The integer square root by bits, from bit `i` down. -/
def sqrtBits (n : Nat) : Nat → Nat → Nat
  | 0, r => r
  | i + 1, r => let t := r + 2 ^ i; sqrtBits n i (if t * t ≤ n then t else r)

def isqrt (n : Nat) : Nat := sqrtBits n (n.log2 / 2 + 1) 0

/-- VRCP (R344). -/
def f32Rcp (a : Nat) : Nat := Fmt.f32.encode false (valDiv (.ofInt 1) (f32v a))

/-- 1/sqrt(x) for a positive magnitude, with 64 bits beyond the operand and a sticky bit. -/
def rsqMag (m : Nat) (e : Int) : Val :=
  let odd : Bool := e % 2 != 0
  let m' := if odd then 2 * m else m
  let e' := if odd then e - 1 else e
  let p := m'.log2 + 64
  let r := isqrt (2 ^ (2 * p) / m')
  .fin false (2 * r + (if r * r * m' = 2 ^ (2 * p) then 0 else 1)) (-(e' / 2) - p - 1)

/-- VRSQ (R344). -/
def f32Rsq (a : Nat) : Nat :=
  Fmt.f32.encode false (match f32v a with
    | .nan => .nan
    | .inf s => if s then .nan else .zero
    | .fin s m e => if m = 0 then .inf s else if s then .nan else rsqMag m e)

/-- The working precision of VEXP2 and VLOG2 in bits. -/
def fnBits : Nat := 400

/-- The product of the roots `2 ^ (2 ^ -i)` over the bits of a fraction, the highest bit first, at `fnBits` bits: `root` is the last root. -/
def exp2Frac : List Bool → Nat → Nat → Nat
  | [], _, acc => acc
  | b :: bs, root, acc =>
    let root' := isqrt (root * 2 ^ fnBits)
    exp2Frac bs root' (if b then acc * root' / 2 ^ fnBits else acc)

/-- The bits of `f / 2 ^ n`, highest first. -/
def fracBits (f : Nat) : Nat → List Bool
  | 0 => []
  | n + 1 => (f / 2 ^ n % 2 == 1) :: fracBits f n

/-- 2^x for finite x; beyond the range of F32 the exponent alone decides (R344). -/
def exp2Mag (neg : Bool) (m : Nat) (e : Int) : Val :=
  let x := Val.mant neg m e (min e 0)
  let n := (-(min e 0)).toNat
  let i := x / 2 ^ n
  let f := (x % 2 ^ n).toNat
  if 200 < i then .fin false 1 200
  else if i < -200 then .fin false 1 (-200)
  else if f = 0 then .fin false 1 i
  else .fin false (2 * exp2Frac (fracBits f n) (2 * 2 ^ fnBits) (2 ^ fnBits) + 1) (i - fnBits - 1)

/-- VEXP2 (R344). -/
def f32Exp2 (a : Nat) : Nat :=
  Fmt.f32.encode false (match f32v a with
    | .nan => .nan
    | .inf s => if s then .zero else .inf false
    | .fin s m e => if m = 0 then .ofInt 1 else exp2Mag s m e)

/-- The bits of log2 of `y / 2 ^ fnBits`, for y from 1 to 2, by repeated squaring. -/
def log2Frac : Nat → Nat → Nat → Nat
  | 0, _, acc => acc
  | n + 1, y, acc =>
    let z := y * y / 2 ^ fnBits
    if 2 * 2 ^ fnBits ≤ z then log2Frac n (z / 2) (2 * acc + 1) else log2Frac n z (2 * acc)

/-- log2 of a positive magnitude, with 96 bits after the point and a sticky bit; exact for a power of two (R344). -/
def log2Mag (m : Nat) (e : Int) : Val :=
  let i : Int := (m.log2 : Int) + e
  if m = 2 ^ m.log2 then .ofInt i
  else
    let f := log2Frac 96 (m * 2 ^ fnBits / 2 ^ m.log2) 0
    let s := i * 2 ^ 97 + (2 * f + 1 : Nat)
    .fin (decide (s < 0)) s.natAbs (-97)

/-- VLOG2 (R344). -/
def f32Log2 (a : Nat) : Nat :=
  Fmt.f32.encode false (match f32v a with
    | .nan => .nan
    | .inf s => if s then .nan else .inf false
    | .fin s m e => if m = 0 then .inf true else if s then .nan else log2Mag m e)

/-! ## Decode tables (R101 to R103) -/

/-- An encode index: the codes of the finite entries in ascending value and code, the lowest codes of the infinities, the NaN code. -/
structure EncIndex where
  sorted : List Nat
  pinf   : Option Nat
  ninf   : Option Nat
  nan    : Nat
  deriving DecidableEq, Repr

/-- A decode table: 256 entries of F19 and its two indexes (R101). -/
structure Table where
  ents : List (BitVec 19)
  ix8  : EncIndex
  ix4  : EncIndex
  deriving DecidableEq, Repr

/-- After reset every entry and both indexes are zero, with NaN code 0 (R102). -/
def Table.reset : Table := ⟨List.replicate 256 0, ⟨[], none, none, 0⟩, ⟨[], none, none, 0⟩⟩

/-- The exact value of an entry. -/
def Table.val (t : Table) (code : Nat) : Val := Fmt.f19.decode (t.ents.getD code 0).toNat

/-- Insert a code into the sorted order: after every entry of lesser or equal value (R101). -/
def insertCode (v : Nat → Val) (c : Nat) : List Nat → List Nat
  | [] => [c]
  | d :: ds => match (v c).cmp (v d) with
    | some .lt => c :: d :: ds
    | _ => d :: insertCode v c ds

/-- Build an index over the codes below `n` (R101). -/
def buildIndex (ents : List (BitVec 19)) (n nanArg : Nat) : EncIndex :=
  let v := fun c => Fmt.f19.decode (ents.getD c 0).toNat
  let codes := List.range n
  { sorted := (codes.filter fun c => match v c with | .fin _ _ _ => true | _ => false).foldl (fun l c => insertCode v c l) []
    pinf := codes.find? fun c => v c == .inf false
    ninf := codes.find? fun c => v c == .inf true
    nan := (codes.find? fun c => (v c).isNan).getD (nanArg % n) }

/-- The table that TBLD builds from an image and a nan code (R101). -/
def Table.build (ents : List (BitVec 19)) (nanArg : Nat) : Table :=
  ⟨ents, buildIndex ents 256 nanArg, buildIndex ents 16 nanArg⟩

/-- Does code `c` lie nearer to x than `d`, or as near with a lower number (R103)? -/
def nearer (v : Nat → Val) (x : Val) (c d : Nat) : Bool :=
  match ((v c).sub x).abs.cmp ((v d).sub x).abs with
  | some .lt => true
  | some .eq => decide (c < d)
  | _ => false

/-- ENC and ENC.SAT (R103). Where several codes hold the largest finite value, ENC.SAT of +∞ gives the lowest of them: the last sentence of R103 has the tie
rule settle duplicate entries (DEDUCED, log 61). -/
def Table.enc (t : Table) (four sat : Bool) (x : Val) : Nat :=
  let ix := if four then t.ix4 else t.ix8
  match ix.sorted with
  | [] => ix.nan
  | c :: cs =>
    match x with
    | .nan => ix.nan
    | .inf s =>
      if sat then (if s then c else cs.foldl (fun b d => match (t.val b).cmp (t.val d) with | some .lt => d | _ => b) c)
      else ((if s then ix.ninf else ix.pinf).getD ix.nan)
    | .fin _ _ _ => cs.foldl (fun b d => if nearer t.val x d b then d else b) c

end Sys2Proof.Machine
end

