-- ==== Sys2Proof/Machine/State.lean ====
section
/-! DEFINITION. The state of the module as plain data: memory, the cores with their tables and queues, the slices, the tables a partition
shares, the links, and what is on its way. Reset values are those of the register tables of spec/06 to 11, 18 to 21; where the spec gives
none, the assumption log names the value. A thing numbered in the spec is kept sparsely: a table lists what differs from its reset value. -/

namespace Sys2Proof.Machine

/-- Why the machine stops. -/
inductive Fault
  /-- Raised by every step after a thermal trip: no core, slice or link makes a step any more (R436). Safe: the part is stopped. -/
  | thermalStop
  deriving DecidableEq, Repr

/-- Why a step has no meaning. -/
inductive Refusal
  /-- Raised by exec for an instruction that has no meaning yet; safe, since the machine stops. -/
  | notModelled (mnemonic : String)
  deriving DecidableEq, Repr

/-- A sparse table from numbers, in rising order of its keys. -/
abbrev Tab (α : Type) := List (Nat × α)

/-! ## The core -/

/-- A buoy (R140): value, ceiling, unmarked replies, and the cycles of silence are in the events. -/
structure Buoy where
  val  : Nat
  ceil : Nat
  unm  : Nat
  deriving DecidableEq, Repr

def Buoy.reset : Buoy := ⟨63, 63, 0⟩

/-- An access that has left the core and is not answered (R228): its entry, what the core does with its reply, its first byte, its space, its first
receiver by the numbers of `receiver`, and whether it writes. -/
structure Access where
  hidx : Hidx
  ret  : Ret
  fptr : Word
  sid  : Sid
  rcv  : Nat
  wr   : Bool
  deriving DecidableEq, Repr

/-- What is owed for a step (R26, R412): the answer of an access; of a SPACE request, by its entry, what the core does with its reply, and the byte
it names; the status that a LAUNCH, SPAWN or CANCEL awaits; the reply of a barrier arrival; that of a completion post; that of another message. -/
inductive Owed
  | mem (x : Access)
  | space (h : Hidx) (r : Ret) (a : Word)
  | task (h : Hidx)
  | arrive (pc : VA) (x : Access)
  | post (l : ObjRef) (st : MStat)
  | other
  deriving DecidableEq, Repr

/-- The class of an accumulator element (R111). -/
inductive Cls
  | fin | pinf | ninf | nan
  deriving DecidableEq, Repr

/-- Who owns an accumulator: nobody, a handler entry, or the remote half (R141, R358). -/
inductive Owner
  | none
  | task (h : Hidx)
  | remote
  deriving DecidableEq, Repr

/-- An accumulator (R111, R141): 1,024 elements in row order. -/
structure Acc where
  elems : List (Cls × BitVec 48)
  e     : BitVec 16
  unset : Bool
  own   : Owner
  deriving DecidableEq, Repr

/-- An unset tile: every mantissa 0, every class finite, E = -32,768 (R111). -/
def Acc.cleared (own : Owner) : Acc := ⟨List.replicate 1024 (.fin, 0), 0x8000, true, own⟩

/-- The barrier-wait record of a handler entry (R288). -/
structure BarWait where
  bw   : Bool
  bq   : Bool
  adv  : Bool
  qd   : Bool
  rep  : Bool
  qn   : BitVec 2
  line : BitVec 50
  gen  : BitVec 32
  wg   : BitVec 32
  /-- A wake for the line is recorded in `wg` (R288 tells it from none). -/
  wk   : Bool
  deriving DecidableEq, Repr

def BarWait.reset : BarWait := ⟨false, false, false, false, false, 0, 0, 0, 0, false⟩

/-- The copy-wait record of a handler entry (R384). -/
structure CopyWait where
  cw  : Bool
  cch : BitVec 2
  id  : BitVec 32
  deriving DecidableEq, Repr

/-- What install writes into a workspace (R310). -/
structure Inst where
  pc   : VA
  arg1 : Word
  arg2 : Word
  g43  : Word
  g44  : Word
  priv : Bool
  bnd  : Bool
  deriving DecidableEq, Repr

def Inst.reset : Inst := ⟨0, 0, 0, 0, 0, false, false⟩

/-- A fault held with a pending register (R275): the LDNB's register, head index and PC, code and faulting byte, and the name of its load. -/
structure HeldFault where
  reg   : GReg
  head  : BitVec 5
  pc    : VA
  code  : Code
  faddr : Word
  id    : Nat
  deriving DecidableEq, Repr

/-- An engine. -/
inductive Eng
  | mx | vx | cx
  deriving DecidableEq, Repr

/-- An engine fault not yet delivered (R396). -/
structure EngFault where
  eng    : Eng
  code   : Code
  head   : BitVec 5
  detail : BitVec 32
  faddr  : Word
  pc     : VA
  /-- It came of an MXRSM in fault service, so that it is delivered after RFT (R406). -/
  again  : Bool
  deriving DecidableEq, Repr

/-- A gang as a member's core keeps it (R174, R313): leader, direction, size less 1, own distance, the members that joined (distance and
handler entry, in rising distance), whether it is formed, the head a follower has still to execute (R32), and, of this line, the fault the
member took, whether its DRAINST found a record to deliver, and the head at which it stopped for that or because a member ahead of it faulted
(R56, R400). A follower that stopped keeps the heads that it missed, with their lines, and executes them after its RFT: `redo`. -/
structure Gang where
  lead   : CoreId
  dir    : Bool
  sm1    : BitVec 4
  pos    : BitVec 4
  joined : List (Nat × Hidx)
  formed : Bool
  /-- The PC of the leader's GFORM. -/
  form   : VA
  todo   : Option VA
  flt    : Option EngFault
  drain  : Bool
  stopAt : Option VA
  missed : List (VA × Line)
  redo   : Bool
  deriving DecidableEq, Repr

/-- What a head of a line does at the line's end (R48, R287, R305, R313, R314). -/
inductive EndKind
  | yield | sleep | barWait | fin
  | gform (w : Word)
  | grel
  deriving DecidableEq, Repr

/-- An act that waits for the end of its line: what it is, and the PC of its head. -/
structure EndAct where
  kind : EndKind
  pc   : VA
  deriving DecidableEq, Repr

/-- What a FENCE waits for when the head that it orders issues (R231): the kinds that it orders, the names of the earlier requests, DECRs and engine
heads that are not performed, the transfers, and whether the remote-completion notices count (R232). -/
structure FenceWait where
  succ  : BitVec 3
  names : List Nat
  cxs   : List (BitVec 2 × BitVec 32)
  sys   : Bool
  deriving DecidableEq, Repr

/-- A handler-table entry (R163) and what the core keeps beside it: space binding (R176), barrier wait (R288), copy wait (R384), fault
record (R394), QNUM of its launch (R137), workspace blocks (R310), and what is held for it. -/
structure Entry where
  v    : Bool
  st   : BitVec 3
  eff  : BitVec 3
  base : BitVec 3
  urg  : Bool
  age  : Byte
  wpb  : BitVec 7
  trg  : BitVec 2
  chan : Chan
  g    : Bool
  pbu  : BuoyId
  dco  : Half
  lref : ObjRef
  tix  : Half
  sid  : Sid
  nblk : Nat
  bar  : BarWait
  copy : CopyWait
  rpc  : VA
  epc  : VA
  fvec : VA
  qnum : BitVec 32
  inst : Inst
  /-- A DECR has brought its dependence counter to zero, or it has none: it starts when its turn comes (R38, R164, R209). -/
  zero : Bool
  /-- The load of its binding line, while install waits for it (R310). -/
  binding : Option Nat
  held : List HeldFault
  engf : List EngFault
  gang : Option Gang
  /-- The completion that the core holds until its buoy has a step (R305). -/
  post : Option MStat
  /-- Held in state 4 for host-assisted service, of a fetch or of another access (R189). -/
  assist : Option Bool
  /-- Reported waiting, and reported with a marked request (R208). -/
  wait : Bool × Bool
  /-- A fault that is delivered at the next line boundary to a sleeping or parked member: QUANTUM_OVERFLOW (R396). -/
  qover : Option (BitVec 32)
  /-- What waits for the end of the task's line, in the order of its heads (R48); and what waits while the task is in fault service (R395). -/
  ends : List EndAct
  kept : List EndAct
  /-- The fences whose earlier accesses are not all performed (R231). -/
  fences : List FenceWait
  /-- Terminated, and by a CANCEL: the entry ends at its next line boundary (R213). -/
  kill : Option MStat
  deriving DecidableEq, Repr

def Entry.reset : Entry where
  v := false
  st := 0
  eff := 0
  base := 0
  urg := false
  age := 0
  wpb := 0
  trg := 0
  chan := 0
  g := false
  pbu := 0
  dco := 0
  lref := 0
  tix := 0
  sid := 0
  nblk := 0
  bar := .reset
  copy := ⟨false, 0, 0⟩
  rpc := 0
  epc := 0
  fvec := 0
  qnum := 0
  inst := .reset
  zero := false
  binding := none
  held := []
  engf := []
  gang := none
  post := none
  assist := none
  wait := (false, false)
  qover := none
  ends := []
  kept := []
  fences := []
  kill := none

/-- A channel-table entry (R168) and its dirty mask (R204). -/
structure ChanEnt where
  v     : Bool
  kind  : BitVec 2
  bh    : Bool
  hidx  : Hidx
  base  : BitVec 13
  sm1   : Byte
  tm1   : Byte
  fill  : Nat
  rd    : Byte
  wr    : Byte
  dirty : BitVec 64
  /-- The part last written to each staging image: slot and part (R363). -/
  stage : List (Nat × Nat)
  deriving DecidableEq, Repr

def ChanEnt.reset : ChanEnt := ⟨false, 0, false, 0, 0, 0, 0, 0, 0, 0, 0, []⟩

/-- A mooring-table entry (R190). -/
structure Moor where
  v    : Bool
  eng  : Eng
  dir  : Bool
  hidx : Hidx
  sid  : Sid
  lo   : Nat
  hi   : Nat
  deriving DecidableEq, Repr

def Moor.reset : Moor := ⟨false, .mx, false, 0, 0, 0, 0⟩

/-- An SFQ record (R197). -/
structure SfqRec where
  kind : BitVec 3
  hidx : Hidx
  sid  : Sid
  code : Code
  fva  : Word
  lref : ObjRef
  tix  : Half
  deriving DecidableEq, Repr

/-- A request in the store retention buffer (R196): the request, and whether it waits to be resent (R207). `id` names it. -/
structure Retained where
  id     : Nat
  req    : MemReq
  marked : Bool
  sent   : Bool
  deriving DecidableEq, Repr

/-- An outstanding load (R121, R274, R275): its entry and workspace, destination, conversion, and the pieces still owed. -/
structure Outst where
  id    : Nat
  hidx  : Hidx
  wpb   : BitVec 7
  nb    : Bool
  reg   : GReg
  t     : Ty
  fptr  : Word
  atom  : Bool
  head  : BitVec 5
  pc    : VA
  /-- Bytes received: address and value. -/
  got   : List (Nat × Byte)
  /-- Requests not yet sent, and replies still owed. -/
  todo  : List MemReq
  owed  : Nat
  fault : Option (Code × Word)
  /-- The bytes it will add to range-log read counters (R223): descriptor and bytes. -/
  log   : List (Nat × Nat)
  /-- It fills the read-only cache with these lines: VA line and PA line (R276). -/
  fills : List (Nat × Nat)
  /-- The poison bits of the lines it has received, by VA line. -/
  poi   : List (Nat × BitVec 2)
  /-- It counts in ORC (R221). -/
  cnt   : Bool
  /-- It is an instruction fetch, which has no destination (R80). -/
  code  : Bool
  /-- No RO.INV has come since it was requested, so that what it fills may be kept (R277). -/
  fresh : Bool
  deriving DecidableEq, Repr

/-- A head that holds the task until its reply (R274, R281, R296): which step of its work it has reached and what it has read. -/
structure Hold where
  phase : Nat
  words : List Word
  rep   : Option RepBody
  deriving DecidableEq, Repr

/-- A head in the VX queue (R193, R325): the head with what it captured at issue, and its result once it has started. -/
structure VxItem where
  id    : Nat
  i     : Instr
  hidx  : Hidx
  wpb   : BitVec 7
  sid   : Sid
  idx   : BitVec 5
  pc    : VA
  /-- The general register it broadcasts; once started, the value for a general register or a predicate. -/
  bc    : Word
  /-- The lanes that its prefix selects (R66). -/
  acts  : Word
  /-- The channels it consumes from, and their wait counts: of vB, then of vC. -/
  chans : List (Handle × Chan × BitVec 4)
  /-- The pointer of a VLD or VST. -/
  fptr  : Word
  /-- It accesses the workspace (R339). -/
  ws    : Bool
  /-- Its result, and the bytes of the destination that it writes. -/
  data  : Line
  bm    : BitVec 64
  moor  : List Nat
  started : Bool
  /-- Requests of a VST not yet sent, and replies still owed. -/
  reqs  : List MemReq
  owed  : Nat
  deriving DecidableEq, Repr

/-- A head in an MX queue (R193): local heads name their task, remote commands their sender. -/
structure MxItem where
  id    : Nat
  i     : Instr
  who   : Who
  hidx  : Hidx
  wpb   : BitVec 7
  idx   : BitVec 5
  pc    : VA
  /-- QNUM modulo 4 of its task at issue (R205). -/
  q     : BitVec 2
  pa    : Word
  pb    : Word
  /-- The stride word of MXMUL and MXS3, the mask word of MXST. -/
  sw    : Word
  /-- The row stride of MXST; the constant of RSTAT.E. -/
  st    : Word
  moor  : List Nat
  /-- The requests of the row being fetched, or of the MXST, are formed. -/
  started : Bool
  /-- A translation is awaited. -/
  await : Bool
  /-- Operand rows fetched: A rows, then B rows. -/
  arows : List (List Val)
  brows : List (List Val)
  /-- Bytes of the row being fetched, requests not yet sent, and replies still owed. -/
  got   : List (Nat × Byte)
  reqs  : List MemReq
  owed  : Nat
  /-- What the row adds to range-log read counters once it is taken in (R223). -/
  log   : List (Nat × Nat)
  /-- The command came from another core (R359). -/
  remote : Bool
  fault : Option (Code × Word)
  deriving DecidableEq, Repr

/-- A copy request as CXQ takes it (R371 to R379). -/
structure CxReq where
  w0    : Word
  w1    : Word
  w2    : Word
  w3    : Word
  /-- The eight words of the parameter block, of the modes that have one (R374). -/
  blk   : List Word
  id    : BitVec 32
  hidx  : Hidx
  who   : Who
  moor  : List Nat
  /-- The gate line and the gen it showed, until a wake opens it (R379). -/
  gate  : Option (BitVec 50 × BitVec 32)
  /-- A poisoned byte of its parameter block: the transfer's first fault (R158, R391). -/
  bad   : Option Word
  deriving DecidableEq, Repr

/-- A unit of a transfer in flight (R375): its number, its row, its place in the row and its size; its destination's translation; its source
requests not yet sent, the replies owed, the bytes received and those of them that are poisoned; the failure that stops the transfer at it and the
byte it names; whether its write has left, and the answer of the write. -/
structure CxUnit where
  n     : Nat
  row   : Nat
  pos   : Nat
  size  : Nat
  dst   : AtcEntry
  reqs  : List MemReq
  reads : Nat
  got   : List (Nat × Byte)
  poi   : List Nat
  bad   : Option (Code × Word)
  sent  : Bool
  res   : Option (Option Code)
  /-- What it adds to range-log read counters once it is read (R223). -/
  log   : List (Nat × Nat)
  deriving DecidableEq, Repr

/-- A transfer in progress (R375): its stage is 0 while its barrier is translated, 1 while its key and its sealed range are settled, 2 in its
units, 3 at its tag, 4 when it is to complete. -/
structure CxXfer where
  req    : CxReq
  stage  : Nat
  /-- The key that it holds has been erased (R426). -/
  nokey  : Bool
  /-- The unit to translate next: its row and its place in the row, and its number. -/
  row    : Nat
  pos    : Nat
  next   : Nat
  /-- The units in flight, in order. -/
  flight : List CxUnit
  /-- A fault has stopped it: no unit is begun or written any more. -/
  stop   : Bool
  /-- The bytes of the acknowledged units that are not posted, unit by unit; a unit that was refused posts none. -/
  pend   : List Nat
  /-- A post is not yet answered. -/
  post   : Bool
  /-- The byte whose translation is awaited. -/
  await  : Option Word
  /-- Something waits for a buoy's step or for a path. -/
  stuck  : Bool
  code   : Option (Code × Word)
  /-- The barrier that receives the posts: its PA and key slot. -/
  bar    : Option (PA × BitVec 6)
  /-- The sealed ranges of the core's scratchpad: first byte and length (R381). -/
  sealed : List (Nat × Nat)
  /-- The hash of the ciphertext so far and its last partial block (R380). -/
  gh     : BitVec 128
  ct     : List Byte
  deriving DecidableEq, Repr

/-- A CX error record (R382). -/
structure CxErr where
  cch  : BitVec 2
  hidx : Hidx
  code : Code
  id   : BitVec 32
  fva  : Word
  deriving DecidableEq, Repr

/-- MXPROG (R139). -/
structure MxProg where
  mv   : Bool
  acc  : AReg
  arow : BitVec 6
  brow : BitVec 6
  /-- The faulted head and the operand rows it keeps (R139). -/
  item : Option MxItem
  deriving DecidableEq, Repr

/-- A line of the read-only cache (R153): PA line, data, poison, check. -/
structure RoLine where
  ln   : Nat
  data : Line
  poi  : BitVec 2
  chk  : BitVec 16
  deriving DecidableEq, Repr

/-- A performance counter (R224). -/
structure Evc where
  ovf : Bool
  ev  : BitVec 7
  cnt : BitVec 48
  deriving DecidableEq, Repr

def Evc.reset : Evc := ⟨false, 0, 0⟩

/-- Where a task stands that has a line still to enter (R77): at a line boundary; before a head within another line, which it reached by a
transfer; before the PC that RFT restored; past the selection, with the line being entered. -/
inductive Edge
  | bound | jump | back | enter
  deriving DecidableEq, Repr

/-- A core. -/
structure Core where
  /-- The running entry; none while the core runs no task. -/
  run    : Option Hidx
  /-- WP.blk (R132). -/
  blk    : BitVec 7
  /-- The PC of the head to execute (R77). -/
  pc     : VA
  /-- The line being executed; none when the line at PC has still to be entered (R79, R81). -/
  line   : Option Line
  /-- Issue stops at the next line boundary (R402, R434). -/
  stop   : Bool
  /-- Where the task stands while it has no line (R77, R79, R166). -/
  edge   : Edge
  /-- The line at PC, when the transfer that leads to it has fetched it (R78, R80). -/
  ahead  : Option Line
  /-- The head that holds the task. -/
  hold   : Option Hold
  dev    : BitVec 10
  sblk   : Byte
  part   : Pid
  mxs    : Bool
  capmx  : Word
  orc    : Nat
  cxdone : Tab (BitVec 32)
  cxnext : Tab (BitVec 32)
  /-- Completed identifiers that CXDONE has not yet passed (R138). -/
  cxfin  : List (BitVec 2 × BitVec 32)
  mxprog : MxProg
  buoys  : Tab Buoy
  /-- What is owed to the core, oldest first (R228, R412). -/
  owed   : List (Step × Owed)
  accs   : Tab Acc
  t0     : Table
  t1     : Table
  ents   : Tab Entry
  last   : Hidx
  chans  : Tab ChanEnt
  cmask  : BitVec 3
  /-- Ingress buffers of CHAN and MXCMD (R28). -/
  inChan : List Packet
  inMx   : List (Packet × Who × BitVec 2)
  /-- The ATC, the newest entry first (R182). -/
  atc    : List AtcEntry
  moor   : Tab Moor
  mxq    : List MxItem
  mxrq   : List MxItem
  vxq    : List VxItem
  /-- The coprocessor queue of CX, and its command FIFO (R193, R195). -/
  cxq    : List CxReq
  fifo   : List CxReq
  xfers  : List CxXfer
  cxerr  : List CxErr
  srb    : List Retained
  /-- DET line requests of VST and MXST that a bank refused (R207). -/
  emark  : List MemReq
  /-- Further requests of late-translated heads, not yet sent, in ascending order for each head (R448). -/
  late   : List (List MemReq)
  sfq    : List SfqRec
  ro     : List RoLine
  loads  : List Outst
  /-- DECR packets not yet acknowledged: entry and name (R307). -/
  decrs  : List (Hidx × Nat)
  detSeq : BitVec 16
  rcc    : BitVec 16
  rlog   : Tab (BitVec 32)
  evc    : Tab Evc
  /-- The two counters of each half of MX in split mode: 0 and 1 of the local half, 2 and 3 of the remote one (R224). -/
  mxevc  : Tab Evc
  /-- Multicast packets waiting in the retry buffer (R410). -/
  retry  : List Packet
  /-- Available to placement (R434). -/
  avail  : Bool
  /-- The counter that names loads and retained requests. -/
  ids    : Nat
  deriving DecidableEq, Repr

/-- A core after reset. The usable scratchpad is the tested value and the device number is configured (R133): see the log. -/
def Core.reset : Core where
  run := none
  blk := 0
  pc := 0
  line := none
  stop := false
  edge := .bound
  ahead := none
  hold := none
  dev := 0
  sblk := 128
  part := 0
  mxs := false
  capmx := 0
  orc := 0
  cxdone := []
  cxnext := []
  cxfin := []
  mxprog := ⟨false, 0, 0, 0, none⟩
  buoys := []
  owed := []
  accs := []
  t0 := .reset
  t1 := .reset
  ents := []
  last := 63
  chans := []
  cmask := 0
  inChan := []
  inMx := []
  atc := []
  moor := []
  mxq := []
  mxrq := []
  vxq := []
  cxq := []
  fifo := []
  xfers := []
  cxerr := []
  srb := []
  emark := []
  late := []
  sfq := []
  ro := []
  loads := []
  decrs := []
  detSeq := 0
  rcc := 0
  rlog := []
  evc := []
  mxevc := []
  retry := []
  avail := true
  ids := 0

/-! ## Banks, memory and the slices -/

/-- A line held by a bank (R146): its data, key slot, dirty bit, poison bits, check, sharer mask, and the grant of a host-homed line. -/
structure CLine where
  ln    : Nat
  data  : Line
  key   : BitVec 6
  dirty : Bool
  poi   : BitVec 2
  chk   : BitVec 16
  shar  : BitVec 4
  excl  : Bool
  /-- The slice whose bank holds it, and whether it is a copy that a copy slice holds beside the home's line (R150). -/
  sl    : Nat
  copy  : Bool
  deriving DecidableEq, Repr

/-- The place of a line: its number and the slice whose bank holds it. A host's line has one in each partition that uses it (R439). -/
def placeOf (sl ln : Nat) : Nat := 2 ^ 50 * sl + ln
def placeLine (pl : Nat) : Nat := pl % 2 ^ 50
def placeSlice (pl : Nat) : Nat := pl / 2 ^ 50
def CLine.place (l : CLine) : Nat := placeOf l.sl l.ln

/-- A write that waits for its copy invalidations (R150, R229): the line, which is one of region 0, the dies still owed, and the requests in order. -/
structure InvWait where
  ln   : Nat
  dies : BitVec 4
  reqs : List Event
  deriving DecidableEq, Repr

/-- A quantum-buffer entry (R205) in its bank. -/
structure QEnt where
  bank  : BitVec 10
  core  : CoreId
  op    : BitVec 3
  type  : BitVec 2
  bmask : Byte
  q     : BitVec 2
  seq   : BitVec 16
  lref  : ObjRef
  pid   : Pid
  pa    : PA
  key   : BitVec 6
  data  : Word
  deriving DecidableEq, Repr

/-- A slice fault record (R200). -/
structure SfRec where
  kind : BitVec 3
  core : CoreId
  hidx : Hidx
  sid  : Sid
  code : Code
  hold : Byte
  fva  : Word
  rref : RecRef
  time : Word
  deriving DecidableEq, Repr

/-- An entry of a migration table (R416, R440): d, h, a move under way, the frame of the area that holds a migrated frame, the lines whose E grant
a move in still awaits, and the key slot of the access that last counted in d, under which lines move that no bank holds (log 38). -/
structure Migr where
  d    : Nat
  h    : Nat
  move : Bool
  area : Option Nat
  owed : List Nat
  key  : BitVec 6
  deriving DecidableEq, Repr

def Migr.reset : Migr := ⟨0, 0, false, none, [], 0⟩

/-- A slice: its registers (R421 and the rules it names) and queues. -/
structure Slice where
  pdesc  : List Word
  stitch : Tab Word
  logctl : Tab Word
  /-- The slice fault ring (R200, R201): records, head, tail, full count. -/
  ring   : Tab SfRec
  head   : Nat
  tail   : Nat
  full   : BitVec 32
  /-- The accesses held for host-assisted service (R189), by the number of their record: the record and the access. -/
  holdb  : Tab (SfRec × Event)
  sevc   : Tab Evc
  wlog   : Tab (BitVec 32)
  ecc    : BitVec 32
  /-- Range descriptors of the partition (R427), totals of the interval (R223), the last link of the log, and whether an anchor is due (R428). -/
  rdesc  : Tab (List Word)
  totals : Tab ((Nat × Bool) × (Nat × Bool))
  llink  : BitVec 384
  anchor : Bool
  touched : List Nat
  /-- The migration table by host frame, and the free frames of the migration area (R416). -/
  migr   : Tab Migr
  area   : List Nat
  /-- Migration is enabled (R416). -/
  migOn  : Bool
  /-- Where the kernel's object area begins, once the kernel has said so (R211). -/
  objBase : Option Nat
  /-- SYS records received by the service kernel. -/
  sys    : List (List Word)
  /-- Words of the service core waiting to execute, and the illegal-instruction exceptions it has raised (R233). -/
  svc    : List Nat
  svcx   : Nat
  fwver  : BitVec 32
  reload : Bool
  /-- The words of a firmware image written through the slice's update window (R433). -/
  fwin   : List Word
  /-- The slice is fenced (R434). -/
  fenced : Bool
  deriving DecidableEq, Repr

def Slice.reset : Slice where
  pdesc := []
  stitch := []
  logctl := []
  ring := []
  head := 0
  tail := 0
  full := 0
  holdb := []
  sevc := []
  wlog := []
  ecc := 0
  rdesc := []
  totals := []
  llink := 0
  anchor := false
  touched := []
  migr := []
  area := []
  migOn := false
  objBase := none
  sys := []
  svc := []
  svcx := 0
  fwver := 0
  reload := false
  fwin := []
  fenced := false

/-! ## What a partition shares -/

/-- A space descriptor (R184): partition, record count, holder cores. -/
structure Space where
  pid   : Pid
  count : Nat
  hold  : List Nat
  deriving DecidableEq, Repr

/-- A completion counter object (R211), the quantum record beside a launch object (R289), its completion DECR (R308), the kernel's
member list and creation order (R214), and whether its one start post was sent (R212). -/
structure Obj where
  v    : Bool
  lvl  : BitVec 2
  st   : BitVec 3
  flt  : Bool
  pid  : Pid
  hm   : Nat
  exp  : Nat
  fin  : Nat
  run  : Nat
  par  : ObjRef
  wait : Nat
  time : Word
  cl   : Bool
  q    : BitVec 32
  ncl  : Nat
  /-- Close reports that came while a close was in progress: they count toward the next quantum. -/
  nx   : Nat
  acks : Nat
  last : Bool
  dref : BitVec 32
  dd   : BitVec 32
  queue : BitVec 3
  posted : Bool
  mems : List ObjRef
  deriving DecidableEq, Repr

def Obj.reset : Obj where
  v := false
  lvl := 0
  st := 0
  flt := false
  pid := 0
  hm := 0
  exp := 0
  fin := 0
  run := 0
  par := 0
  wait := 0
  time := 0
  cl := false
  q := 0
  ncl := 0
  nx := 0
  acks := 0
  last := false
  dref := 0
  dd := 0
  queue := 0
  posted := false
  mems := []

/-- A message in a launch queue (R202): the message, its object, and the issuer's space and privilege. -/
structure QMsg where
  msg  : Line
  obj  : ObjRef
  sid  : Sid
  next : Nat
  deriving DecidableEq, Repr

/-- A launch queue (R202): messages, the outstanding launches, whose number R39 tests, and its tasks that are placed and not started, in queue order:
core and entry (R38). -/
structure LQueue where
  msgs : List QMsg
  out  : List ObjRef
  due  : List (Nat × Hidx)
  deriving DecidableEq, Repr

def LQueue.reset : LQueue := ⟨[], [], []⟩

/-- A partition's control window (R41) and its placement memory (R310). -/
structure Window where
  refused : Tab (BitVec 32)
  code    : Tab Byte
  ref     : Tab ObjRef
  cstat   : Word
  answered : BitVec 32
  lastAny : Option Nat
  /-- The launch queue that placement serves next. -/
  turn  : Nat
  deriving DecidableEq, Repr

def Window.reset : Window := ⟨[], [], [], 0, 0, none, 0⟩

/-- A withdrawal in progress at the home of one root record (R185, R388). -/
structure Withdraw where
  id    : Nat
  /-- The part of an UNMAP it answers, or none for the removal of a granted record (R181). -/
  part  : Option (Nat × SliceId)
  recs  : List RecRef
  /-- Withdraw messages still owed an acknowledgment: the record, and the record whose home sent the message. -/
  owed  : List (RecRef × RecRef)
  shoot : List Nat
  lo    : Nat
  hi    : Nat
  deriving DecidableEq, Repr

/-- An UNMAP at its coordinator (R388). -/
structure Unmap where
  id    : Nat
  req   : UnmapReq
  parts : List SliceId
  deriving DecidableEq, Repr

/-! ## Keys, links, functions -/

/-- A key slot (R425). -/
structure KeySlot where
  state : BitVec 2
  part  : Pid
  inv   : Word
  use   : KeyUse
  key   : BitVec 512
  /-- It has an owner: it has been loaded, and no SCRUB or reset has come since (R424, R425). -/
  owned : Bool
  deriving DecidableEq, Repr

def KeySlot.reset : KeySlot := ⟨0, 0, 0, .xts, 0, false⟩

/-- One direction of an IDE stream (R419): its two key banks, the key-generation bit in use, and a count. For the receiver that is the flits that have
arrived under the bit while the old bank still holds its key, and 1,025 once nothing of it is to be erased; for the transmitter it is 1 from the load of
the idle bank until the change of the bit. -/
structure IdeDir where
  bank0 : Option (BitVec 256)
  bank1 : Option (BitVec 256)
  sel   : Bool
  count : Nat
  deriving DecidableEq, Repr

def IdeDir.reset : IdeDir := ⟨none, none, false, 0⟩

/-- A host-port function: TDISP state, generation, session (R418, R420, R423), the two directions of its IDE stream (R419), whether it drains, and
the reply reservations and tags that the port holds for it (R420). -/
structure Fn where
  st    : BitVec 2
  gen   : BitVec 4
  sess  : Option (BitVec 256)
  tx    : IdeDir
  rx    : IdeDir
  drain : Bool
  tags  : Nat
  deriving DecidableEq, Repr

def Fn.reset : Fn := ⟨0, 0, none, .reset, .reset, false, 0⟩

/-- A scale-up port (R24, R413, R414, R417). -/
structure Port where
  up    : Bool
  err   : BitVec 32
  key   : Option (BitVec 256)
  salt  : BitVec 32
  tx    : Word
  rx    : Word
  /-- The failed tags in a row. -/
  bad   : Nat
  egress : Nat
  deriving DecidableEq, Repr

def Port.reset : Port := ⟨false, 0, none, 0, 0, 0, 0, 0⟩

/-- A partition's image in the shadow store (R402): the key drawn for this swap-out, under which the image is held until restore erases it (R152); its
cores with their scratchpads, the images of their accumulators by core * 4 + accumulator (R141), launch queues, quantum entries, records and
objects. -/
structure Image where
  key   : BitVec 256
  accs  : Tab (List Word)
  cores : Tab Core
  cells : List Host.Cell
  poison : List Nat
  qbuf  : List QEnt
  lqs   : Tab LQueue
  recs  : Tab DRec
  objs  : Tab Obj
  rings : Tab (Tab SfRec × Nat × Nat)
  stitch : Tab Word
  deriving DecidableEq, Repr

/-! ## The module -/

/-- A move of the schedule: deliver the event at a place of the list, give the turn to a core, or to a slice's service core. -/
inductive Move
  | event (n : Nat)
  | core (c : CoreId)
  | service (sl : SliceId)
  deriving DecidableEq, Repr

/-- The state of the module. -/
structure State where
  /-- Device time (R225). -/
  time   : Word
  /-- The bytes of memory that are not 0, by PA (R142). -/
  mem    : List Host.Cell
  /-- Poisoned granules by PA / 32 (R158). -/
  poison : List Nat
  /-- The key under which a line of HBM is encrypted, by PA / 64 (R155). -/
  hkey   : Tab (BitVec 512)
  /-- Lines whose stored check no longer fits their data (R157). -/
  badchk : List Nat
  cores  : Tab Core
  slices : Tab Slice
  /-- The lines that banks hold, copies included, most recently used first (R146, R150). -/
  lines  : List CLine
  /-- Write-backs queued and not yet accepted (R146, R160). -/
  wbq    : List CLine
  /-- Requests waiting for a fill, by the place of their line (R147). -/
  fills  : Tab (List Event)
  invw   : List InvWait
  qbuf   : List QEnt
  /-- Cores refused by a bank since its last close (R207). -/
  refused : List (Nat × Nat)
  recs   : Tab DRec
  spaces : Tab Space
  objs   : Tab Obj
  /-- Launch queues by partition * 8 + queue. -/
  lqs    : Tab LQueue
  wins   : Tab Window
  wds    : List Withdraw
  unmaps : List Unmap
  /-- Line 0 of a bank-operation record, by host port, slice and slot (R284). -/
  bops   : List ((Nat × Nat × Nat) × Line)
  keys   : Tab KeySlot
  /-- The functions of the host ports, by port * 32 + function (R418). -/
  fns    : Tab Fn
  ports  : Tab Port
  /-- Configured peer devices (R143). -/
  peers  : List Nat
  /-- Host ports present (R143, R418). -/
  hosts  : BitVec 2
  /-- Quarantined lines of a lost link, by their own number and the slice that held them, as places (R417, R439). -/
  quar   : Tab Line
  lost   : List Nat
  /-- Granules with an error that ECC corrects (R151, R158). -/
  soft   : List Nat
  /-- Links that are down and hold lines homed across them (R417). -/
  downs  : List LinkId
  shadow : Tab Image
  fwmin  : BitVec 32
  /-- The version that the slices are being updated to (R433). -/
  fwnext : Option (BitVec 32)
  lmsLeaf : Nat
  rseq   : Word
  /-- Stopped by a thermal trip (R436). -/
  hot    : Bool
  /-- What is on its way or has still to come, oldest first: packets, notices, replies, engine steps, external events (R22). -/
  net    : List Event
  /-- The requests that have waited at a bank and go on, in the order in which they came (R147, R229). -/
  back   : List Event
  /-- What has left the module over its links, oldest first (R413, R418). -/
  out    : List Event
  /-- The event in hand: the one that a step handles, or handled last. -/
  ev     : Option Event
  /-- The model's own: the moves chosen for the steps to come, the core and the service core whose turn it is, the counter of free values and of names. -/
  pick   : List Move
  cur    : CoreId
  svcCur : SliceId
  free   : Nat
  names  : Nat
  deriving DecidableEq, Repr

/-- The module right after reset (R15). -/
def State.reset : State where
  time := 0
  mem := []
  poison := []
  hkey := []
  badchk := []
  cores := []
  slices := []
  lines := []
  wbq := []
  fills := []
  invw := []
  qbuf := []
  refused := []
  recs := []
  spaces := []
  objs := []
  lqs := []
  wins := []
  wds := []
  unmaps := []
  bops := []
  keys := []
  fns := []
  ports := []
  peers := []
  hosts := 3
  quar := []
  lost := []
  soft := []
  downs := []
  shadow := []
  fwmin := 0
  fwnext := none
  lmsLeaf := 0
  rseq := 0
  hot := false
  net := []
  back := []
  out := []
  ev := none
  pick := []
  cur := 0
  svcCur := 0
  free := 0
  names := 0

end Sys2Proof.Machine
end

