-- ==== Sys2Proof/Machine/Memory.lean ====
section
/-! DEFINITION. Sparse tables, and memory as a canonical list of bytes (R10, R142): addresses strictly rising, no byte equal to what an
unlisted address reads as. -/

namespace Sys2Proof.Machine

/-- The value at a key, or the default. -/
def Tab.get {α : Type} (d : α) : Tab α → Nat → α
  | [], _ => d
  | (k, v) :: t, n => if k = n then v else Tab.get d t n

/-- The value at a key, if the table lists it. -/
def Tab.find {α : Type} : Tab α → Nat → Option α
  | [], _ => none
  | (k, v) :: t, n => if k = n then some v else Tab.find t n

/-- Put a value at a key. -/
def Tab.set {α : Type} : Tab α → Nat → α → Tab α
  | [], n, x => [(n, x)]
  | (k, v) :: t, n, x =>
    if k = n then (n, x) :: t
    else if n < k then (n, x) :: (k, v) :: t
    else (k, v) :: Tab.set t n x

/-- Remove a key. -/
def Tab.del {α : Type} (t : Tab α) (n : Nat) : Tab α := t.filter fun p => p.1 != n

/-- A memory: the bytes that are not 0. -/
abbrev Mem := List Host.Cell

/-- What an address reads as that no entry lists: 0 after reset of the scratchpads (R145); for other stores the model's choice. -/
def Mem.blank : Byte := 0

/-- The canonical form: addresses strictly rising from `lo`, and no entry equal to the blank byte. -/
def Mem.wfFrom : Nat → Mem → Bool
  | _, [] => true
  | lo, (a, b) :: m => decide (lo ≤ a) && b != Mem.blank && Mem.wfFrom (a + 1) m

/-- The canonical form of a memory. -/
def Mem.wf (m : Mem) : Bool := Mem.wfFrom 0 m

/-- Read one byte. -/
def Mem.read : Mem → Nat → Byte
  | [], _ => Mem.blank
  | (k, b) :: m, a => if k = a then b else Mem.read m a

/-- Remove an address. -/
def Mem.erase (m : Mem) (a : Nat) : Mem := m.filter fun p => p.1 != a

/-- Put a byte at an address that the memory does not list. -/
def Mem.insert (a : Nat) (b : Byte) : Mem → Mem
  | [] => [(a, b)]
  | (k, c) :: m => if a < k then (a, b) :: (k, c) :: m else (k, c) :: Mem.insert a b m

/-- Write one byte; writing the blank byte removes the entry. -/
def Mem.write (m : Mem) (a : Nat) (b : Byte) : Mem :=
  if b = Mem.blank then m.erase a else (m.erase a).insert a b

/-- The `n` bytes from `a` up, the byte at `a` lowest (R10). -/
def Mem.readN (m : Mem) (a : Nat) : Nat → Nat
  | 0 => 0
  | n + 1 => (m.read a).toNat + 256 * Mem.readN m (a + 1) n

/-- Write the low `n` bytes of `v` from `a` up (R10). -/
def Mem.writeN (m : Mem) (a : Nat) : Nat → Nat → Mem
  | 0, _ => m
  | n + 1, v => Mem.writeN (m.write a (BitVec.ofNat 8 v)) (a + 1) n (v / 256)

end Sys2Proof.Machine
end

