-- ==== Sys2Proof/Machine/Ops.lean ====
section
/-! DEFINITION. The named operations over the state: cores and their registers in the workspace (R116 to R131), partitions, buoys (R220),
the PC (R77), taking a fault (R395), returning from one (R317), parking (R167), and the end of a task (R305). -/

namespace Sys2Proof.Machine

/-! ## Bit fields -/

/-- The `n` bits of a word from bit `lo` up, as a number. -/
def field (w : Word) (lo n : Nat) : Nat := w.toNat / 2 ^ lo % 2 ^ n

/-- The word with the `n` bits from bit `lo` up replaced by `v`. -/
def putField (w : Word) (lo n v : Nat) : Word :=
  BitVec.ofNat 64 (w.toNat % 2 ^ lo + (v % 2 ^ n) * 2 ^ lo + w.toNat / 2 ^ (lo + n) * 2 ^ (lo + n))

def bit (w : Word) (n : Nat) : Bool := w.getLsbD n

/-- Word `i` of a 64-byte line. -/
def lineWord (l : Line) (i : Nat) : Word := l.extractLsb' (64 * i) 64

/-- A line from its eight words. -/
def lineOf (ws : List Word) : Line := BitVec.ofNat 512 (ws.foldr (fun w a => w.toNat + 2 ^ 64 * a) 0)

/-- The object reference that means none (R211). -/
def noObj : ObjRef := 0xFFFFFFFF

/-! ## Cores and entries -/

def State.core (s : State) (c : CoreId) : Core := Tab.get .reset s.cores c.toNat
def State.setCore (s : State) (c : CoreId) (k : Core) : State := { s with cores := Tab.set s.cores c.toNat k }
def State.modCore (s : State) (c : CoreId) (f : Core → Core) : State := s.setCore c (f (s.core c))
def Core.ent (k : Core) (h : Hidx) : Entry := Tab.get .reset k.ents h.toNat
def Core.setEnt (k : Core) (h : Hidx) (e : Entry) : Core := { k with ents := Tab.set k.ents h.toNat e }
def State.ent (s : State) (c : CoreId) (h : Hidx) : Entry := (s.core c).ent h
def State.modEnt (s : State) (c : CoreId) (h : Hidx) (f : Entry → Entry) : State :=
  s.modCore c fun k => k.setEnt h (f (k.ent h))
def Core.chan (k : Core) (n : Chan) : ChanEnt := Tab.get .reset k.chans n.toNat
def Core.setChan (k : Core) (n : Chan) (e : ChanEnt) : Core := { k with chans := Tab.set k.chans n.toNat e }
def Core.buoy (k : Core) (b : BuoyId) : Buoy := Tab.get .reset k.buoys b.toNat
def Core.acc (k : Core) (a : AReg) : Acc := Tab.get (.cleared .none) k.accs a.toNat
def Core.setAcc (k : Core) (a : AReg) (x : Acc) : Core := { k with accs := Tab.set k.accs a.toNat x }
def Core.moorAt (k : Core) (i : Nat) : Moor := Tab.get .reset k.moor i
def Core.cxDone (k : Core) (n : BitVec 2) : BitVec 32 := Tab.get 0 k.cxdone n.toNat
def Core.cxNext (k : Core) (n : BitVec 2) : BitVec 32 := Tab.get 0 k.cxnext n.toNat
def State.slice (s : State) (n : Nat) : Slice := Tab.get .reset s.slices n
def State.modSlice (s : State) (n : Nat) (f : Slice → Slice) : State :=
  { s with slices := Tab.set s.slices n (f (s.slice n)) }
def State.obj (s : State) (r : ObjRef) : Obj := Tab.get .reset s.objs r.toNat
def State.modObj (s : State) (r : ObjRef) (f : Obj → Obj) : State := { s with objs := Tab.set s.objs r.toNat (f (s.obj r)) }

/-- The core whose turn it is. -/
def State.me (s : State) : Core := s.core s.cur

/-- The running entry's index; 0 when none runs. -/
def State.myIdx (s : State) : Hidx := s.me.run.getD 0

def State.myEnt (s : State) : Entry := s.me.ent s.myIdx

/-- Put an event or message at the end of what is on its way. -/
def State.emit (s : State) (i : Event) : State := { s with net := s.net ++ [i] }

def State.emits (s : State) (l : List Event) : State := { s with net := s.net ++ l }

/-- A SYS record reaches the service kernel of a slice (R44, R168, R199): its words, a tag first. -/
def State.sysAt (s : State) (sl : Nat) (ws : List Word) : State := s.modSlice sl fun k => { k with sys := k.sys ++ [ws] }

/-! ## Places -/

/-- The PA of byte `off` of a core's scratchpad (R142). -/
def spad (c : CoreId) (off : Nat) : Nat := 2 ^ 53 + c.toNat * 2 ^ 19 + off

/-- The PA of byte `off` of the workspace at block `b` (R118, R132). -/
def wsAddr (c : CoreId) (b : BitVec 7) (off : Nat) : Nat := spad c (4096 * b.toNat + off)

/-- The x and y of a core in the mesh (R4). -/
def coreX (c : Nat) : Nat := c % 64
def coreY (c : Nat) : Nat := c / 64

def State.rd64 (s : State) (a : Nat) : Word := BitVec.ofNat 64 (Mem.readN s.mem a 8)
def State.wr64 (s : State) (a : Nat) (w : Word) : State := { s with mem := Mem.writeN s.mem a 8 w.toNat }

/-! ## The workspace image (R118) -/

def offTstat : Nat := 320
def offFstat : Nat := 328
def offFaddr : Nat := 336
def offGeom : Nat := 344
def offLink : Nat := 360
def offTid : Nat := 368
def offSbrd : Nat := 376
def offV : Nat := 384

/-- The bytes of the register image (R118). -/
def imageBytes : Nat := 2432

def State.ws (s : State) (c : CoreId) (b : BitVec 7) (off : Nat) : Word := s.rd64 (wsAddr c b off)
def State.setWs (s : State) (c : CoreId) (b : BitVec 7) (off : Nat) (w : Word) : State := s.wr64 (wsAddr c b off) w

/-- Read a general register: g0 reads 0 (R63, R120). -/
def State.gAt (s : State) (c : CoreId) (b : BitVec 7) (r : GReg) : Word := if r = 0 then 0 else s.ws c b (8 * r.toNat)

/-- Write a general register: a write to g0 is discarded (R63, R120). -/
def State.setGAt (s : State) (c : CoreId) (b : BitVec 7) (r : GReg) (w : Word) : State :=
  if r = 0 then s else s.setWs c b (8 * r.toNat) w

def State.hAt (s : State) (c : CoreId) (b : BitVec 7) (h : Handle) : Word := s.ws c b (128 + 8 * h.toNat)
def State.setHAt (s : State) (c : CoreId) (b : BitVec 7) (h : Handle) (w : Word) : State := s.setWs c b (128 + 8 * h.toNat) w
def State.pAt (s : State) (c : CoreId) (b : BitVec 7) (p : PReg) : Word := s.ws c b (256 + 8 * p.toNat)
def State.setPAt (s : State) (c : CoreId) (b : BitVec 7) (p : PReg) (w : Word) : State := s.setWs c b (256 + 8 * p.toNat) w

/-- Read a vector register as a 512-bit value (R124). -/
def State.vAt (s : State) (c : CoreId) (b : BitVec 7) (v : VReg) : Line :=
  BitVec.ofNat 512 (Mem.readN s.mem (wsAddr c b (offV + 64 * v.toNat)) 64)

/-- Write bytes from an address up: a granule that is written whole loses its poison (R158). -/
def State.writeRun (s : State) (a n v : Nat) : State :=
  { s with
    mem := Mem.writeN s.mem a n v
    poison := s.poison.filter fun g => !(decide (a ≤ 32 * g) && decide (32 * g + 32 ≤ a + n)) }

def State.setVAt (s : State) (c : CoreId) (b : BitVec 7) (v : VReg) (x : Line) : State :=
  s.writeRun (wsAddr c b (offV + 64 * v.toNat)) 64 x.toNat

/-- Write the bytes of a vector register that a mask selects. -/
def State.setVBytes (s : State) (c : CoreId) (b : BitVec 7) (v : VReg) (x : Line) (bm : BitVec 64) : State :=
  let a := wsAddr c b (offV + 64 * v.toNat)
  (List.range 2).foldl (fun (s : State) j =>
    let m := bm.extractLsb' (32 * j) 32
    let x := (x.extractLsb' (256 * j) 256).toNat
    if m == BitVec.allOnes 32 then s.writeRun (a + 32 * j) 32 x
    else { s with mem := (List.range 32).foldl (fun t i => if m.getLsbD i then Mem.write t (a + 32 * j + i) (BitVec.ofNat 8 (x / 256 ^ i)) else t) s.mem }) s

/-- The running task's registers. -/
def State.g (s : State) (r : GReg) : Word := s.gAt s.cur s.me.blk r
def State.setG (s : State) (r : GReg) (w : Word) : State := s.setGAt s.cur s.me.blk r w
def State.h (s : State) (h : Handle) : Word := s.hAt s.cur s.me.blk h
def State.setH (s : State) (h : Handle) (w : Word) : State := s.setHAt s.cur s.me.blk h w
def State.p (s : State) (p : PReg) : Word := s.pAt s.cur s.me.blk p
def State.setP (s : State) (p : PReg) (w : Word) : State := s.setPAt s.cur s.me.blk p w
def State.v (s : State) (v : VReg) : Line := s.vAt s.cur s.me.blk v
def State.wsW (s : State) (off : Nat) : Word := s.ws s.cur s.me.blk off
def State.setWsW (s : State) (off : Nat) (w : Word) : State := s.setWs s.cur s.me.blk off w

/-- Is the running task privileged (R125)? -/
def State.priv (s : State) : Bool := bit (s.wsW offTstat) 63

/-! ## SBRD (R121) -/

def State.setPend (s : State) (c : CoreId) (b : BitVec 7) (n : Nat) (on : Bool) : State :=
  s.setWs c b offSbrd (putField (s.ws c b offSbrd) n 1 (if on then 1 else 0))

/-- Mark a general register pending; bit 0 is always 0. -/
def State.pendG (s : State) (c : CoreId) (b : BitVec 7) (r : GReg) (on : Bool) : State :=
  if r = 0 then s else s.setPend c b r.toNat on

def State.pendP (s : State) (c : CoreId) (b : BitVec 7) (p : PReg) (on : Bool) : State := s.setPend c b (16 + p.toNat) on

/-! ## Partitions (R422) -/

/-- Is a slice's descriptor in force: its v is set, and the slice is the lowest that it names? -/
def inForce (x : Nat × Slice) : Bool :=
  bit (x.2.pdesc.getD 0 0) 63 && ((List.range 64).find? fun i => bit (x.2.pdesc.getD 1 0) i) == some x.1

/-- The descriptor of a partition in force. -/
def State.pdesc (s : State) (p : Pid) : Option (List Word) :=
  (s.slices.find? fun x => inForce x && field (x.2.pdesc.getD 0 0) 59 4 == p.toNat).map (·.2.pdesc)

/-- The partition's slices in ascending order (R177). -/
def State.partSlices (s : State) (p : Pid) : List Nat :=
  match s.pdesc p with
  | none => []
  | some d => (List.range 64).filter fun i => bit (d.getD 1 0) i

/-- The partition's lowest slice, whose service kernel serves it. -/
def State.kernel (s : State) (p : Pid) : Nat := (s.partSlices p).headD 0

/-- The mode bits of the partition: [0] translation miss, [1] page fault, [2] walk, [3] scrub, [4] placement, [5] quarantine. -/
def State.mode (s : State) (p : Pid) (n : Nat) : Bool :=
  match s.pdesc p with
  | none => false
  | some d => bit (d.getD 0 0) (53 + n)

/-- A core rectangle in a word: [63:58] x0, [57:53] y0, [52:47] x1, [46:42] y1 (R308, R422). -/
def rectOf (w : Word) : Rect :=
  ⟨BitVec.ofNat 6 (field w 58 6), BitVec.ofNat 5 (field w 53 5), BitVec.ofNat 6 (field w 47 6), BitVec.ofNat 5 (field w 42 5)⟩

/-- Is a core in the rectangle, both corners included? -/
def rectHas (r : Rect) (c : Nat) : Bool :=
  decide (r.x0.toNat ≤ coreX c) && decide (coreX c ≤ r.x1.toNat) && decide (r.y0.toNat ≤ coreY c) && decide (coreY c ≤ r.y1.toNat)

/-- The rectangles of a descriptor. -/
def descRects (d : List Word) : List Rect :=
  (List.range (field (d.getD 0 0) 50 3 + 1)).map fun i => rectOf (d.getD (4 + i) 0)

/-- The cores of a partition in index order. -/
def State.partCores (s : State) (p : Pid) : List Nat :=
  match s.pdesc p with
  | none => []
  | some d => (List.range 2048).filter fun c => (descRects d).any fun r => rectHas r c

def State.inPart (s : State) (p : Pid) (c : Nat) : Bool :=
  match s.pdesc p with
  | none => false
  | some d => decide (c < 2048) && (descRects d).any fun r => rectHas r c

/-- The home slice of a launch queue (R37, R422). -/
def State.queueHome (s : State) (p : Pid) (q : Nat) : Nat := field ((s.pdesc p).getD [] |>.getD 2 0) (6 * q) 6

/-- The copy slice of a die for a partition (R150, R422). -/
def State.copySlice (s : State) (p : Pid) (die : Nat) : Option Nat :=
  let w := (s.pdesc p).getD [] |>.getD 3 0
  if bit w (7 * die + 6) then some (field w (7 * die) 6) else none

/-- A SYS record to the service kernel of a partition. -/
def State.sysRec (s : State) (p : Pid) (ws : List Word) : State := s.sysAt (s.kernel p) ws

/-- The translation home of a space's address (R177). -/
def State.home (s : State) (p : Pid) (sid : Sid) (va : Nat) : Nat :=
  let h := sid.toNat ^^^ (va / 2 ^ 21 % 2 ^ 16) ^^^ (va / 2 ^ 37 % 2 ^ 16) ^^^ (va / 2 ^ 53 % 8)
  let l := s.partSlices p
  l.getD (h % l.length) 0

/-- What a request of a task carries (R23, R176, R197). -/
def State.whoAt (s : State) (c : CoreId) (h : Hidx) : Who :=
  let e := s.ent c h
  ⟨c, h, e.sid, (s.core c).part, e.lref, e.tix⟩

def State.who (s : State) : Who := s.whoAt s.cur s.myIdx

/-! ## What a head can meet before it has its effect -/

/-- Why a head does not have its effect in this step: a precise fault (R395), a fault held with a pending register (R275), a stall at
issue, parking (R167), or a part of its work that has to be answered first: the state in which the answer is awaited. -/
inductive Trap
  | fault (code : Code) (detail : BitVec 32) (faddr : Word)
  | held (f : HeldFault)
  | stall
  | park (b : BuoyId)
  | wait (t : State)
  deriving DecidableEq, Repr

abbrev Try (α : Type) := Except Trap α

/-! ### Fault codes (R392) -/

def cIllegalLine : Code := 1
def cIllegalOp : Code := 2
def cIllegalTarget : Code := 3
def cFormat : Code := 4
def cPtrOverflow : Code := 5
def cMisaligned : Code := 6
def cRangeLocked : Code := 7
def cBadHandle : Code := 8
def cBadDest : Code := 9
def cBadGang : Code := 10
def cBadBarrier : Code := 11
def cBadCopy : Code := 12
def cBadXfer : Code := 13
def cBadFactor : Code := 14
def cAccOwned : Code := 15
def cNotMapped : Code := 16
def cNoRight : Code := 17
def cPaFault : Code := 18
def cKeyEmpty : Code := 19
def cPoison : Code := 20
def cWpoison : Code := 21
def cWsprot : Code := 22
def cHosthomeLost : Code := 23
def cSingular : Code := 24
def cQuantum : Code := 25
def cTagfail : Code := 26
def cTrap : Code := 27
def cBkpt : Code := 28
def cGangStop : Code := 29
def cCapacity : Code := 30

/-- Raise a fault unless the check holds. -/
def must (p : Bool) (code : Code) (faddr : Word) (detail : BitVec 32 := 0) : Try Unit :=
  if p then .ok () else .error (.fault code detail faddr)

/-- Stall at issue unless the check holds. -/
def ready (p : Bool) : Try Unit := if p then .ok () else .error .stall

/-! ## The PC (R77) -/

/-- The index of a head in its line. -/
def pcIdx (pc : VA) : Nat := pc.toNat % 64 / 2

/-- The address of the line that holds a PC. -/
def pcLine (pc : VA) : VA := pc - BitVec.ofNat 56 (pc.toNat % 64)

/-- Head 1 of the line after the one that holds a PC. -/
def nextLine (pc : VA) : VA := pcLine pc + 66

/-- The PC of the next head in sequence, in a line with `n` heads. -/
def nextPc (pc : VA) (n : Nat) : VA := if pcIdx pc < n then pc + 2 else nextLine pc

def vaWord (a : VA) : Word := a.setWidth 64

/-- Count an event in the core's performance counters (R224): on a wrap the overflow bit is set. -/
def countIn (t : Tab Evc) (code : Nat) : Tab Evc :=
  t.map fun x => if x.2.ev.toNat = code then (x.1, { x.2 with cnt := x.2.cnt + 1, ovf := x.2.ovf || x.2.cnt == BitVec.allOnes 48 }) else x

def Core.count (k : Core) (code : Nat) : Core := { k with evc := countIn k.evc code }

/-- Count an event in the two counters of a half of MX, which it has in split mode (R224): cycles, issued heads and applied steps; the others are
events of the core (log 27). -/
def Core.countMx (k : Core) (rem : Bool) (code : Nat) : Core :=
  if k.mxs then { k with mxevc := k.mxevc.map fun x => if decide (2 ≤ x.1) == rem then (countIn [x] code).headD x else x } else k

/-- Counters after one step (R224): one that has counted its event more than once counts it once. -/
def countOnce (old new : Tab Evc) : Tab Evc :=
  new.map fun x =>
    let o := Tab.get .reset old x.1
    if 1 < (x.2.cnt - o.cnt).toNat then (x.1, { o with cnt := o.cnt + 1, ovf := o.ovf || o.cnt == BitVec.allOnes 48 }) else x

/-- Count an event of a slice (R224). -/
def State.countSlice (s : State) (sl code : Nat) : State := s.modSlice sl fun k => { k with sevc := countIn k.sevc code }

/-- A follower that executes what it had missed goes on to the first of those heads that is left, if one is (R400). -/
def Core.redoNext (k : Core) (h : Hidx) (x : Gang) : Core :=
  match x.missed with
  | (pc, l) :: _ => { k.setEnt h { k.ent h with gang := some { x with redo := true, todo := some pc } } with line := some l, pc := pc, hold := none }
  | [] => { k.setEnt h { k.ent h with gang := some { x with redo := false, todo := none } } with hold := none }

/-- A follower of a gang has executed the head it was given and waits for the next (R32), or goes on with what it had missed (R400). -/
def Core.given (k : Core) (h : Hidx) : Core :=
  match (k.ent h).gang with
  | some x => if x.redo then k.redoNext h { x with missed := x.missed.drop 1 }
    else { k.setEnt h { k.ent h with gang := some { x with todo := none } } with hold := none }
  | none => { k with hold := none }

/-- Go to the next head in sequence: at the end of the line the next line has still to be entered. `code` is the event that is counted (R224): a
scalar head, or an engine head. -/
def State.advanceAs (s : State) (code : Nat) : State :=
  let k := s.me.count code
  let n := (k.line.map headCount).getD 0
  let h := s.myIdx
  if (k.ent h).g then s.setCore s.cur (k.given h)
  else
    s.setCore s.cur { k with
      pc := nextPc k.pc n, hold := none, edge := .bound, ahead := none
      line := if pcIdx k.pc < n then k.line else none }

/-- Go on after a scalar head. -/
def State.advance (s : State) : State := s.advanceAs 2

/-- Go on after an engine head. -/
def State.advanceEng (s : State) : State := s.advanceAs 3

/-- Continue at a head of the same line, or of a line that has to be entered, as the transfer fetched it (R77 to R80). A taken branch to its own line does
not end that line: nothing is selected, and what the line's end brings still waits for it (DESIGN CHOICE, log 59). -/
def State.jump (s : State) (pc : VA) (ahead : Option Line) : State :=
  let k := s.me.count 2
  s.setCore s.cur (if pcLine pc = pcLine k.pc then { k with pc := pc, hold := none } else
    { k with pc := pc, hold := none, line := none, edge := if pcIdx pc = 1 then .bound else .jump, ahead := ahead })

/-- Continue at a saved PC, whose line is entered again (R77, R79, R317); a follower of a gang goes on to the heads that it had missed, and then to
those that it is given (R32, R59, R400). -/
def State.resume (s : State) (pc : VA) : State :=
  if s.myEnt.g then
    let k := s.me.count 2
    match s.myEnt.gang with
    | some x => s.setCore s.cur (k.redoNext s.myIdx x)
    | none => s.setCore s.cur { k with hold := none }
  else s.setCore s.cur { s.me.count 2 with pc := pc, hold := none, line := none, edge := .back, ahead := none }

/-! ## Run states (R125, R165) -/

/-- Write a run state into the entry and into TSTAT. -/
def State.setSt (s : State) (c : CoreId) (h : Hidx) (st : BitVec 3) : State :=
  let e := s.ent c h
  let s := s.modEnt c h fun e => { e with st := st }
  s.setWs c e.wpb offTstat (putField (s.ws c e.wpb offTstat) 0 3 st.toNat)

/-- The core stops executing its running task. -/
def State.leave (s : State) (c : CoreId) : State :=
  s.modCore c fun k => { k with run := none, line := none, edge := .bound, ahead := none, hold := none }

/-- TSTAT.pk and pbu at a switch-out: a parking writes both, any other clears pk (R125). -/
def State.markPark (s : State) (c : CoreId) (h : Hidx) (b : Option BuoyId) : State :=
  let w := (s.ent c h).wpb
  let t := s.ws c w offTstat
  s.setWs c w offTstat (match b with | some b => putField (putField t 15 1 1) 8 7 b.toNat | none => putField t 15 1 0)

/-- The task leaves the core with its PC in word 0 (R30, R118); TSTAT.pk tells a parking from every other switch-out of a task that runs (R125). -/
def State.switchOut (s : State) (c : CoreId) (h : Hidx) (st : BitVec 3) (pc : VA) : State :=
  let s := s.setSt c h st
  let s := if st = 2 ∨ (s.core c).run ≠ some h then s else s.markPark c h none
  let s := s.setWs c (s.ent c h).wpb 0 (vaWord pc)
  if (s.core c).run = some h then s.leave c else s

/-- The turn goes to the next core that the state lists. -/
def State.pass (s : State) : State :=
  let ks := s.cores.map (·.1)
  let n := ((ks.find? fun k => decide (s.cur.toNat < k)) <|> ks.head?).getD s.cur.toNat
  { s with cur := BitVec.ofNat 11 n }

/-! ## Buoys (R220) -/

def State.setBuoy (s : State) (c : CoreId) (b : BuoyId) (x : Buoy) : State :=
  s.modCore c fun k => { k with buoys := Tab.set k.buoys b.toNat x }

/-- The step that a core takes next. -/
def State.stepOf (s : State) (c : CoreId) (b : Option BuoyId) : Step := ⟨b, (s.core c).ids + 1⟩

/-- Take a step, for which something is owed; the caller knows that there is one. An access to a window takes none (R145). -/
def State.takeStep (s : State) (c : CoreId) (b : Option BuoyId) (o : Owed) : State :=
  let t := match b with
    | some y => let x := (s.core c).buoy y; s.setBuoy c y { x with val := x.val - 1 }
    | none => s
  t.modCore c fun k => { k with owed := k.owed ++ [(s.stepOf c b, o)], ids := k.ids + 1 }

/-- Take a step off the list of what is owed; none when it is not there: what it answers was answered before (R412). -/
def dropOwed (b : Step) : List (Step × Owed) → Option (List (Step × Owed))
  | [] => none
  | x :: r => if x.1 = b then some r else (dropOwed b r).map (x :: ·)

/-- A head that needs a step: it parks at a buoy that stands at 0 (R167). -/
def State.needStep (s : State) (b : BuoyId) (o : Owed) : Try (State × Step) :=
  if (s.me.buoy b).val = 0 then .error (.park b) else .ok (s.takeStep s.cur (some b) o, s.stepOf s.cur (some b))

/-- Can a request leave: has its buoy a step (R26)? -/
def Core.hasStep (k : Core) (b : Option Step) : Bool := match b.bind (·.b) with | some x => decide (0 < (k.buoy x).val) | none => true

/-- The entry that something owed belongs to, when its end waits for it (R165); what the remote half of MX is owed belongs to none. -/
def Owed.hidx : Owed → Option Hidx
  | .mem x | .arrive _ x => if x.ret = .mxLine true then none else some x.hidx
  | .space h r _ => if r = .mxLine true then none else some h
  | .task h => some h
  | .post _ _ | .other => none

/-- The buoy after a reply, but for the recovery that the 256th unmarked reply brings in a step of its own. -/
def Buoy.onReply (b : Buoy) (marked : Bool) : Buoy :=
  let b' : Buoy :=
    if marked then { b with ceil := max 1 (b.ceil - (b.ceil + 7) / 8), unm := 0 }
    else if b.unm = 255 then b
    else { b with unm := b.unm + 1 }
  { b' with val := min (b'.val + 1) b'.ceil }

/-- The 256th unmarked reply raises the ceiling and adds the recovery step (R220). -/
def Buoy.recover (b : Buoy) : Buoy :=
  let c := min 63 (b.ceil + 1)
  ⟨min (b.val + 1) c, c, 0⟩

/-- The entries of a core in index order. -/
def allIdx : List Hidx := (List.range 64).map (BitVec.ofNat 6)

/-! ## Waiting members (R208) -/

/-- Does an entry hold a request marked for resend? -/
def Core.holdsMarked (k : Core) (h : Hidx) : Bool :=
  k.srb.any (fun x => x.req.who.hidx == h && x.marked) || k.emark.any fun r => r.who.hidx == h && r.ret != .mxLine true

/-- The same for a member: a remote command's request counts for the task that sent the command (R207, R360). -/
def State.holdsMarked (s : State) (c : CoreId) (h : Hidx) : Bool :=
  (s.core c).holdsMarked h || s.cores.any fun k => k.2.emark.any (fun r => r.ret == .mxLine true) && (match k.2.mxrq with
    | x :: _ => x.who.core == c && x.who.hidx == h
    | [] => false)

/-- Report a change of a member's waiting, and of its holding a marked request while it waits, both in one message. -/
def State.noteWait (s : State) (c : CoreId) (h : Hidx) (w : Bool) : State :=
  let e := s.ent c h
  let m : Bool := w && s.holdsMarked c h
  if e.wait = (w, m) then s
  else
    (s.emit (.waitingReport c e.lref (if e.wait.1 = w then none else some w) (if e.wait.2 = m then none else some m))).modEnt c h
      fun e => { e with wait := (w, m) }

/-- Report a member's waiting as it now stands: a parked member waits while it holds a marked request. -/
def State.refreshWait (s : State) (c : CoreId) (h : Hidx) : State :=
  let e := s.ent c h
  s.noteWait c h (if e.st = 2 then s.holdsMarked c h else e.wait.1)

/-! ## Gangs (R174) -/

/-- Is the entry a member of a gang that has started (R174)? -/
def Entry.ganged (e : Entry) : Bool := match e.gang with | some x => x.formed | none => false

/-- The core of a gang's member at a distance from the leader (R32, R313). -/
def Gang.coreAt (g : Gang) (d : Nat) : CoreId := g.lead + BitVec.ofNat 11 (if g.dir then 64 * d else d)

/-- The followers of a gang that are still in it: one that has ended for itself (R126, R199) is not. -/
def State.joinedOf (s : State) (x : Gang) : List (Nat × Hidx) :=
  x.joined.filter fun m =>
    let e := s.ent (x.coreAt m.1) m.2
    e.v && e.st != 5 && e.g && (match e.gang with | some y => y.lead == x.lead && y.pos.toNat == m.1 | none => false)

/-- When the leader's entry leaves state 0, every follower entry takes its new state and returns its core to its own selection (R174); one that parks so, or
is released, reports it (R208). -/
def State.gangSwitch (s : State) (c : CoreId) (h : Hidx) (st : BitVec 3) : State :=
  let e := s.ent c h
  match e.gang with
  | some x =>
    if e.g || !x.formed then s
    else (s.joinedOf x).foldl (fun s m =>
      let c' := x.coreAt m.1
      let s := s.setSt c' m.2 st
      let s := s.markPark c' m.2 (if st = 2 then some e.pbu else none)
      let s := if st = 2 then (s.modEnt c' m.2 fun y => { y with pbu := e.pbu }).refreshWait c' m.2 else if st = 1 then s.noteWait c' m.2 false else s
      if (s.core c').run = some m.2 then s.leave c' else s) s
  | none => s

/-- The entry of the leader whose gang an entry has joined as a follower, at a position. -/
def Core.leads (k : Core) (pos : Nat) (h : Hidx) : Option Hidx :=
  allIdx.find? fun i =>
    let e := k.ent i
    e.v && !e.g && (match e.gang with | some y => y.joined.contains (pos, h) | none => false)

/-- The core and entry of a gang's leader. -/
def State.gangLead (s : State) (c : CoreId) (h : Hidx) : CoreId × Hidx :=
  let e := s.ent c h
  match e.gang with
  | some x => if e.g then (x.lead, ((s.core x.lead).leads x.pos.toNat h).getD 0) else (c, h)
  | none => (c, h)

/-- The members of a gang, the leader first: distance, core and entry. -/
def State.gangMembers (s : State) (c : CoreId) (h : Hidx) : List (Nat × CoreId × Hidx) :=
  let l := s.gangLead c h
  match (s.ent l.1 l.2).gang with
  | some x => (0, l.1, l.2) :: (s.joinedOf x).map fun m => (m.1, x.coreAt m.1, m.2)
  | none => [(0, c, h)]

/-! ## Release of parked tasks -/

/-- Release the tasks parked on a buoy that stands at min(4, ceil) or above (R167), a leader's followers with it (R174). -/
def State.release (s : State) (c : CoreId) (b : BuoyId) : State :=
  let x := (s.core c).buoy b
  if x.val < min 4 x.ceil then s
  else
    allIdx.foldl (fun s h =>
      let e := s.ent c h
      if e.v && e.st == 2 && !e.g && e.pbu == b then ((s.setSt c h 1).gangSwitch c h 1).noteWait c h false else s) s

/-- A step returns with a reply; completions that wait for the step are posted (R305). -/
def State.giveStep (s : State) (c : CoreId) (b : BuoyId) (marked : Bool) : State :=
  let x := (s.core c).buoy b
  let s := (s.setBuoy c b (x.onReply marked)).release c b
  if !marked && x.unm == 255 then s.emit (.ceilingRecovery c b) else s

/-- A step that was taken and not used goes back at once: that of a VST which leaves the VX queue without effect (R194) before its first request is sent
(DESIGN CHOICE, log 60). -/
def State.undoStep (s : State) (c : CoreId) (b : Step) : State :=
  match dropOwed b (s.core c).owed with
  | some l =>
    let s := s.modCore c fun k => { k with owed := l }
    match b.b with
    | some y => let x := (s.core c).buoy y; (s.setBuoy c y { x with val := min (x.val + 1) x.ceil }).release c y
    | none => s
  | none => s

/-! ## The end of a task (R305) -/

/-- The slice of an object reference (R211). -/
def objSlice (l : ObjRef) : Nat := l.toNat / 2 ^ 26

/-- Post a task's completion with a step from the buoy of the object's slice, or hold it until there is one (R26, R305). -/
def State.postCompletion (s : State) (c : CoreId) (h : Hidx) (st : MStat) : State :=
  let l := (s.ent c h).lref
  let b : BuoyId := BitVec.ofNat 7 (objSlice l)
  if ((s.core c).buoy b).val = 0 then s.modEnt c h fun e => { e with post := some st }
  else ((s.takeStep c (some b) (.post l st)).modEnt c h fun e => { e with post := none }).emit (.completionPost l st (some (c, s.stepOf c (some b))))

/-- Everything in flight that still belongs to an entry: engine heads, transfers, loads, stores, DECRs, and every reply that is owed to it (R165). -/
def Core.busy (k : Core) (h : Hidx) : Bool :=
  k.mxq.any (fun x => x.hidx == h) || k.vxq.any (fun x => x.hidx == h) || (k.cxq ++ k.fifo).any (fun x => x.hidx == h)
    || k.xfers.any (fun x => x.req.hidx == h) || k.loads.any (fun x => x.hidx == h)
    || k.srb.any (fun x => x.req.who.hidx == h) || k.late.any (fun l => l.any fun x => x.who.hidx == h) || k.emark.any (fun x => x.who.hidx == h && x.ret != .mxLine true)
    || k.decrs.any (fun x => x.1 == h) || k.owed.any fun x => x.2.hidx == some h

/-- Free an entry in state 5 whose heads and replies have completed (R165): its records go, its channels lose their handler, its blocks
return, and placement may go on (R310). -/
def State.tryFree (s : State) (c : CoreId) (h : Hidx) : State :=
  let k := s.core c
  let e := k.ent h
  if e.v && e.st == 5 && e.post.isNone && !k.busy h && k.run != some h then
    let k := { k.setEnt h .reset with
      sfq := k.sfq.filter fun r => r.hidx != h
      chans := k.chans.map fun x => if x.2.bh && x.2.hidx == h then (x.1, { x.2 with bh := false, hidx := 0 }) else x }
    (s.setCore c k).emit (.placement k.part)
  else s

/-- Give up the accumulators of an entry, and the operands that a faulted MX head of it keeps (R139, R141, R191): its mooring entries go now, but for those of
a head that is queued again, which go with that head. -/
def Core.dropAccs (k : Core) (h : Hidx) : Core :=
  let mine (a : AReg) : Bool := (k.acc a).own == .task h
  let kill : Bool := k.mxprog.mv && mine k.mxprog.acc
  let queued (i : Nat) : Bool := k.mxq.any fun x => x.moor.contains i
  let locked : List Nat := if kill then ((k.mxprog.item.map (·.moor)).getD []).filter (!queued ·) else []
  { k with
    mxprog := if kill then { k.mxprog with mv := false, item := none } else k.mxprog
    moor := locked.foldl (fun t i => Tab.set t i .reset) k.moor
    accs := k.accs.map fun x => if x.2.own == .task h then (x.1, { x.2 with own := .none }) else x }

/-- The three words of a store-fault record (R197). -/
def sfqWords (r : SfqRec) : List Word :=
  [putField (putField (putField (putField (putField 0 63 1 1) 60 3 r.kind.toNat) 54 6 r.hidx.toNat) 42 12 r.sid.toNat) 26 16 r.code.toNat,
    r.fva, putField (r.lref.setWidth 64 <<< 32) 16 16 r.tix.toNat]

/-- The words of a CX error record as a SYS record carries them (R382). -/
def cxErrWords (r : CxErr) : List Word :=
  [6, putField (putField (putField (putField (putField 0 63 1 1) 61 2 r.cch.toNat) 55 6 r.hidx.toNat) 39 16 r.code.toNat) 0 32 r.id.toNat, r.fva]

/-- The words of an engine fault as a SYS record carries them (R396). -/
def engWords (f : EngFault) : List Word := [8, putField (putField 0 0 16 f.code.toNat) 16 5 f.head.toNat, f.detail.setWidth 64, f.faddr, vaWord f.pc]

/-- The undelivered records, engine faults and held faults of an entry, as SYS records to the service kernel (R305). -/
def State.sendRecords (s : State) (c : CoreId) (h : Hidx) : State :=
  let k := s.core c
  let e := k.ent h
  let s := (k.sfq.filter fun r => r.hidx == h).foldl (fun s r =>
    s.sysRec k.part (5 :: sfqWords r)) s
  let s := (k.cxerr.filter fun r => r.hidx == h).foldl (fun s r =>
    s.sysRec k.part (cxErrWords r)) s
  let s := e.engf.foldl (fun s f => s.sysRec k.part (engWords f)) s
  let s := e.held.foldl (fun s f => s.sysRec k.part [7, putField 0 0 16 f.code.toNat, f.faddr]) s
  s.modCore c fun k => { k with
    sfq := k.sfq.filter fun r => r.hidx != h
    cxerr := k.cxerr.filter fun r => r.hidx != h }

/-- A VLD that waits for its operand when its task is terminated is never queued: its mooring entry goes (R191). -/
def State.dropVldClaim (s : State) (c : CoreId) (h : Hidx) : State :=
  match (s.core c).run, (s.core c).hold with
  | some r, some ⟨6, ws, _⟩ => if r = h then s.modCore c fun k => { k with moor := Tab.set k.moor (ws.getD 1 0).toNat .reset } else s
  | _, _ => s

/-- A task ends: its records go to the kernel, its completion is posted, its accumulators are given up, and the entry takes state 5 and
is freed when nothing of it is in flight (R305). The followers of a leader that ends while it runs leave their cores (log 34). -/
def State.finishTask (s : State) (c : CoreId) (h : Hidx) (st : MStat) : State :=
  let s := (s.sendRecords c h).noteWait c h false
  let s := s.dropVldClaim c h
  let s := if (s.ent c h).st = 0 then s.gangSwitch c h 1 else s
  let s := if (s.core c).run = some h then s.leave c else s
  let s := s.setSt c h 5
  let s := s.modEnt c h fun e => { e with
    held := [], engf := [], bar := .reset, copy := ⟨false, 0, 0⟩, kill := none, qover := none, ends := [], kept := [], fences := [] }
  let s := s.postCompletion c h st
  let t := s.modCore c fun k => k.dropAccs h
  let t := if (s.core c).mxprog.mv && !(t.core c).mxprog.mv then t.emit (.mxHeadStart c false) else t
  t.tryFree c h

/-- Post the completions that wait for a buoy's step (R305, R412). -/
def State.postWaiting (s : State) (c : CoreId) (b : BuoyId) : State :=
  allIdx.foldl (fun s h =>
    let e := s.ent c h
    match e.post with
    | some st => if e.v && objSlice e.lref == b.toNat then (s.postCompletion c h st).tryFree c h else s
    | none => s) s

/-! ## Taking a fault (R395) -/

/-- FSTAT of a delivered fault (R126). -/
def fstatWord (prc : Bool) (code : Code) (head : Nat) (detail : BitVec 32) : Word :=
  BitVec.ofNat 64 (2 ^ 63 + (if prc then 2 ^ 62 else 0) + code.toNat * 2 ^ 40 + head % 32 * 2 ^ 35 + detail.toNat)

/-- Terminate a task with status FAULT, with a SYS record to the service kernel (R126, R305). -/
def State.terminate (s : State) (c : CoreId) (h : Hidx) (st : MStat) : State :=
  (s.sysRec (s.core c).part [1, putField 0 0 16 c.toNat, putField 0 0 16 h.toNat]).finishTask c h st

/-- Deliver a fault or trap to a task (R395), whose wait is over (R208): a second fault in service terminates it; otherwise FSTAT, FADDR and the fault record are
written, what waits for the end of the task's line is put by until RFT, and the task is made runnable at its fault entry. -/
def State.deliver (s : State) (c : CoreId) (h : Hidx) (code : Code) (prc : Bool) (head : Nat) (detail : BitVec 32) (faddr : Word)
    (rpc epc : VA) : State :=
  let s := s.noteWait c h false
  let e := s.ent c h
  if bit (s.ws c e.wpb offFstat) 63 then s.terminate c h .fault
  else
    let s := s.setWs c e.wpb offFstat (fstatWord prc code head detail)
    let s := s.setWs c e.wpb offFaddr faddr
    let s := s.modEnt c h fun e => { e with rpc := rpc, epc := epc, kept := e.ends, ends := [] }
    s.switchOut c h 1 e.fvec

/-- RFT (R317, R397): fault service ends and execution continues at the saved PC, with what was put by. -/
def State.rft (s : State) : State :=
  let s := s.setWsW offFstat (putField (s.wsW offFstat) 63 1 0)
  let s := s.modEnt s.cur s.myIdx fun e => { e with ends := e.ends ++ e.kept, kept := [] }
  s.resume s.myEnt.rpc

/-- A member stops at a head; what it was given and has not executed it has missed, and so has what it had still to execute of what it missed (R400). -/
def Entry.stopGiven (e : Entry) (l : Line) : Entry :=
  { e with gang := e.gang.map fun x =>
      if x.flt.isSome || x.stopAt.isSome then { x with todo := none }
      else match x.todo with
        | some pc => { x with stopAt := some pc, todo := none, redo := false, missed := if x.redo then x.missed else [(pc, l)] }
        | none => x }

/-- A member that has not been given a head stops before it; it has missed the heads `l` (R400). -/
def Entry.stopBefore (e : Entry) (at_ : VA) (l : List (VA × Line)) : Entry :=
  { e with gang := e.gang.map fun x =>
      if x.flt.isSome || x.stopAt.isSome then x else { x with stopAt := some at_, missed := l } }

/-- The heads of a line from a PC to its end, with their line. -/
def headsFrom (l : Line) (pc : VA) : List (VA × Line) :=
  ((List.range (headCount l + 1)).filter fun i => decide (pcIdx pc ≤ i)).map fun i => (pcLine pc + BitVec.ofNat 56 (2 * i), l)

/-- The members of a gang behind the running one stop at its head (R400). Behind the leader, which has not given it on, they have missed the heads
`left`; behind a follower they have missed it, and what the leader goes on to. -/
def State.stopBehind (s : State) (left : List (VA × Line)) : State :=
  let at_ := s.me.pc
  let l := s.me.line.getD 0
  let lead : Bool := !s.myEnt.g
  let pos : Nat := (s.myEnt.gang.map fun x => x.pos.toNat).getD 0
  (s.gangMembers s.cur s.myIdx).foldl (fun (s : State) m =>
    if decide (pos < m.1) then s.modEnt m.2.1 m.2.2 fun e => if lead then e.stopBefore at_ left else e.stopGiven l
    else s) s

/-- A member of a gang executes no further head of its line: the leader has reached the line boundary (R33, R400). -/
def State.quitLine (s : State) : State :=
  if s.myEnt.g then s
  else s.modCore s.cur fun k => { k with pc := nextLine k.pc, line := none, edge := .bound, ahead := none }

/-- A member of a formed gang takes a fault of its own data at its head: it keeps the fault to the line boundary, its heads to the end of the
line have no effect, and the members behind it stop at that head (R400). Behind a leader that faults they execute the line from that head on after
their RFT, in which no transfer is taken, since the leader takes none there (log 34). -/
def State.gangFault (s : State) (f : EngFault) : State :=
  let t := s.stopBehind (headsFrom (s.me.line.getD 0) s.me.pc)
  ((t.modEnt s.cur s.myIdx fun e =>
    { e with gang := e.gang.map fun x => { x with flt := some (x.flt.getD f), todo := none, redo := false, missed := [] } }).modCore s.cur
    fun k => { k with hold := none }).quitLine

/-- A member of a formed gang finds a record at its DRAINST, which is delivered at the line boundary: the member stops before its next head, and
the members behind it at the DRAINST (R56, R400). -/
def State.gangDrain (s : State) (next : VA) : State :=
  let t := s.stopBehind [(s.me.pc, s.me.line.getD 0)]
  ((t.modEnt s.cur s.myIdx fun e => { e with gang := e.gang.map fun x =>
      { x with drain := true, stopAt := some (if x.redo then (((x.missed.drop 1).head?.map (·.1)).getD next) else next), todo := none, redo := false
               missed := if x.redo then x.missed.drop 1 else [] } }).modCore s.cur fun k => { k with hold := none }).quitLine

/-- A member of a formed gang has an engine fault to take before its head, at the line boundary: the member and those behind it stop there
(R396, R400). -/
def State.gangHalt (s : State) : State :=
  let t := s.stopBehind []
  ((t.modEnt s.cur s.myIdx fun e => if e.g then e.stopGiven (s.me.line.getD 0) else e.stopBefore s.me.pc []).modCore s.cur
    fun k => { k with hold := none }).quitLine

/-- A precise fault of the running task at its head (R395, R400). -/
def State.faultHere (s : State) (code : Code) (detail : BitVec 32) (faddr : Word) (epc : VA) : State :=
  let k := s.me
  if s.myEnt.ganged then s.gangFault ⟨.mx, code, BitVec.ofNat 5 (pcIdx k.pc), detail, faddr, epc, false⟩
  else s.deliver s.cur s.myIdx code true (pcIdx k.pc) detail faddr k.pc epc

/-- Deliver the oldest record of an entry; `pc` is the PC reached (R198, R395). -/
def State.deliverSfq (s : State) (c : CoreId) (h : Hidx) (pc : VA) : State :=
  match (s.core c).sfq.find? fun r => r.hidx == h with
  | some r =>
    let s := s.modCore c fun k => { k with sfq := k.sfq.erase r }
    let n := ((s.core c).sfq.filter fun r => r.hidx == h).length
    s.deliver c h r.code false 0 (BitVec.ofNat 32 n) r.fva pc 0
  | none => s

/-- What a gang's line left with a member is over once the member is in fault service; what it missed it executes after that (R400). -/
def Entry.lineOver (e : Entry) : Entry := { e with gang := e.gang.map fun x => { x with flt := none, drain := false, stopAt := none, todo := none } }

/-- A fault that the leader of a gang decides: every member takes it at the same head (R400), but one that has a fault of its own, or a record that its
DRAINST found, in this line takes that (log 34); one that had stopped resumes where it stopped. -/
def State.faultAll (s : State) (code : Code) (detail : BitVec 32) (faddr : Word) : State :=
  let pc := s.me.pc
  if s.myEnt.ganged then
    (s.gangMembers s.cur s.myIdx).foldl (fun (s : State) m =>
      let c := m.2.1
      let h := m.2.2
      let g := (s.ent c h).gang
      let at_ := (g.bind (·.stopAt)).getD pc
      (match g.bind (·.flt) with
        | some f => s.deliver c h f.code true f.head.toNat f.detail f.faddr at_ f.pc
        | none => if (match g with | some x => x.drain | none => false) then s.deliverSfq c h at_ else s.deliver c h code true (pcIdx pc) detail faddr at_ pc).modEnt c h
          Entry.lineOver) s
  else s.faultHere code detail faddr pc

/-- Fetch and decode faults, and those of a branch target, are the leader's (R92, R267, R400). -/
def byLeader (code : Code) (detail : BitVec 32) : Bool :=
  code == cIllegalLine || code == cIllegalOp || code == cIllegalTarget
    || (detail == 0x80000000 && decide (16 ≤ code.toNat) && decide (code.toNat ≤ 23))

/-- The task parks before its head (R167); a follower of a gang stalls there instead (R33). -/
def State.park (s : State) (b : BuoyId) : State :=
  let h := s.myIdx
  let k := s.me.count 6
  let s := s.setCore s.cur k
  let s := s.modEnt s.cur h fun e => { e with pbu := b }
  let s := s.markPark s.cur h (some b)
  ((s.switchOut s.cur h 2 k.pc).gangSwitch s.cur h 2).refreshWait s.cur h

/-- A stall at issue: another core has its turn (R224 code 9). -/
def State.stall (s : State) : State := (s.modCore s.cur fun k => k.count 9).pass

/-- What a trap does to the state in which the head was to issue; FADDR of ILLEGAL_OP is the head's own PC (R92). -/
def trapState (s : State) : Trap → State
  | .fault code detail faddr =>
    let faddr := if code = cIllegalOp then vaWord s.me.pc else faddr
    if byLeader code detail then s.faultAll code detail faddr else s.faultHere code detail faddr s.me.pc
  | .held f =>
    let s := s.pendG s.cur s.me.blk f.reg false
    let s := s.modEnt s.cur s.myIdx fun e => { e with held := e.held.filter fun x => x.reg != f.reg }
    s.faultHere f.code (BitVec.ofNat 32 f.head.toNat) f.faddr f.pc
  | .stall => s.stall
  | .park b => if s.myEnt.g then s.stall else s.park b
  | .wait t => t

/-- The outcome of a head: its effect, or what its trap does. -/
def finish (s : State) (r : Try State) : Host.Outcome State Fault Refusal :=
  match r with
  | .ok t => .next t
  | .error t => .next (trapState s t)

end Sys2Proof.Machine
end

