-- ==== Sys2Proof/Machine/Gcm.lean ====
section
/-! DEFINITION. AES-256 in GCM (R380), as the standard that the rule names defines it, over bytes. -/

namespace Sys2Proof.Machine

/-- Multiply by x in the field of AES. -/
def xtime (b : Byte) : Byte := if b.getLsbD 7 then (b <<< 1) ^^^ 0x1B else b <<< 1

/-- The product in the field of AES, over the bits of `b` from bit `n - 1` down. -/
def gmulBits (a b : Byte) : Nat → Byte
  | 0 => 0
  | n + 1 => (if b.getLsbD (7 - n) then (List.range (7 - n)).foldl (fun x _ => xtime x) a else 0) ^^^ gmulBits a b n

def gmul8 (a b : Byte) : Byte := gmulBits a b 8

/-- The inverse in the field: the 254th power. -/
def ginv8 (a : Byte) : Byte :=
  let sq (x : Byte) : Byte := gmul8 x x
  let a2 := sq a
  let a3 := gmul8 a2 a
  let a6 := sq a3
  let a7 := gmul8 a6 a
  let a14 := sq a7
  let a15 := gmul8 a14 a
  let a30 := sq a15
  let a31 := gmul8 a30 a
  let a62 := sq a31
  let a63 := gmul8 a62 a
  let a126 := sq a63
  let a127 := gmul8 a126 a
  sq a127

/-- The substitution of AES. -/
def sbox (a : Byte) : Byte :=
  let b := ginv8 a
  b ^^^ b.rotateLeft 1 ^^^ b.rotateLeft 2 ^^^ b.rotateLeft 3 ^^^ b.rotateLeft 4 ^^^ 0x63

/-- A word of the key schedule: four bytes. -/
abbrev KWord := List Byte

def xorBytes (a b : List Byte) : List Byte := a.zipWith (· ^^^ ·) b

/-- The key schedule of a 256-bit key: the words so far, newest first, extended `n` times; `i` is the next index. -/
def keyWords : Nat → Nat → Byte → List KWord → List KWord
  | 0, _, _, ws => ws
  | n + 1, i, rc, ws =>
    let t := ws.headD []
    let old := ws.getD 7 []
    let t' := if i % 8 = 0 then
        (match t with
        | [a, b, c, d] => [sbox b ^^^ rc, sbox c, sbox d, sbox a]
        | l => l)
      else if i % 8 = 4 then t.map sbox
      else t
    keyWords n (i + 1) (if i % 8 = 0 then xtime rc else rc) (xorBytes old t' :: ws)

/-- Group a list of bytes into words of four. -/
def chunk4 : List Byte → List KWord
  | a :: b :: c :: d :: r => [a, b, c, d] :: chunk4 r
  | _ => []

/-- The fifteen round keys of a key of 32 bytes. -/
def roundKeys (key : List Byte) : List (List Byte) :=
  let ws := (keyWords 52 8 1 (chunk4 key).reverse).reverse
  (List.range 15).map fun r => ((ws.drop (4 * r)).take 4).flatten

/-- The rows shifted: byte `i` of the result. -/
def shiftRows (s : List Byte) : List Byte := (List.range 16).map fun i => s.getD ((i + 4 * (i % 4)) % 16) 0

/-- One column mixed. -/
def mixCol : KWord → KWord
  | [a, b, c, d] =>
    [xtime a ^^^ (xtime b ^^^ b) ^^^ c ^^^ d, a ^^^ xtime b ^^^ (xtime c ^^^ c) ^^^ d,
      a ^^^ b ^^^ xtime c ^^^ (xtime d ^^^ d), (xtime a ^^^ a) ^^^ b ^^^ c ^^^ xtime d]
  | l => l

/-- The rounds with the keys that are left; the last one mixes no columns. -/
def aesRounds : List (List Byte) → List Byte → List Byte
  | [], s => s
  | [k], s => xorBytes (shiftRows (s.map sbox)) k
  | k :: ks, s => aesRounds ks (xorBytes ((chunk4 (shiftRows (s.map sbox))).flatMap mixCol) k)

/-- Encrypt a block of 16 bytes. -/
def aesBlock (rks : List (List Byte)) (b : List Byte) : List Byte := aesRounds (rks.drop 1) (xorBytes b (rks.headD []))

/-- Sixteen bytes as a number, the first most significant. -/
def beNat (b : List Byte) : Nat := b.foldl (fun a x => a * 256 + x.toNat) 0

/-- A number as `n` bytes, the most significant first. -/
def beBytes (n v : Nat) : List Byte := (List.range n).map fun i => BitVec.ofNat 8 (v / 256 ^ (n - 1 - i))

/-- The product in the field of GCM: `i` bits of `x` are left, the highest first. -/
def ghMulBits (x : BitVec 128) : Nat → BitVec 128 → BitVec 128 → BitVec 128
  | 0, _, z => z
  | i + 1, v, z =>
    ghMulBits x i (if v.getLsbD 0 then (v >>> 1) ^^^ 0xE1000000000000000000000000000000 else v >>> 1) (if x.getLsbD i then z ^^^ v else z)

def ghMul (x y : BitVec 128) : BitVec 128 := ghMulBits x 128 y 0

/-- Add one block to the hash. -/
def ghStep (h a : BitVec 128) (b : List Byte) : BitVec 128 := ghMul (a ^^^ BitVec.ofNat 128 (beNat (b ++ List.replicate (16 - b.length) 0))) h

/-- A key stream's block `n` after the counter block of the IV (R380): block 0 masks the tag. -/
def gcmBlock (rks : List (List Byte)) (iv : List Byte) (n : Nat) : List Byte := aesBlock rks (iv ++ beBytes 4 ((1 + n) % 2 ^ 32))

/-- The hash key. -/
def gcmH (rks : List (List Byte)) : BitVec 128 := BitVec.ofNat 128 (beNat (aesBlock rks (List.replicate 16 0)))

/-- The hash of the additional data, of at most one block (R380). -/
def gcmStart (rks : List (List Byte)) (aad : List Byte) : BitVec 128 := if aad.isEmpty then 0 else ghStep (gcmH rks) 0 aad

/-- The bytes from offset `pos` of a message xored with the key stream. -/
def gcmXor (rks : List (List Byte)) (iv : List Byte) (pos : Nat) (bs : List Byte) : List Byte :=
  let first := pos / 16
  let ks := (List.range ((pos + bs.length + 15) / 16 - first)).flatMap fun i => gcmBlock rks iv (first + i + 1)
  xorBytes bs (ks.drop (pos % 16))

/-- Hash further ciphertext: the hash so far and the bytes that do not yet fill a block. -/
def gcmMore (h : BitVec 128) : Nat → BitVec 128 × List Byte → BitVec 128 × List Byte
  | 0, x => x
  | fuel + 1, (a, bs) => if bs.length < 16 then (a, bs) else gcmMore h fuel (ghStep h a (bs.take 16), bs.drop 16)

/-- The tag of a message, from the hash so far and the last partial block (R380). -/
def gcmTag (rks : List (List Byte)) (iv : List Byte) (aadLen len : Nat) (x : BitVec 128 × List Byte) : List Byte :=
  let h := gcmH rks
  let a := if x.2.isEmpty then x.1 else ghStep h x.1 x.2
  let a := ghStep h a (beBytes 8 (8 * aadLen) ++ beBytes 8 (8 * len))
  xorBytes (beBytes 16 a.toNat) (gcmBlock rks iv 0)

end Sys2Proof.Machine
end

