-- ==== Sys2Proof/Config.lean ====
section
/-! DEFINITION. What the spec leaves open, as constants without a body: nothing can be proved of their values. A value that may differ from
one use to the next takes the state's counter `free` as its first argument. -/

namespace Sys2Proof.Config

/-- The scale-up port that leads to a device; the fabric behind the ports is not part of the spec (R413, R417). -/
opaque portOf : BitVec 10 → Fin 24

/-- The bank and granule at which a slice begins its search for a new counter object: "The rule of that choice is not published" (R309). -/
opaque objectPlace : Nat → BitVec 26

/-- The last granule index of the kernel's object area of a bank, whose size the spec does not give (R211). -/
opaque objectArea : Nat → BitVec 22

/-- The core that a service kernel chooses among those that can take a task, in host-assisted placement (R310). -/
opaque placeChoice : Nat → Nat

/-- The entry of a full ATC that its pseudo-LRU gives up, whose state the spec does not describe (R182). -/
opaque atcVictim : Nat → Nat

/-- The fields of a SYS record's header that the spec does not give: the sub-code, and the length of some packets (R23, R44; log 9). -/
opaque sysField : Nat → Word

/-- The device's random source (R428). -/
opaque random : Nat → Word

/-- A byte of a signature made with a device key, by place (R431, R432). -/
opaque signature : Nat → Nat → Byte

/-- The key that a base die draws afresh for a swap-out (R152). -/
opaque imageKey : Nat → BitVec 256

/-- The SHA-384 value of the boot ROM, which the spec does not list (R432). -/
opaque bootRom : BitVec 384

/-- The SHA-384 value of the firmware images of the slices in slice order, by the version that each runs; the spec lists no image (R431, R432). -/
opaque firmware : List (BitVec 32) → BitVec 384

/-- The half of a message on a link that the host or a fabric endpoint makes: keys agreed over SPDM (R414, R419, R423). -/
opaque sessionKey : Nat → BitVec 256

end Sys2Proof.Config
end

