-- ==== Sys2Proof/Machine/Receive.lean ====
section
/-! DEFINITION. The receive engine's part in channels (R28, R168 to R171, R204): writing a packet into its ring, waking the bound handler,
and consuming words (R49, R170). -/

namespace Sys2Proof.Machine

/-! ## Sealed ranges (R381) -/

/-- The region of a PA (R142). -/
def paRegion (a : Nat) : Nat := a / 2 ^ 53

/-- The bits of an address within a page (R178). -/
def pageShift (psz : BitVec 3) : Nat :=
  match psz.toNat with
  | 0 => 12
  | 1 => 16
  | 2 => 21
  | 3 => 26
  | _ => 30

/-- The bits of a rights field (R178). -/
def rRead : Nat := 3
def rWrite : Nat := 2
def rExec : Nat := 1

/-- Where a decrypt-in's destination lies in the issuing core's own scratchpad, as the records of its space have it: first byte and length (R381). -/
def State.destRanges (s : State) (c : CoreId) (q : CxReq) : List (Nat × Nat) :=
  let lo := field q.w2 0 56
  let hi := lo + field q.w0 0 32
  s.recs.filterMap fun x =>
    let v := x.2.vpn.toNat * 4096
    let p := x.2.ppn.toNat * 4096
    let a := max lo v
    let b := min hi (v + 2 ^ pageShift x.2.psz)
    if x.2.sid = q.who.sid && !x.2.wd && x.2.rts.getLsbD rWrite && paRegion p == 1 && p / 2 ^ 19 % 2048 == c.toNat && decide (a < b)
    then some ((p + (a - v)) % 2 ^ 19, b - a) else none

/-- The sealed ranges of a core's scratchpad: the destinations of its decrypt-ins from their issue to their completion (R381). -/
def State.sealedRanges (s : State) (c : CoreId) : List (Nat × Nat) :=
  let k := s.core c
  ((k.cxq ++ k.fifo).filter fun q => field q.w0 60 4 == 5).flatMap (s.destRanges c)
    ++ (k.xfers.filter fun x => field x.req.w0 60 4 == 5).flatMap fun x => if 2 ≤ x.stage then x.sealed else s.destRanges c x.req

/-- Does a range of a core's scratchpad meet a sealed destination (R381)? -/
def State.sealedHit (s : State) (c : CoreId) (off n : Nat) : Bool :=
  (s.sealedRanges c).any fun r => decide (off < r.1 + r.2) && decide (r.1 < off + n)

/-- Does a range of a core's scratchpad meet the register image of an installed workspace (R119)? `own` is left out. -/
def Core.imageHit (k : Core) (own : Option Hidx) (off n : Nat) : Bool :=
  k.ents.any fun x => x.2.v && x.2.st != 6 && own != some (BitVec.ofNat 6 x.1)
    && decide (off < 4096 * x.2.wpb.toNat + imageBytes) && decide (4096 * x.2.wpb.toNat < off + n)

/-- Bytes of a core's scratchpad that a party other than CX and the tasks themselves may not write: sealed ones, and register images (R119, R381). -/
def State.shut (s : State) (c : CoreId) (off n : Nat) : Bool := s.sealedHit c off n || (s.core c).imageHit none off n

/-! ## Packets -/

/-- The header of a packet as R23 lays it out. -/
def pktHeader (k : Packet) : Word :=
  BitVec.ofNat 64 (k.sdev.toNat * 2 ^ 54 + k.pid.toNat * 2 ^ 50 + (if k.skind then 2 ^ 49 else 0) + k.src.toNat * 2 ^ 38 + k.ddev.toNat * 2 ^ 28
    + (if k.dkind then 2 ^ 27 else 0) + k.dst.toNat * 2 ^ 16 + (if k.eos then 2 ^ 11 else 0) + (k.ws.length - 1) * 2 ^ 8 + k.chan.toNat * 8
    + k.cls.toNat)

/-- A packet is discarded with a SYS record to the kernel of the core's partition (R44, R168). -/
def State.discardPkt (s : State) (k : Packet) : State := s.sysRec (s.core k.dst).part [3, pktHeader k]

/-! ## Rings -/

/-- The scratchpad byte at which slot `i` of a ring starts (R169). -/
def ringSlot (e : ChanEnt) (i : Nat) : Nat := 64 * e.base.toNat + 64 * i

/-- The scratchpad byte that holds slot `i`'s tag (R169). -/
def ringTag (e : ChanEnt) (i : Nat) : Nat := 64 * e.base.toNat + 64 * (e.sm1.toNat + 1) + i / 2

/-- The tag of a slot: [2:0] len, [3] eos. -/
def State.tagOf (s : State) (c : CoreId) (e : ChanEnt) (i : Nat) : Nat :=
  (Mem.read s.mem (spad c (ringTag e i))).toNat / (if i % 2 = 0 then 1 else 16) % 16

def State.setTag (s : State) (c : CoreId) (e : ChanEnt) (i tag : Nat) : State :=
  let a := spad c (ringTag e i)
  let b := (Mem.read s.mem a).toNat
  let b' := if i % 2 = 0 then b / 16 * 16 + tag % 16 else b % 16 + 16 * (tag % 16)
  { s with mem := Mem.write s.mem a (BitVec.ofNat 8 b') }

/-- A channel wake finds its handler asleep and makes it runnable; in any other state it changes nothing (R165, R171). -/
def State.wake (s : State) (c : CoreId) (h : Hidx) : State :=
  let e := s.ent c h
  if e.v && e.st == 3 then s.setSt c h 1 else s

/-- Does an arrival that takes the count from `old` to `new` reach the threshold (R171)? -/
def crosses (e : ChanEnt) (old new : Nat) : Bool := decide (old < e.tm1.toNat + 1) && decide (e.tm1.toNat + 1 ≤ new)

/-- Write a packet into the next free slot of a ring or stream and test its wake (R169, R171); the caller knows that a slot is free. A
stream's slot may let a VX head start (R172). A slot or tag in a sealed range or a register image is refused to the packet, which is discarded (R119,
R381; DESIGN CHOICE, log 59). -/
def State.acceptPacket (s : State) (c : CoreId) (ch : Chan) (k : Packet) : State :=
  let e := (s.core c).chan ch
  let w := e.wr.toNat
  if s.shut c (ringSlot e w) 64 || s.shut c (ringTag e w) 1 then s.discardPkt k
  else
  let s := s.writeRun (spad c (ringSlot e w)) 64 (lineOf k.ws).toNat
  let s := s.setTag c e w ((k.ws.length - 1) + (if k.eos then 8 else 0))
  let e' := { e with wr := BitVec.ofNat 8 ((w + 1) % (e.sm1.toNat + 1)), fill := e.fill + 1 }
  let s := s.modCore c fun x => x.setChan ch e'
  let s := if e.bh && (if e.kind == 2 then k.eos else crosses e e.fill (e.fill + 1)) then s.wake c e.hidx else s
  if e.kind == 2 then s.emit (.vxHeadStart c) else s

/-- Is a packet of this channel already waiting in the ingress buffer? -/
def Core.waits (k : Core) (ch : Chan) : Bool := k.inChan.any fun p => p.chan == ch

/-- A core's ingress buffer of the class CHAN is full: packets of the class for that core stay in the mesh (R28). -/
def State.chanFull (s : State) (c : CoreId) : Bool := decide (4 ≤ (s.core c).inChan.length)

/-- A free slot takes the packet that waits longest for the channel (R28, R170). -/
def State.pumpChan (s : State) (c : CoreId) (ch : Chan) : State :=
  let k := s.core c
  let e := k.chan ch
  match k.inChan.find? fun p => p.chan == ch with
  | some p =>
    if e.v && e.kind != 1 && decide (e.fill ≤ e.sm1.toNat) then
      (s.modCore c fun k => { k with inChan := k.inChan.erase p }).acceptPacket c ch p
    else s
  | none => s

/-- Free the slot at `rd` of a ring; a waiting packet is taken after it (R170). -/
def State.freeSlot (s : State) (c : CoreId) (ch : Chan) : State :=
  let e := (s.core c).chan ch
  let s := s.modCore c fun k => k.setChan ch
    { e with rd := BitVec.ofNat 8 ((e.rd.toNat + 1) % (e.sm1.toNat + 1)), fill := e.fill - 1 }
  s.pumpChan c ch

/-- A descriptor word with its consumption fields written: eosl and wo (R122). -/
def descWord (w : Word) (eosl : Bool) (wo : Nat) : Word := putField (putField w 62 1 (if eosl then 1 else 0)) 59 3 wo

/-- Consume one word of a ring through a handle of the workspace at block `b` (R49, R122, R169). -/
def State.consumeAt (s : State) (c : CoreId) (b : BitVec 7) (h : Handle) : Word × State :=
  let d := s.hAt c b h
  let ch : Chan := BitVec.ofNat 5 (field d 52 5)
  let e := (s.core c).chan ch
  let wo := field d 59 3
  let x := s.rd64 (spad c (ringSlot e e.rd.toNat + 8 * wo))
  let tag := s.tagOf c e e.rd.toNat
  if wo = tag % 8 then (x, (s.setHAt c b h (descWord d (decide (8 ≤ tag)) 0)).freeSlot c ch)
  else (x, s.setHAt c b h (descWord d false (wo + 1)))

end Sys2Proof.Machine
end

