-- ==== Sys2Proof/Machine/Fences.lean ====
section
/-! DEFINITION. What a task has under way by name, and what its fences hold (R231, R232). -/

namespace Sys2Proof.Machine

/-- The copy requests of a core that are not complete. -/
def Core.cxAll (k : Core) : List CxReq := k.cxq ++ k.fifo ++ k.xfers.map (·.req)

/-- The names of the running task's loads and atomics whose value has not returned. -/
def State.loadNames (s : State) : List Nat := (s.me.loads.filter fun x => x.hidx == s.myIdx && !x.code).map (·.id)

/-- The names of its VX heads that consume slots of a stream or of a mailbox, which are loads too (R226). -/
def State.takeNames (s : State) : List Nat :=
  (s.me.vxq.filter fun x => x.hidx == s.myIdx && (!x.chans.isEmpty || (match x.i with | .gmu _ | .gsum _ | .gsub _ => true | _ => false))).map (·.id)

/-- The names of its late-translated requests that are not complete, and of its DECRs. -/
def State.storeNames (s : State) : List Nat :=
  let k := s.me
  let mine (r : MemReq) : Option Nat := if r.who.hidx = s.myIdx then (match r.ret with | .retained n => some n | _ => none) else none
  k.srb.filterMap (fun x => mine x.req) ++ k.late.flatten.filterMap mine ++ (k.decrs.filter fun x => x.1 == s.myIdx).map (·.2)

/-- Does an MX or VX head read or write memory, so that it is an engine operation (R226)? -/
def touchesMem : Instr → Bool
  | .mxmul _ | .mxs3 _ | .mxst _ | .mxstSat _ | .mxrsm _ | .vld _ | .vst _ | .gmu _ | .gsum _ | .gsub _ | .gres _ => true
  | _ => false

/-- The names of its incomplete MX and VX heads that are engine operations. -/
def State.engNames (s : State) : List Nat :=
  ((s.me.mxq.filter fun x => x.hidx == s.myIdx && touchesMem x.i).map (·.id)) ++ (s.me.vxq.filter fun x => x.hidx == s.myIdx && touchesMem x.i).map (·.id)

/-- Its incomplete CX transfers. -/
def State.cxNames (s : State) : List (BitVec 2 × BitVec 32) :=
  let name (q : CxReq) : BitVec 2 × BitVec 32 := (BitVec.ofNat 2 (field q.w0 54 2), q.id)
  ((s.me.cxAll.filter fun q => q.hidx == s.myIdx).map name)

/-- What a FENCE leaves behind: of the kinds in `pred` the accesses that are not performed now (R231); under SYSTEM the remote-completion notices
count too (R232). -/
def State.fenceWait (s : State) (pred succ : BitVec 3) (system : Bool) : FenceWait where
  succ := succ
  names := (if pred.getLsbD 0 then s.loadNames ++ s.takeNames else []) ++ (if pred.getLsbD 1 then s.storeNames else []) ++ (if pred.getLsbD 2 then s.engNames else [])
  cxs := if pred.getLsbD 2 then s.cxNames else []
  sys := system && (pred.getLsbD 1 || pred.getLsbD 2)

/-- Is every access that a fence waits for performed (R231)? A load whose reply is a held fault is not: its register is still pending (R275). -/
def State.fenceOver (s : State) (f : FenceWait) : Bool :=
  let left := s.loadNames ++ s.myEnt.held.map (·.id) ++ s.takeNames ++ s.storeNames ++ s.engNames
  f.names.all (fun n => !left.contains n) && f.cxs.all (fun x => !s.cxNames.contains x) && (!f.sys || s.me.rcc == 0)

/-- A head of a kind issues when every fence that orders it is over (R231): 0 for the load and LDC kinds, 1 for the store kind, 2 for an engine. A fault
held for an LDNB that such a fence waits for is delivered there, since nothing else ends that wait (DESIGN CHOICE, log 59). -/
def State.fencedBy (s : State) (kind : Nat) : Try Unit :=
  match s.myEnt.fences.filter fun f => f.succ.getLsbD kind && !s.fenceOver f with
  | [] => .ok ()
  | l => match s.myEnt.held.find? fun x => l.any fun f => f.names.contains x.id with
    | some x => .error (.held x)
    | none => .error .stall

/-- An access issues when what the task's VX heads consume has been consumed, which is an acquire (R234, R235), and its fences are over. R172 and R325 have
the core go on issuing past such a head; the model holds the heads that access memory or consume words, and lets the others and the VX heads
themselves, which VX runs in order, go on (DESIGN CHOICE, log 59). -/
def State.fenced (s : State) (kind : Nat) : Try Unit := do
  if s.takeNames.isEmpty then .ok () else .error .stall
  s.fencedBy kind

end Sys2Proof.Machine
end

