-- ==== Sys2Proof/Machine/Operands.lean ====
section
/-! DEFINITION. Every operand form of the heads: guards (R66), interlocks (R117, R121), channel operands (R49, R50, R241), immediates
(R243), fat pointers (R96 to R100), memory operands (R270), and the conversion of elements (R271). -/

namespace Sys2Proof.Machine

/-! ## Guards and interlocks -/

/-- Does a scalar head's guard let it act (R66)? -/
def State.guardOn (s : State) : Guard → Bool
  | .always => true
  | .on p inv => bit (s.p p) 0 != inv

/-- A predicate that awaits an engine's result holds the head (R121). -/
def State.touchP (s : State) (p : PReg) : Try Unit := ready (!bit (s.wsW offSbrd) (16 + p.toNat))

def State.touchGuard (s : State) : Guard → Try Unit
  | .always => .ok ()
  | .on p _ => s.touchP p

/-- A head that names a general register waits for it (R121), or takes the fault held with it (R275). -/
def State.touchG (s : State) (r : GReg) : Try Unit :=
  if r = 0 then .ok ()
  else match s.myEnt.held.find? fun f => f.reg == r with
    | some f => .error (.held f)
    | none => ready (!bit (s.wsW offSbrd) r.toNat)

/-- A run of general registers. -/
def State.touchRun (s : State) (r : Nat) : Nat → Try Unit
  | 0 => .ok ()
  | n + 1 => do
    s.touchG (BitVec.ofNat 4 r)
    s.touchRun (r + 1) n

/-- The vector registers that a VX head reads or writes. -/
def vxRegs : Instr → List VReg
  | .vadd o | .vsub o | .vmul o | .vaddSat o | .vsubSat o | .vmulSat o | .vmin o | .vmax o | .vminn o | .vmaxn o =>
    o.a :: (match o.b with | .v r => [r] | .c _ _ => []) ++ (match o.c with | .src (.v r) => [r] | _ => [])
  | .vfma o | .vfms o => o.a :: o.d :: (match o.b with | .v r => [r] | .c _ _ => []) ++ (match o.c with | .src (.v r) => [r] | _ => [])
  | .vand o | .vor o | .vxor o =>
    o.a :: (match o.b with | .v r => [r] | .c _ _ => []) ++ (match o.c with | .src (.v r) => [r] | _ => [])
  | .vsel o | .vlog3 o =>
    o.a :: o.d :: (match o.b with | .v r => [r] | .c _ _ => []) ++ (match o.c with | .src (.v r) => [r] | _ => [])
  | .vcmpEq o | .vcmpNe o | .vcmpLt o | .vcmpLe o | .vcmpGt o | .vcmpGe o =>
    (match o.b with | .v r => [r] | .c _ _ => []) ++ (match o.c with | .src (.v r) => [r] | _ => [])
  | .vcvt o | .vcvtSat o => o.a :: (match o.b with | .v r => [r] | .c _ _ => [])
  | .enc o | .encSat o | .dec o => o.a :: (match o.b with | .v r => [r] | .c _ _ => [])
  | .vbcast o => o.a :: (match o.b with | .lane v _ => [v] | .g _ => [])
  | .vperm o => o.a :: o.d.toList ++ (match o.b with | .v r => [r] | .c _ _ => []) ++ (match o.c with | .v r => [r] | .c _ _ => [])
  | .vredAdd o | .vredMin o | .vredMax o => [o.b]
  | .vld o | .vst o => [o.a]
  | .vrcp o | .vrsq o | .vexp2 o | .vlog2 o => o.a :: (match o.b with | .v r => [r] | .c _ _ => [])
  | _ => []

/-- The register a VX head writes (R323). -/
def vxDest (i : Instr) : Option VReg :=
  match i with
  | .vredAdd _ | .vredMin _ | .vredMax _ | .vst _ => none
  | .vcmpEq _ | .vcmpNe _ | .vcmpLt _ | .vcmpLe _ | .vcmpGt _ | .vcmpGe _ => none
  | i => (vxRegs i).head?

/-- The destination registers of a lantern head, for which later heads of its task wait (R361). -/
def rstatRegs : Instr → List VReg
  | .rstat o => (List.range 6).map fun i => o.a + BitVec.ofNat 5 i
  | .rstatE o => [o.a, o.a + 1]
  | _ => []

/-- Does a queued lantern head of the running task write the vector register (R361)? -/
def State.rstatBusy (s : State) (v : VReg) : Bool :=
  s.me.mxq.any fun x => x.hidx == s.myIdx && (rstatRegs x.i).contains v

/-- Does an incomplete VX or lantern head of the running task name the vector register (R117, R361)? -/
def State.vxBusy (s : State) (v : VReg) : Bool :=
  (s.me.vxq.any fun x => x.hidx == s.myIdx && (vxRegs x.i).contains v) || s.rstatBusy v

/-- The predicate or general register of an access to `n` bytes of the register image from byte `off`: it waits as an operand would
(R117, R121). -/
def State.touchImage (s : State) (off n : Nat) : Try Unit :=
  let ws := (List.range 48).filter fun w => decide (off < 8 * w + 8) && decide (8 * w < off + n)
  let vs := (List.range 32).filter fun v => decide (off < offV + 64 * v + 64) && decide (offV + 64 * v < off + n)
  do
    ws.forM fun w => if w < 16 then s.touchG (BitVec.ofNat 4 w) else if 32 ≤ w ∧ w < 40 then s.touchP (BitVec.ofNat 3 (w - 32)) else .ok ()
    ready (!vs.any fun v => s.vxBusy (BitVec.ofNat 5 v))

/-! ## Channel operands -/

/-- The channel of a handle of the running task. -/
def State.chanOf (s : State) (h : Handle) : Chan := BitVec.ofNat 5 (field (s.h h) 52 5)

/-- A handle a scalar head may consume through: bound, of kind 0, and on a channel that is still bound (R122, R241, R299). -/
def State.handleOk (s : State) (h : Handle) : Bool := bit (s.h h) 63 && field (s.h h) 57 2 == 0 && (s.me.chan (s.chanOf h)).v

/-- BAD_HANDLE names the handle (R392). -/
def badHandle (h : Handle) : Trap := .fault cBadHandle (h.setWidth 32) 0

/-- A source must be readable: its register not pending, its handle bound. -/
def State.srcOk (s : State) : Src → Try Unit
  | .g r => s.touchG r
  | .c h _ => if s.handleOk h then .ok () else .error (badHandle h)

/-- The scratchpad byte of the word that a handle would consume (R169). -/
def State.wordAt (s : State) (h : Handle) : Nat :=
  let e := s.me.chan (s.chanOf h)
  ringSlot e e.rd.toNat + 8 * field (s.h h) 59 3

/-- Does that word, or its slot's tag, lie in a sealed range (R381)? -/
def State.wordSealed (s : State) (h : Handle) : Bool :=
  let e := s.me.chan (s.chanOf h)
  s.sealedHit s.cur (s.wordAt h) 8 || s.sealedHit s.cur (ringTag e e.rd.toNat) 1

/-- A handle waits for its slots (R50), and for the fences that order the consumption of its word (R226, R231); a word in a sealed range is refused as
a load of it would be (R381). -/
def State.srcFilled (s : State) : Src → Try Unit
  | .g _ => .ok ()
  | .c h k => do
    s.fenced 0
    ready (decide (k.toNat ≤ (s.me.chan (s.chanOf h)).fill))
    must (!s.wordSealed h) cNoRight (BitVec.ofNat 64 (s.wordAt h))

/-- The value of a source; a handle consumes one word. -/
def State.take (s : State) : Src → Word × State
  | .g r => (s.g r, s)
  | .c h _ => s.consumeAt s.cur s.me.blk h

/-- One source (R241). -/
def State.read1 (s : State) (b : Src) : Try (Word × State) := do
  s.srcOk b
  s.srcFilled b
  return s.take b

/-- Two sources: both must be ready, and B is consumed before C (R241). Where both consume from one channel, through one handle or through two that are bound
to it, each wait was tested before B's word went, and C's word is the next one (DEDUCED, log 14). -/
def State.read2 (s : State) (b c : Src) : Try (Word × Word × State) := do
  s.srcOk b
  s.srcOk c
  s.srcFilled b
  s.srcFilled c
  let (x, s1) := s.take b
  let (y, s2) := s1.take c
  return (x, y, s2)

/-- A source and a third operand (R241, R243). -/
def State.readOpd (s : State) (b : Src) : Opd → Try (Word × Word × State)
  | .src c => s.read2 b c
  | .imm v => do
    let (x, s1) ← s.read1 b
    return (x, v, s1)

/-- A third operand alone (R295). -/
def State.readAlone (s : State) : Opd → Try (Word × State)
  | .src c => s.read1 c
  | .imm v => .ok (v, s)

/-- A general register or an immediate. -/
def State.regImm (s : State) : RegImm → Try Word
  | .reg r => do
    s.touchG r
    return s.g r
  | .imm v => .ok v

/-- A head under its guard: when the test fails nothing changes and nothing is consumed (R66). -/
def State.guarded (s : State) (q : Guard) (act : Try State) : Try State := do
  s.touchGuard q
  if s.guardOn q then act else .ok s.advance

/-! ## Integers in registers (R242) -/

/-- `ival`: the exact integer a suffix reads from a register. -/
def ival (t : Ty) (x : Word) : Int := intVal t.isSigned (tyBits t) x.toNat

/-- The register value of a suffix's `w` low bits: sign-extended for `.i`, zero-extended otherwise (R242, R255). -/
def putBits (t : Ty) (n : Nat) : Word :=
  if t.isSigned then BitVec.ofInt 64 (intVal true (tyBits t) n) else BitVec.ofNat 64 (n % 2 ^ tyBits t)

/-- `put`: an exact integer kept to the suffix's width (R242). -/
def put (t : Ty) (r : Int) : Word := putBits t (wrapInt (tyBits t) r)

/-! ## Fat pointers (R96 to R100) -/

def ptrFmt (p : Word) : Nat := field p 60 4
def ptrBlog (p : Word) : Nat := field p 56 4
def ptrVa (p : Word) : Nat := field p 0 56

/-- A pointer from its upper byte and an address. -/
def mkPtr (tag va : Nat) : Word := BitVec.ofNat 64 (tag % 256 * 2 ^ 56 + va % 2 ^ 56)

/-- The element width of a format code; 8 for RAW and for the codes without a format (R58, R96). -/
def fmtWidth (f : Nat) : Nat :=
  if f = 3 ∨ f = 5 ∨ f = 6 then 16 else if f = 4 ∨ f = 7 then 32 else if f = 10 ∨ f = 11 ∨ f = 12 then 4 else 8

/-- Is the format legal with this block logarithm (R96, R97)? -/
def fmtLegal (f k : Nat) : Bool :=
  if f = 1 ∨ f = 2 ∨ f = 8 ∨ f = 9 then k == 0 || decide (3 ≤ k ∧ k ≤ 8)
  else if f = 10 ∨ f = 11 ∨ f = 12 then decide (3 ≤ k ∧ k ≤ 8)
  else decide (f ≤ 7) && k == 0

def ptrLegal (p : Word) : Bool := fmtLegal (ptrFmt p) (ptrBlog p)

/-- The VA that PSTEP forms, exactly (R58, R97). -/
def pstepVa (p : Word) (n : Int) : Int :=
  (ptrVa p : Int) + (if ptrBlog p = 0 then n * fmtWidth (ptrFmt p) / 8 else n)

/-- The byte of an element's code (R98). -/
def codeByte (f k v : Nat) : Nat := if k = 0 then v else v * fmtWidth f / 8 + v / 2 ^ k + 1

/-- The byte of a block's scale (R98). -/
def scaleByte (f k v : Nat) : Nat := v / 2 ^ k * (2 ^ k * fmtWidth f / 8 + 1)

/-- The suffix of an unscaled format of the same name (R271). -/
def fmtTy (f : Nat) : Ty :=
  match f with
  | 1 => .i8
  | 2 => .z8
  | 3 => .i16
  | 4 => .i32
  | 5 => .f16
  | 6 => .bf16
  | _ => .f32

/-- The register type of a head: its suffix, or what the pointer's format gives it (R271). -/
def elemTy (t : Ty) (f k : Nat) : Ty :=
  if t ≠ .nosfx then t
  else if f = 0 then .z64
  else if k ≠ 0 then .f32
  else if f = 8 ∨ f = 9 then .f19
  else fmtTy f

/-- The bytes of memory one element takes: the register type's under RAW, else the format's (R271, R272). -/
def elemSize (t : Ty) (f : Nat) : Nat := if f = 0 then tyBits t / 8 else fmtWidth f / 8

/-- The byte addresses an access to one element needs, lowest first (R100, R272). -/
def needed (t : Ty) (f k v : Nat) : List Nat :=
  if k ≠ 0 then [scaleByte f k v, codeByte f k v] else (List.range (elemSize t f)).map (v + ·)

/-- The value of a code in a format without its scale (R96). -/
def codeVal (k : Core) (f c : Nat) : Val :=
  if f = 8 ∨ f = 10 then k.t0.val c
  else if f = 9 ∨ f = 11 then k.t1.val c
  else if f = 12 then .ofInt (intVal true 4 c)
  else tyVal (fmtTy f) c

/-- The exact value of a scaled element (R99). -/
def scaledVal (k : Core) (f scale c : Nat) : Val := if scale = 255 then .nan else (codeVal k f c).scale ((scale : Int) - 127)

/-- The code of an element from its byte: an odd 4-bit code is the upper half (R98). -/
def codeOf (f v byte : Nat) : Nat := if fmtWidth f = 4 then byte / (if v % 2 = 0 then 1 else 16) % 16 else byte

/-- What a unit keeps of a container of suffix `t`: an F19 value is its low 19 bits (R94). -/
def contained (t : Ty) (n : Nat) : Nat := if t = .f19 then n % 2 ^ 19 else n

/-- The register value of a loaded element, from the bytes of memory (R271). -/
def loadVal (k : Core) (t : Ty) (f b v : Nat) (rd : Nat → Byte) : Word :=
  let t' := elemTy t f b
  if b ≠ 0 then
    putBits t' (tyEnc t' false (scaledVal k f (rd (scaleByte f b v)).toNat (codeOf f v (rd (codeByte f b v)).toNat)))
  else
    let n := ((List.range (elemSize t' f)).map fun i => (rd (v + i)).toNat * 256 ^ i).sum
    if f = 0 then putBits t' (contained t' n)
    else if f = 8 ∨ f = 9 then putBits t' (tyEnc t' false (codeVal k f n))
    else putBits t' (convert (fmtTy f) t' false n)

/-- The bytes of memory that a store of a register value makes, as a number (R271). -/
def storeVal (k : Core) (t : Ty) (f : Nat) (x : Word) : Nat :=
  let t' := elemTy t f 0
  if f = 0 then contained t' x.toNat % 2 ^ tyBits t'
  else if f = 8 then k.t0.enc false false (tyVal t' x.toNat)
  else if f = 9 then k.t1.enc false false (tyVal t' x.toNat)
  else convert t' (fmtTy f) false x.toNat

/-! ## Memory operands (R269, R270) -/

/-- Where an access goes: a byte of the core's scratchpad, or a pointer's upper byte with an address. -/
inductive Place
  | ws (off : Nat)
  | va (tag a : Nat)
  deriving DecidableEq, Repr

/-- The displacement of a memory operand as an element count or a byte count. -/
def State.dispVal (s : State) : Disp → Int
  | .idx r => (s.g r).toInt
  | .imm e => e.toInt

def State.touchMem (s : State) (m : MemOpd) : Try Unit := do
  s.touchG m.base
  match m.d with
  | .idx r => s.touchG r
  | .imm _ => .ok ()

/-- The exact address of a pointer with a displacement: its VA before the range check (R270). -/
def State.memVa (s : State) (p : Word) : Disp → Int
  | .idx r => pstepVa p (s.g r).toInt
  | .imm e => (ptrVa p : Int) + e.toInt

/-- The address of a memory operand. `size` gives the bytes of the access when its memory holds RAW data (R270). -/
def State.address (s : State) (m : MemOpd) (size : Nat) : Try Place :=
  if m.base = 0 then
    let off : Int := 4096 * s.me.blk.toNat + s.dispVal m.d
    let top : Int := 4096 * s.me.sblk.toNat
    if off < 0 then .error (.fault cPaFault 0 (BitVec.ofInt 64 (off % 2 ^ 56)))
    else if top ≤ off + size - 1 then .error (.fault cPaFault 0 (BitVec.ofInt 64 (max off top)))
    else .ok (.ws off.toNat)
  else
    let p := s.g m.base
    let va := s.memVa p m.d
    let bad : Bool := ptrBlog p != 0 && (match m.d with | .imm e => e != 0 | .idx _ => false)
    if !ptrLegal p || bad then .error (.fault cFormat 0 p)
    else if va < 0 ∨ 2 ^ 56 ≤ va then .error (.fault cPtrOverflow 0 (mkPtr (field p 56 8) (va % 2 ^ 56).toNat))
    else .ok (.va (field p 56 8) va.toNat)

/-- The scratchpad byte of a base-0 operand, when it is not below the scratchpad (R270). -/
def State.wsOff (s : State) (m : MemOpd) : Option Nat :=
  let off : Int := 4096 * s.me.blk.toNat + s.dispVal m.d
  if m.base = 0 ∧ 0 ≤ off then some off.toNat else none

/-- The format code and blog of a pointer's upper byte. -/
def tagFmt (tag : Nat) : Nat := tag / 16 % 16
def tagBlog (tag : Nat) : Nat := tag % 16

/-- A pointer whose alignment and unscaled format a message, a line operation or a bank operation needs (R272, R281, R295). -/
def lineVa (p : Word) (align : Nat) : Try Nat := do
  must (ptrLegal p && ptrBlog p == 0) cFormat p
  must (ptrVa p % align == 0) cMisaligned p
  return ptrVa p

end Sys2Proof.Machine
end

