-- ==== Sys2Proof/Machine/Flags.lean ====
section
/-! DEFINITION. The results that steer: compare conditions (R253, R331), the branch conditions of predicates (R265), and the fields of the
status words (R125, R126). -/

namespace Sys2Proof.Machine

/-- The six conditions of CMP and VCMP. -/
inductive Cc
  | eq | ne | lt | le | gt | ge
  deriving DecidableEq, Repr

/-- Does a condition hold of an ordering? Unordered values satisfy NE alone (R253). -/
def ccHolds : Cc → Option Ordering → Bool
  | .ne, none => true
  | _, none => false
  | .eq, some o => o == .eq
  | .ne, some o => o != .eq
  | .lt, some o => o == .lt
  | .le, some o => o != .gt
  | .gt, some o => o == .gt
  | .ge, some o => o != .lt

/-- The order of two register values of a suffix (R253). -/
def cmpVals (t : Ty) (x y : Word) : Option Ordering :=
  if t.isFloat then (tyVal t x.toNat).cmp (tyVal t y.toNat) else some (compare (ival t x) (ival t y))

/-- A predicate word from a scalar result: bit 0, the rest 0 (R123, R253). -/
def predWord (b : Bool) : Word := if b then 1 else 0

/-- Is every one of the low `n` bits set? -/
def allLow (w : Word) (n : Nat) : Bool := w.toNat % 2 ^ n == 2 ^ n - 1

/-- Is some one of the low `n` bits set? -/
def anyLow (w : Word) (n : Nat) : Bool := w.toNat % 2 ^ n != 0

/-- TSTAT.drn, the store-fault records added since the last DRAINST (R125). -/
def drnOf (tstat : Word) : Nat := field tstat 16 4

/-- TSTAT with one more record, saturating at 8. -/
def drnUp (tstat : Word) : Word := putField tstat 16 4 (min 8 (drnOf tstat + 1))

/-- TSTAT with drn cleared. -/
def drnClear (tstat : Word) : Word := putField tstat 16 4 0

/-- TSTAT with the gang fields of R125: gang, lead, gpos. -/
def gangBits (tstat : Word) (gang lead : Bool) (pos : Nat) : Word :=
  putField (putField (putField tstat 41 1 (if gang then 1 else 0)) 40 1 (if lead then 1 else 0)) 36 4 pos

/-- Is the running task in fault service (R126)? -/
def State.inFault (s : State) : Bool := bit (s.wsW offFstat) 63

end Sys2Proof.Machine
end

