-- ==== Sys2Proof/Machine/Bank.lean ====
section
/-! DEFINITION. The places of physical addresses (R142, R146, R148, R439), the keys they need (R156, R425), the lines of a bank with their
poison (R157 to R161), and what a bank pipeline does to a line (R280 to R286, R205, R206). -/

namespace Sys2Proof.Machine

/-! ## Physical addresses -/

/-- The bank within the slice (R148). -/
def bankIn (a : Nat) : Nat := (a / 2 ^ 6 % 16) ^^^ (a / 2 ^ 22 % 16)

/-- The set within the bank (R148). The spec gives the formula for the PAs of region 0; for a host-homed line the model takes the same bits of the
host PA (DESIGN CHOICE, log 60). -/
def setIn (a : Nat) : Nat := a / 2 ^ 10 % 4 + 4 * ((a / 2 ^ 12 % 256) ^^^ (a / 2 ^ 20 % 256))

/-- The pseudo-channel within the slice (R148). -/
def pseudoChannel (a : Nat) : Nat := (a / 2 ^ 10 % 16) ^^^ (a / 2 ^ 14 % 16)

/-- The slice whose bank holds or caches a line (R147, R439). A frame of a peer has its migration entry where R439 puts a host frame's (DESIGN
CHOICE, log 38). -/
def State.lineSlice (s : State) (p : Pid) (a : Nat) : Nat :=
  if paRegion a = 4 ∨ paRegion a = 3 then
    let l := s.partSlices p
    l.getD (a / 2 ^ 12 % 1024 % l.length) 0
  else a / 2 ^ 33 % 64

/-- The bank number of a line: slice * 16 + bank. -/
def State.bankOf (s : State) (p : Pid) (a : Nat) : Nat := 16 * s.lineSlice p a + bankIn a

/-- The die of a slice and of a core (R4, R21). -/
def sliceDie (sl : Nat) : Nat := sl / 16
def coreDie (c : Nat) : Nat := coreX c / 32 + 2 * (coreY c / 16)

/-- The first receivers of R228 as numbers: a bank, a copy slice, a translation home, a window, a peer, a host port. -/
def State.receiver (s : State) (c : CoreId) (p : Pid) (a : Nat) (load det : Bool) : Nat :=
  match paRegion a with
  | 1 => 8192 + a / 2 ^ 19 % 2048
  | 3 => 16384 + a / 2 ^ 42 % 1024
  | _ =>
    let sl := s.lineSlice p a
    match s.copySlice p (coreDie c.toNat) with
    | some cs => if load && !det && paRegion a == 0 && sliceDie sl != coreDie c.toNat then 2048 + cs else s.bankOf p a
    | none => s.bankOf p a

/-- The buoy a request to a physical address takes its step from (R26, R273, R411); none for a window. -/
def receiverBuoy (a r : Nat) : Option BuoyId :=
  match paRegion a with
  | 1 => none
  | 3 => some (BitVec.ofNat 7 (64 + a / 2 ^ 42 % 64))
  | 4 => some (BitVec.ofNat 7 (126 + a / 2 ^ 51 % 2))
  | _ => some (BitVec.ofNat 7 (if 2048 ≤ r then r % 64 else r / 16))

/-- Has a physical address become invalid (R143, R144)? -/
def State.paBad (s : State) (a : Nat) : Bool :=
  match paRegion a with
  | 0 => false
  | 1 => decide (4096 * (s.core (BitVec.ofNat 11 (a / 2 ^ 19))).sblk.toNat ≤ a % 2 ^ 19)
  | 2 => false
  | 3 => !s.peers.contains (a / 2 ^ 42 % 1024)
  | 4 => !s.hosts.getLsbD (a / 2 ^ 51 % 2)
  | _ => true

/-- Is a line inaccessible for the loss of its link (R417)? -/
def State.isLost (s : State) (a : Nat) : Bool :=
  s.lost.contains (a / 4096) || (match paRegion a with
    | 3 => s.downs.contains (.port (Config.portOf (BitVec.ofNat 10 (a / 2 ^ 42))))
    | 4 => s.downs.contains (.host (BitVec.ofNat 1 (a / 2 ^ 51)))
    | _ => false)

/-- May a partition use a key slot for memory (R156, R425)? -/
def State.keyOk (s : State) (slot : BitVec 6) (p : Pid) : Bool :=
  let k : KeySlot := Tab.get .reset s.keys slot.toNat
  k.state == 1 && k.part == p

/-! ## Bytes of a line -/

def lineByte (l : Line) (i : Nat) : Byte := l.extractLsb' (8 * i) 8

/-- A line from its bytes. -/
def lineMk (f : Nat → Byte) : Line := BitVec.ofNat 512 ((List.range 64).foldr (fun i a => (f i).toNat + 256 * a) 0)

/-- Is every byte of granule `g` in the mask? -/
def fullGranule (bm : BitVec 64) (g : Nat) : Bool := (bm >>> (32 * g)).setWidth 32 == BitVec.allOnes 32

/-- Is some byte of granule `g` in the mask? -/
def someGranule (bm : BitVec 64) (g : Nat) : Bool := (bm >>> (32 * g)).setWidth 32 != 0

/-- The bytes of a request as a mask over its line: `bm` starts at the request's first byte. -/
def reqMask (r : MemReq) : BitVec 64 := (r.bm &&& BitVec.ofNat 64 (2 ^ r.n - 1)) <<< (r.pa.toNat % 64)

/-- The data of a request laid over its line. -/
def reqLine (r : MemReq) : Line := r.data <<< (8 * (r.pa.toNat % 64))

/-- Merge masked bytes into a line under R158 and R159: whole granules lose their poison; a part of a poisoned granule leaves it poisoned and
reports it. -/
def mergeLine (d : Line) (poi : BitVec 2) (x : Line) (bm : BitVec 64) : Line × BitVec 2 × Bool :=
  let d' := lineMk fun i => if bm.getLsbD i then lineByte x i else lineByte d i
  let p (g : Nat) : Bool := poi.getLsbD g && !fullGranule bm g
  (d', BitVec.ofNat 2 ((if p 0 then 1 else 0) + (if p 1 then 2 else 0)),
    (someGranule bm 0 && p 0) || (someGranule bm 1 && p 1))

/-- The first masked byte that lies in a poisoned granule. -/
def firstPoison (poi : BitVec 2) (bm : BitVec 64) : Option Nat := (List.range 64).find? fun i => bm.getLsbD i && poi.getLsbD (i / 32)

/-! ## Stored lines -/

/-- The poison bits stored for a line. -/
def State.poiAt (s : State) (ln : Nat) : BitVec 2 :=
  BitVec.ofNat 2 ((if s.poison.contains (2 * ln) then 1 else 0) + (if s.poison.contains (2 * ln + 1) then 2 else 0))

/-- Store a line's poison bits. -/
def State.setPoi (s : State) (ln : Nat) (p : BitVec 2) : State :=
  let l := s.poison.filter fun g => g / 2 != ln
  { s with poison := (if p.getLsbD 0 then [2 * ln] else []) ++ (if p.getLsbD 1 then [2 * ln + 1] else []) ++ l }

/-- The bytes stored for a line. -/
def State.memLine (s : State) (ln : Nat) : Line := BitVec.ofNat 512 (Mem.readN s.mem (64 * ln) 64)

def State.setMemLine (s : State) (ln : Nat) (d : Line) : State := { s with mem := Mem.writeN s.mem (64 * ln) 64 d.toNat }

/-- One step of CRC-16 with polynomial 0x1021 (R157). -/
def crcBit (c : BitVec 16) (b : Bool) : BitVec 16 := if c.getLsbD 15 != b then (c <<< 1) ^^^ 0x1021 else c <<< 1

/-- The line check (R157): over the bytes in ascending order, most significant bit first, from 0xFFFF. -/
def lineCheck (d : Line) : BitVec 16 :=
  (List.range 512).foldl (fun c i => crcBit c (d.getLsbD (8 * (i / 8) + 7 - i % 8))) 0xFFFF

/-- The key that a slot holds. -/
def State.keyIn (s : State) (slot : BitVec 6) : BitVec 512 := (Tab.get KeySlot.reset s.keys slot.toNat).key

/-- Fill a line from its store under a key slot (R151, R156, R157): a check that fails, as it does under any key but the one that the line was
encrypted with, raises POISON and installs nothing, unless a stored poison bit accounts for it. -/
def State.fillFrom (s : State) (pl : Nat) (key : BitVec 6) : Except Code CLine :=
  let ln := placeLine pl
  let poi := s.poiAt ln
  let wrong : Bool := (match Tab.find s.hkey ln with | some k => k != s.keyIn key | none => false) || s.badchk.contains ln
  if wrong && poi == 0 then .error cPoison
  else
    let d := s.memLine ln
    .ok ⟨ln, d, key, false, if wrong then 3 else poi, lineCheck d, 0, false, placeSlice pl, false⟩

/-- A line whose check does not fit its data has both granules poisoned, wherever that is found (R157). -/
def CLine.checked (l : CLine) : CLine := if l.chk = lineCheck l.data then l else { l with poi := 3 }

/-- The line at a place that its bank holds. -/
def State.cached (s : State) (pl : Nat) : Option CLine := s.lines.find? fun l => l.place == pl && !l.copy

/-- The newest write-back queued for a place. -/
def State.queued (s : State) (pl : Nat) : Option CLine := s.wbq.reverse.find? fun l => l.place == pl

/-- Is a line in a bank at the place of another, each the home's line or each a copy? -/
def CLine.same (x y : CLine) : Bool := x.place == y.place && x.copy == y.copy

/-- Put a line first in the order of use. -/
def State.putLine (s : State) (l : CLine) : State := { s with lines := l :: s.lines.filter fun x => !x.same l }

/-- Remove the line at a place from its bank. -/
def State.dropLine (s : State) (pl : Nat) : State := { s with lines := s.lines.filter fun x => x.place != pl || x.copy }

/-- Remove the copies of a line, in every copy slice or in one (R150). -/
def State.dropCopies (s : State) (ln : Nat) (sl : Option Nat) : State :=
  { s with lines := s.lines.filter fun x => !(x.copy && x.ln == ln && (sl.isNone || sl == some x.sl)) }

/-- Mark the 2 MiB unit of a region-0 line (R430). -/
def State.touchRow (s : State) (ln : Nat) : State :=
  let a := 64 * ln
  if paRegion a = 0 then
    s.modSlice (a / 2 ^ 33 % 64) fun k => if k.touched.contains (a / 2 ^ 21 % 4096) then k else { k with touched := (a / 2 ^ 21 % 4096) :: k.touched }
  else s

/-- Do two lines lie in one set of one bank of one slice? -/
def sameSet (x y : CLine) : Bool := x.sl == y.sl && bankIn (64 * x.ln) == bankIn (64 * y.ln) && setIn (64 * x.ln) == setIn (64 * y.ln)

/-- Put a line or a copy into its set as the one last used: the least recently used of a full set is evicted (R146). A copy goes silently (R150); a line
of the home takes its copies with it, since nothing else would know of them (DEDUCED, log 37), and is written back when dirty. A line that was not
there marks its 2 MiB unit (R430). -/
def State.installLine (s : State) (l : CLine) : State :=
  let same := s.lines.filter fun x => sameSet x l && !x.same l
  let new : Bool := !s.lines.any l.same
  let s := match (if same.length < 12 then none else same.getLast?) with
    | some v =>
      if v.copy then s.dropCopies v.ln (some v.sl)
      else
        let s := (s.dropLine v.place).dropCopies v.ln none
        if v.dirty then { s with wbq := s.wbq ++ [v] }.emit (.writeBackAccept (BitVec.ofNat 50 v.ln)) else s
    | none => s
  if new then (s.putLine l).touchRow l.ln else s.putLine l

/-- Store a line in HBM or at its host: its data, check and poison, and for HBM the key it is encrypted with (R151, R155). -/
def State.storeLine (s : State) (ln : Nat) (d : Line) (poi : BitVec 2) (key : Option (BitVec 512)) (bad : Bool) : State :=
  let s := ((s.setMemLine ln d).setPoi ln poi).touchRow ln
  let rest := s.badchk.filter (· != ln)
  { s with
    hkey := match (if paRegion (64 * ln) = 0 then key else none) with | some k => Tab.set s.hkey ln k | none => Tab.del s.hkey ln
    badchk := if bad then ln :: rest else rest }

/-- The controller accepts a queued write-back: the line is stored with the check that it carries, under the key that its slot holds (R151, R155). -/
def State.storeBack (s : State) (l : CLine) : State := s.storeLine l.ln l.data l.poi (some (s.keyIn l.key)) (l.chk != lineCheck l.data)

/-- A line as its bank has it or fills it: a queued write-back supplies it before the store behind it does. -/
def State.getLine (s : State) (pl : Nat) (key : BitVec 6) : Except Code CLine :=
  match s.cached pl with
  | some l => .ok l
  | none =>
    match s.queued pl with
    | some l => if l.key = key then .ok { l with dirty := false, shar := 0, excl := false } else .error cPoison
    | none => s.fillFrom pl key

/-! ## Element operations -/

/-- The integer or F32 result of one bank operation on an element (R282, R283). -/
def updElem (k : UpdKind) (t : Ty) (m x : Nat) : Nat :=
  if t = .f32 then
    match k with
    | .set => x % 2 ^ 32
    | .add => f32Add m x
    | .mul => f32Mul m x
    | .min => f32Min m x
    | .max => f32Max m x
  else
    let w := tyBits t
    let a := intVal true w m
    let b := intVal true w x
    wrapInt w (match k with
      | .set => b
      | .add => a + b
      | .mul => a * b
      | .min => min a b
      | .max => max a b)

/-- The new value of ATOM's element (R281). -/
def atomNew (k : AtomKind) (t : Ty) (old : Nat) (c d : Word) : Nat :=
  let w := tyBits t
  let o := intVal t.isSigned w old
  let x := intVal t.isSigned w c.toNat
  match k with
  | .add => wrapInt w (o + x)
  | .and => old &&& c.toNat % 2 ^ w
  | .or => old ||| c.toNat % 2 ^ w
  | .xor => old ^^^ c.toNat % 2 ^ w
  | .min => wrapInt w (min o x)
  | .max => wrapInt w (max o x)
  | .swap => c.toNat % 2 ^ w
  | .cas => if o = x then d.toNat % 2 ^ w else old

/-- Read `n` bytes of a line from byte `off`. -/
def lineBits (d : Line) (off n : Nat) : Nat := d.toNat / 256 ^ off % 256 ^ n

/-- The lanes of BUPD applied to a line (R283). -/
def bupdLine (k : UpdKind) (t : Ty) (mask : BitVec 16) (d x : Line) : Line :=
  let n := tyBits t / 8
  BitVec.ofNat 512 ((List.range (64 / n)).foldr (fun i a =>
    (if mask.getLsbD i then updElem k t (lineBits d (n * i) n) (lineBits x (n * i) n) else lineBits d (n * i) n) + 256 ^ n * a) 0)

/-- The bytes that BARINIT writes: all but those of gen (R286). -/
def barinitMask : BitVec 64 := ~~~(0xF#64 <<< 28)

/-- The bytes a set of BUPD lanes covers. -/
def bupdMask (t : Ty) (mask : BitVec 16) : BitVec 64 :=
  let n := tyBits t / 8
  BitVec.ofNat 64 (((List.range 64).filter fun i => mask.getLsbD (i / n)).map (2 ^ ·)).sum

/-- A barrier object as BARINIT leaves it: gen keeps its value (R286). -/
def barinitLine (d : Line) (earr : BitVec 16) (ebyt : BitVec 48) : Line :=
  lineOf [BitVec.ofNat 64 ((if earr = 0 then 0 else 2 ^ 63) + earr.toNat * 2 ^ 32), ebyt.setWidth 64, 0,
    lineWord d 3 &&& 0xFFFFFFFF00000000, 0, 0, 0, 0]

/-! ## Quantum buffers (R205 to R207) -/

def State.qroom (s : State) (bank : Nat) : Bool := decide ((s.qbuf.filter fun e => e.bank.toNat == bank).length < 2048)

/-- The operations that a DET page keeps in the quantum buffer (R205, R280). -/
def isDetOp : BankOp → Bool
  | .store | .bred _ _ => true
  | _ => false

/-- The code of an operation in an entry (R205). -/
def qop : BankOp → BitVec 3
  | .bred .add _ => 1
  | .bred .min _ => 2
  | .bred .max _ => 3
  | _ => 0

def qtype : BankOp → BitVec 2
  | .bred _ .i64 => 1
  | .bred _ .f32 => 2
  | _ => 0

/-- The entry that a DET request makes. -/
def qentry (bank : Nat) (r : MemReq) : QEnt where
  bank := BitVec.ofNat 10 bank
  core := r.who.core
  op := qop r.op
  type := qtype r.op
  bmask := (r.bm &&& BitVec.ofNat 64 (2 ^ r.n - 1)).setWidth 8
  q := r.q
  seq := r.seq
  lref := r.who.lref
  pid := r.who.pid
  pa := r.pa
  key := r.key
  data := r.data.setWidth 64

/-- Is sequence number a before b, modulo 2^16 (R206)? -/
def seqLt (a b : BitVec 16) : Bool := decide ((b - a).toNat < 2 ^ 15) && a != b

/-- The commit order: core index, and within one core seq order (R57, R206). -/
def qBefore (a b : QEnt) : Bool := if a.core = b.core then seqLt a.seq b.seq else decide (a.core.toNat < b.core.toNat)

/-- Insert an entry into the commit order. -/
def qInsert (e : QEnt) : List QEnt → List QEnt
  | [] => [e]
  | x :: xs => if qBefore e x then e :: x :: xs else x :: qInsert e xs

def qSort (l : List QEnt) : List QEnt := l.foldl (fun acc e => qInsert e acc) []

/-! ## Counter objects as granules (R211) -/

/-- The four words of a counter object (R211). -/
def Obj.words (o : Obj) : List Word :=
  let w := putField (putField (putField (putField 0 63 1 (if o.v then 1 else 0)) 61 2 o.lvl.toNat) 58 3 o.st.toNat) 57 1 (if o.flt then 1 else 0)
  [putField (putField (putField w 53 4 o.pid.toNat) 32 21 o.hm) 0 32 o.exp, putField (putField 0 32 32 o.fin) 0 32 o.run,
    putField (putField 0 32 32 o.par.toNat) 0 32 o.wait, o.time]

/-- The objects whose granules lie in a line, by half of the line. The lines of a bank's object area are its lines from the area's base up, as many as
object references name (R211). -/
def State.objsAt (s : State) (ln : Nat) : List (Nat × Obj) :=
  let a := 64 * ln
  let sl := a / 2 ^ 33 % 64
  match (s.slice sl).objBase with
  | some b =>
    if paRegion a = 0 ∧ b ≤ a ∧ (a - b) / 1024 < 2 ^ 21 then
      s.objs.filterMap fun x => if x.1 / 2 = (2 ^ 26 * sl + 2 ^ 22 * bankIn a) / 2 + (a - b) / 1024 then some (x.1 % 2, x.2) else none
    else []
  | none => []

/-- A line with the granules of its objects laid over it. -/
def State.showObjs (s : State) (ln : Nat) (d : Line) : Line :=
  (s.objsAt ln).foldl (fun d x => lineMk fun i => if i / 32 = x.1 then ((x.2.words.getD (i % 32 / 8) 0).extractLsb' (8 * (i % 8)) 8) else lineByte d i) d

/-- A load from a DET page shows the uncommitted stores of its task's launch on its core over the line (R57, R280); any
load shows the kernel's objects (R211). -/
def State.overlay (s : State) (r : MemReq) (d : Line) : Line :=
  let es := qSort (s.qbuf.filter fun e =>
    r.det && e.op == 0 && e.core == r.who.core && e.lref == r.who.lref && e.pa.toNat / 64 == r.pa.toNat / 64)
  es.foldl (fun d e => lineMk fun i =>
    let j := i - e.pa.toNat % 64
    if e.pa.toNat % 64 ≤ i && decide (j < 8) && e.bmask.getLsbD j then (e.data.extractLsb' (8 * j) 8) else lineByte d i) (s.showObjs (r.pa.toNat / 64) d)

/-! ## Replies -/

/-- The bank a message on its way will reach, for the marking test (R219). The spec does not say which bank of its slice holds a launch queue: the
model takes the one of the queue's number (DESIGN CHOICE, log 60). -/
def State.toBank (s : State) : Event → Option Nat
  | .bankRequest r => if paRegion r.pa.toNat = 3 then none else some (s.bankOf r.who.pid r.pa.toNat)
  | .copySliceLoad sl r => some (16 * sl.toNat + bankIn r.pa.toNat)
  | .barrierArrive m => some (s.bankOf m.who.pid m.pa.toNat)
  | .barrierBytes m => some (s.bankOf m.who.pid m.pa.toNat)
  | .completionPost l _ _ => some (l.toNat / 2 ^ 22)
  | .launchMessageAtHome m => some (16 * s.queueHome m.pid m.queue.toNat + m.queue.toNat)
  | .spawnMemberAdd m => some (m.who.lref.toNat / 2 ^ 22)
  | .spawnMemberRemove m => some (m.who.lref.toNat / 2 ^ 22)
  | .cancelAtObject m => some (m.ref.toNat / 2 ^ 22)
  | _ => none

/-- Is a reply of this bank marked: do 24 or more requests wait in its queue (R219)? -/
def State.marked (s : State) (bank : Nat) : Bool := decide (24 ≤ s.net.countP fun i => s.toBank i == some bank)

/-- Does a scale-up port mark what it answers for a peer: does its egress queue hold 24 or more flits (R219)? -/
def State.portMarked (s : State) (dev : Nat) : Bool :=
  decide (24 ≤ (Tab.get Port.reset s.ports (Config.portOf (BitVec.ofNat 10 dev)).toNat).egress)

/-- The header of a packet of a request as a SYS record shows it (R23, R44): the partition, the kind and number of the source and of the destination,
the class, and the length where the spec gives it: one word of DECR (R307), eight of SPAWN and LAUNCH (R309, R311). The sub-code, and the length of the
other packets, are not in the spec (free values, log 9). -/
def State.header (s : State) (p : Pid) (src dst : Bool × Nat) (cls : Nat) (words : Option Nat) : Word :=
  let dev := ((s.cores.head?.map fun (k : Nat × Core) => k.2.dev).getD 0).toNat
  BitVec.ofNat 64 (dev * 2 ^ 54 + p.toNat * 2 ^ 50 + (if src.1 then 2 ^ 49 else 0) + src.2 * 2 ^ 38 + dev * 2 ^ 28 + (if dst.1 then 2 ^ 27 else 0)
    + dst.2 * 2 ^ 16 + (match words with | some n => (n - 1) * 2 ^ 8 | none => 0) + cls)
    ||| (Config.sysField s.free &&& (if words.isSome then 0xF8 else 0x7F8))

/-- A packet for a slice or a core of another partition is discarded: the destination's kernel has a record with its header (R44). -/
def State.stray (s : State) (sl : Nat) (p : Pid) (src dst : Bool × Nat) (cls : Nat) (words : Option Nat) : State :=
  ({ s with free := s.free + 1 } : State).sysAt sl [10, s.header p src dst cls words]

/-- Where a request comes from, as its bank sees it: a host's port, its translation home, or its core (R22, R183). -/
def State.sourceOf (s : State) (r : MemReq) : Bool × Nat :=
  match r.ret, r.rref with
  | .host h, _ => (true, 1000 + h.toNat)
  | _, some _ => (true, s.home r.who.pid r.who.sid (ptrVa r.fptr))
  | _, none => (false, r.who.core.toNat)

/-- Answer a request of the memory system (R26). -/
def State.reply (s : State) (r : MemReq) (b : RepBody) (marked : Bool) : State :=
  s.emit (.memrepReceive ⟨r.who.core, r.ret, b, r.buoy, marked⟩)

/-- The landed notice of a late-translated request (R183). -/
def State.landed (s : State) (r : MemReq) : State :=
  match r.rref with
  | some x => s.emit (.landedNotice (BitVec.ofNat 6 (s.lineSlice r.who.pid r.pa.toNat)) x)
  | none => s

/-- A pointer word moved by some bytes: the address of a byte of a request. -/
def fptrAt (p : Word) (i : Nat) : Word := mkPtr (field p 56 8) (ptrVa p + i)

/-- The byte a fault of a whole request names: its first. -/
def reqFault (code : Code) (r : MemReq) : RepBody := .fault code r.fptr

/-- Does an operation write its line? -/
def opWrites : BankOp → Bool
  | .load => false
  | _ => true

/-- Does a read take poisoned granules as they are? A copy does, for it writes them poisoned (R158). -/
def takesPoison (r : MemReq) : Bool := match r.ret with | .cx _ _ _ => true | _ => false

/-- What the pipeline does to a line that it holds, and its answer (R147, R158, R159, R281 to R286). A line under another key raises POISON
and stays unchanged (R156), and so does one whose poisoned bytes BUPD would read for every byte of a granule. The line's check is verified first (R157). A write to a
part of a poisoned granule leaves the line as it is (R279), but for a copy (R376). -/
def opLine (l : CLine) (r : MemReq) (ov : Line → Line) : CLine × RepBody :=
  let bm := reqMask r
  let off := r.pa.toNat % 64
  let l := l.checked
  let wr (x : Line) (m : BitVec 64) : CLine × RepBody :=
    let (d, p, wp) := mergeLine l.data l.poi x m
    let copies : Bool := match r.op with | .copy _ => true | _ => false
    if wp && !copies then (l, reqFault cWpoison r)
    else ({ l with data := d, poi := p, dirty := true, chk := lineCheck d }, if wp then reqFault cWpoison r else .ok)
  if l.key ≠ r.key then (l, reqFault cPoison r)
  else match r.op with
    | .load =>
      match (if takesPoison r then none else firstPoison l.poi bm) with
      | some i => (l, .fault cPoison (fptrAt r.fptr (i - off)))
      | none => (l, .data r.fptr r.n (BitVec.ofNat 512 (lineBits (ov l.data) off r.n)) l.poi)
    | .store => wr (reqLine r) bm
    | .copy p => let (l', b) := wr (reqLine r) bm; ({ l' with poi := l'.poi ||| p }, b)
    | .atom k t c d =>
      let n := tyBits t / 8
      match firstPoison l.poi bm with
      | some i => (l, .fault cPoison (fptrAt r.fptr (i - off)))
      | none =>
        let old := lineBits l.data off n
        let x : Line := BitVec.ofNat 512 (atomNew k t old c d * 256 ^ off)
        ((wr x bm).1, .data r.fptr n (BitVec.ofNat 512 old) 0)
    | .bred k t =>
      let n := tyBits t / 8
      wr (BitVec.ofNat 512 (updElem k t (lineBits l.data off n) (lineBits r.data 0 n) * 256 ^ off)) bm
    | .bupd k t mask =>
      let m := bupdMask t mask
      if k ≠ .set ∧ ((l.poi.getLsbD 0 && fullGranule m 0) || (l.poi.getLsbD 1 && fullGranule m 1)) = true then (l, reqFault cPoison r)
      else wr (bupdLine k t mask l.data r.data) m
    | .barinit a b => wr (barinitLine l.data a b) barinitMask
    | .discard => (l, .ok)

/-- The four words of a quantum entry (R205). -/
def QEnt.words (e : QEnt) : List Word :=
  let w := putField (putField (putField 0 63 1 1) 52 11 e.core.toNat) 49 3 e.op.toNat
  [putField (putField (putField (putField w 47 2 e.type.toNat) 39 8 e.bmask.toNat) 37 2 e.q.toNat) 21 16 e.seq.toNat,
    putField 0 32 32 e.lref.toNat, e.pa.setWidth 64, e.data]

/-- The migration entry of a frame of a host or a peer (R416). -/
def State.migr (s : State) (p : Pid) (a : Nat) : Migr := Tab.get .reset (s.slice (s.lineSlice p a)).migr (a / 4096)

/-- Where a line stands: a migrated frame's lines stand in the migration area, but for those that a snoop has taken back to the host (R415). -/
def State.homeAddr (s : State) (p : Pid) (a : Nat) : Nat :=
  if paRegion a = 4 ∨ paRegion a = 3 then
    let m := s.migr p a
    match m.area with
    | some f => if m.owed.contains (a / 64) then a else 4096 * f + a % 4096
    | none => a
  else a

/-- The place of the line of an address: a migrated frame's line has the place of its address in the migration area (R416, R439). -/
def State.homePlace (s : State) (p : Pid) (a : Nat) : Nat :=
  let b := s.homeAddr p a
  placeOf (s.lineSlice p b) (b / 64)

/-- The entries that a close at a bank has still to commit, in order: those of its quantum, or at the launch's end quantum by quantum from its open
one (R206, R289). -/
def State.closing (s : State) (bank : BitVec 10) (l : ObjRef) (q : BitVec 2) (last : Bool) : List QEnt :=
  let mine (k : BitVec 2) : List QEnt := qSort (s.qbuf.filter fun e => e.bank == bank && e.lref == l && e.q == k)
  if last then (List.range 4).flatMap fun i => mine (q + BitVec.ofNat 2 i) else mine q

/-- The record of a line check that a fill has failed, at the kernel of the line's slice (R156). -/
def State.checkFailed (s : State) (ln : Nat) : State := s.sysAt (64 * ln / 2 ^ 33 % 64) [11, BitVec.ofNat 64 ln]

/-- A commit that meets a fault marks the launch and reports the entry (R447). -/
def State.commitBad (s : State) (e : QEnt) (code : Code) : State :=
  (s.emit (.faultMark e.lref)).sysRec e.pid (2 :: putField 0 0 16 code.toNat :: e.words)

/-- A request that is performed at its bank at once, without the waits that a queue would give it: its answer, and the state after it. -/
def State.performNow (s : State) (r : MemReq) : State × RepBody :=
  let a := r.pa.toNat
  let pl := s.homePlace r.who.pid a
  if s.paBad a then (s, reqFault cPaFault r)
  else if s.isLost a then (s, reqFault cHosthomeLost r)
  else if !s.keyOk r.key r.who.pid then (s, reqFault cKeyEmpty r)
  else match s.getLine pl r.key with
    | .error c => ((if (s.queued pl).isNone then s.checkFailed (placeLine pl) else s), reqFault c r)
    | .ok l => let (l', b) := opLine l r id; (s.installLine l', b)

/-- Commit one quantum entry (R206, R447): a fault marks the launch and reports the entry. A part of a poisoned granule leaves it poisoned. -/
def State.commit (s : State) (e : QEnt) : State :=
  let op : BankOp := match e.op.toNat with
    | 1 => .bred .add (if e.type = 0 then .i32 else if e.type = 1 then .i64 else .f32)
    | 2 => .bred .min (if e.type = 0 then .i32 else if e.type = 1 then .i64 else .f32)
    | 3 => .bred .max (if e.type = 0 then .i32 else if e.type = 1 then .i64 else .f32)
    | _ => .store
  let n := match op with | .bred _ t => tyBits t / 8 | _ => 8
  let r : MemReq := ⟨⟨e.core, 0, 0, e.pid, e.lref, 0⟩, op, e.pa, n, e.data.setWidth 512,
    (match op with | .bred _ _ => BitVec.allOnes 64 | _ => e.bmask.setWidth 64), 0, e.key, false, 0, 0, none, .step, none, 0⟩
  match s.performNow r with
  | (t, .fault c _) => t.commitBad e c
  | (t, _) => t

end Sys2Proof.Machine
end

