-- ==== Sys2Proof/Machine/Request.lean ====
section
/-! DEFINITION. How a core reaches memory: the mooring check (R192), translation at the ATC (R182), the requests of an access (R272, R273,
R448), the path interlock (R228), the retention buffer (R196), instruction fetch (R80, R81, R153), and the core's part in answers. -/

namespace Sys2Proof.Machine

/-! ## Mooring -/

/-- The first mooring entry that a range of the running task's space meets. -/
def State.moorHit (s : State) (lo hi : Nat) : Option Nat :=
  let sid := s.myEnt.sid
  (List.range 16).find? fun i => let m := s.me.moorAt i; m.v && m.sid == sid && decide (m.lo ≤ hi) && decide (lo ≤ m.hi)

/-- RANGE_LOCKED, naming the entry met (R192, R392). -/
def State.moorOk (s : State) (lo hi : Nat) (first : Word) : Try Unit :=
  match s.moorHit lo hi with
  | some i => .error (.fault cRangeLocked (BitVec.ofNat 32 i) first)
  | none => .ok ()

/-! ## The ATC -/

/-- Does an entry or record with this page cover an address? -/
def covers (psz : BitVec 3) (vpn : BitVec 44) (va : Nat) : Bool :=
  va / 2 ^ pageShift psz == vpn.toNat * 4096 / 2 ^ pageShift psz

def atcHit (e : AtcEntry) (sid : Sid) (va : Nat) : Bool := e.v && e.sid == sid && covers e.psz e.vpn va

def Core.atcFind (k : Core) (sid : Sid) (va : Nat) : Option AtcEntry := k.atc.find? fun e => atcHit e sid va

def atcPa (e : AtcEntry) (va : Nat) : Nat := e.ppn.toNat * 4096 + va % 2 ^ pageShift e.psz

/-- Do rights include what an access needs? -/
def hasRights (rts need : BitVec 4) : Bool := rts &&& need == need

/-- Translate an address at the ATC for an access that needs some rights (R182): a miss takes a step from the home's buoy and the head waits for
its answer; a missing right is NO_RIGHT, but under host-assisted page-fault service the home is asked, which records the access and holds it (R189,
log 39). `kind` is the slice-fault kind (R200). -/
def State.translateFor (s : State) (va : Nat) (need : BitVec 4) (fptr : Word) (kind : BitVec 3) : Try AtcEntry :=
  let sid := s.myEnt.sid
  let ask : Try AtcEntry :=
    match s.me.hold with
    | some ⟨0, _, some (.fault c a)⟩ => .error (.fault c 0 a)
    | some ⟨0, _, _⟩ => .error .stall
    | _ =>
      match s.needStep (BitVec.ofNat 7 (s.home s.me.part sid va)) (.space s.myIdx (.held s.myIdx) fptr) with
      | .error t => .error t
      | .ok (t, x) =>
        let t := t.modCore t.cur fun k => let y := k.count 7; { y with hold := some ⟨0, [], none⟩ }
        .error (.wait (t.emit (.translationMiss ⟨s.who, fptr, need, kind, some x, .held s.myIdx⟩)))
  match s.me.atcFind sid va with
  | some e => if hasRights e.rts need then .ok e else if s.mode s.me.part 1 then ask else .error (.fault cNoRight 0 fptr)
  | none => ask

/-- Translate an address for an access that needs one right. -/
def State.translate (s : State) (va right : Nat) (fptr : Word) (kind : BitVec 3) : Try AtcEntry :=
  s.translateFor va (BitVec.ofNat 4 (2 ^ right)) fptr kind

/-- The bytes that a translated read adds to the core's range-log counters (R223). -/
def logBytes (e : AtcEntry) (n : Nat) : List (Nat × Nat) := if e.loge then [(e.logr.toNat, n)] else []

/-- Add to the read counters, which saturate at 32 bits; they count only while the descriptor is defined (R223, R427). -/
def State.addLog (s : State) (c : CoreId) (l : List (Nat × Nat)) : State :=
  let p := (s.core c).part
  l.foldl (fun s x =>
    if bit (((Tab.get [] (s.slice (s.kernel p)).rdesc x.1 : List Word)).getD 0 0) 63 then
      s.modCore c fun k =>
        let n := min (2 ^ 32 - 1) ((Tab.get 0 k.rlog x.1).toNat + x.2)
        { k with rlog := Tab.set k.rlog x.1 (BitVec.ofNat 32 n) }
    else s) s

/-! ## The requests of an access -/

/-- A part of an access that lies in one line, or in one aligned word of a DET page (R272): first byte, span, and the bytes it needs. -/
structure Piece where
  a  : Nat
  n  : Nat
  bm : BitVec 64
  deriving DecidableEq, Repr

/-- Add a byte to the pieces, the last piece first. -/
def addByte (unit : Nat) (ps : List Piece) (b : Nat) : List Piece :=
  match ps with
  | p :: r =>
    if p.a / unit = b / unit then ⟨p.a, b - p.a + 1, p.bm ||| BitVec.ofNat 64 (2 ^ (b - p.a))⟩ :: r else ⟨b, 1, 1⟩ :: p :: r
  | [] => [⟨b, 1, 1⟩]

/-- The pieces of ascending byte addresses. -/
def pieces (unit : Nat) (bs : List Nat) : List Piece := (bs.foldl (addByte unit) []).reverse

/-- The number of a path's translation unit: the addresses whose VA[55:21] agree (R228). -/
def unitOf (va : Nat) : Nat := va / 2 ^ 21

/-- An access on its path: space, VA, first receiver, and whether it writes (R228). -/
structure Path where
  sid : Sid
  va  : Nat
  rcv : Nat
  wr  : Bool
  deriving DecidableEq, Repr

/-- The first receiver of a request: its translation home, as the number 4096, when it is translated there (R228). -/
def State.rcvOf (s : State) (c : CoreId) (r : MemReq) : Nat :=
  match r.ret with
  | .retained _ => 4096
  | _ => s.receiver c r.who.pid r.pa.toNat (match r.op with | .load => true | _ => false) r.det

def State.pathOf (s : State) (c : CoreId) (r : MemReq) : Path := ⟨r.who.sid, ptrVa r.fptr, s.rcvOf c r, opWrites r.op⟩

/-- The further requests of a core's heads that have not left yet (R448). -/
def State.unsent (s : State) (c : CoreId) : List Path := (((s.core c).late.flatten ++ (s.core c).loads.flatMap (·.todo)).map (s.pathOf c))

/-- The accesses of a core that are under way; requests that have not left count as sent (R228, R448). -/
def State.under (s : State) (c : CoreId) : List Path :=
  ((s.core c).owed.filterMap fun x => match x.2 with
    | .mem y | .arrive _ y => some ⟨y.sid, ptrVa y.fptr, y.rcv, y.wr⟩
    | _ => none) ++ s.unsent c

/-- Do two accesses leave for the same first receiver (R228)? -/
def State.samePath (s : State) (c : CoreId) (x y : Path) : Bool :=
  let home (z : Path) : Nat := s.home (s.core c).part z.sid z.va
  x.rcv == y.rcv && (x.rcv != 4096 || home x == home y)

/-- The path interlock of R228: no access under way has the same unit and another first receiver, one of the two being a write; and what has not left yet
for the same first receiver leaves first, so that a same-bank pair stays in order. -/
def State.pathOk (s : State) (c : CoreId) (x : Path) : Bool :=
  (s.under c).all (fun y => !(y.sid == x.sid && unitOf y.va == unitOf x.va && y.rcv != x.rcv && (y.wr || x.wr)))
    && (s.unsent c).all fun y => !s.samePath c y x

/-- An access of the running task waits at issue for its path (R228). -/
def State.pathFree (s : State) (va rcv : Nat) (write : Bool) : Try Unit := ready (s.pathOk s.cur ⟨s.myEnt.sid, va, rcv, write⟩)

/-- The same for a late-translated access, whose first receiver is its home. -/
def State.latePathFree (s : State) (va : Nat) : Try Unit := s.pathFree va 4096 true

/-- A request as an access under way. -/
def State.accessOf (s : State) (c : CoreId) (r : MemReq) : Access := ⟨r.who.hidx, r.ret, r.fptr, r.who.sid, s.rcvOf c r, opWrites r.op⟩

/-- A request takes a step, for which something is owed. The caller knows that there is one. -/
def State.stepFor (s : State) (c : CoreId) (r : MemReq) (o : Owed) : MemReq × State :=
  match r.buoy with
  | some x => ({ r with buoy := some (s.stepOf c x.b) }, s.takeStep c x.b o)
  | none => (r, s)

/-- A request takes what it needs to leave, and is under way (R26, R228). -/
def State.withStep (s : State) (c : CoreId) (r : MemReq) : MemReq × State := s.stepFor c r (.mem (s.accessOf c r))

/-- A request that took its step before is under way when it leaves (R228, R342). -/
def State.underWay (s : State) (c : CoreId) (r : MemReq) : State :=
  s.modCore c fun k => { k with owed := k.owed.map fun x => if some x.1 = r.buoy then (x.1, .mem (s.accessOf c r)) else x }

/-- Is a request a CX write of the core whose scratchpad it reaches? -/
def ownCopy (r : MemReq) : Bool :=
  opWrites r.op && (match r.ret with | .cx _ _ _ => true | _ => false) && r.who.core.toNat == r.pa.toNat / 2 ^ 19 % 2048

/-- What an access at a core's scratchpad port does through its window, and its answer (R145): a write into a register image is discarded and reported
(R119). -/
def State.windowOp (s : State) (r : MemReq) : State × RepBody :=
  let a := r.pa.toNat
  let k := s.core (BitVec.ofNat 11 (a / 2 ^ 19))
  if s.paBad a then (s, reqFault cPaFault r)
  else if s.sealedHit (BitVec.ofNat 11 (a / 2 ^ 19)) (a % 2 ^ 19) r.n && !ownCopy r then (s, reqFault cNoRight r)
  else if opWrites r.op && k.imageHit none (a % 2 ^ 19) r.n then (s, reqFault cWsprot r)
  else
    let ln := a / 64
    let d := s.memLine ln
    let (l, b) := opLine ⟨ln, d, r.key, false, s.poiAt ln, lineCheck d, 0, false, 0, false⟩ r id
    (if opWrites r.op then (s.setMemLine ln l.data).setPoi ln l.poi else s, b)

/-- An access at a core's scratchpad port, answered. -/
def State.windowDo (s : State) (r : MemReq) : State :=
  let (t, b) := s.windowOp r
  (t.reply r b false).landed r

/-- A request leaves for its first receiver (R145, R228); one to the core's own scratchpad is performed in program order (R230); one to a peer goes to its port. -/
def State.dispatch (s : State) (r : MemReq) : State :=
  let a := r.pa.toNat
  if s.paBad a then s.reply r (reqFault cPaFault r) false
  else if s.isLost a then s.reply r (reqFault cHosthomeLost r) false
  else match paRegion a with
    | 1 => if a / 2 ^ 19 % 2048 = r.who.core.toNat then s.windowDo r else s.emit (.windowAccess ⟨r⟩)
    | 2 => s.reply r (.data r.fptr r.n 0 0) false
    | 3 => s.emit (.bankRequest r)
    | _ =>
      let rc := s.receiver r.who.core r.who.pid a (match r.op with | .load => true | _ => false) r.det
      if 2048 ≤ rc then s.emit (.copySliceLoad (BitVec.ofNat 6 rc) r) else s.emit (.bankRequest r)

/-- The pieces of an access with their translations, lowest first (R100, R272): a piece in a DET page is split at aligned words. -/
def State.transPieces (s : State) (tag right : Nat) (kind : BitVec 3) : List Piece → Try (List (Piece × AtcEntry))
  | [] => .ok []
  | p :: r => do
    let e ← s.translate p.a right (mkPtr tag p.a) kind
    let ps := if e.det then pieces 8 (((List.range p.n).filter fun i => p.bm.getLsbD i).map (p.a + ·)) else [p]
    let rest ← s.transPieces tag right kind r
    return ps.map (fun q => (q, e)) ++ rest

/-- The request for one translated piece. -/
def State.loadReq (s : State) (tag : Nat) (op : BankOp) (ret : Ret) (x : Piece × AtcEntry) : MemReq :=
  let a := atcPa x.2 x.1.a
  ⟨s.who, op, BitVec.ofNat 56 a, x.1.n, 0, x.1.bm, mkPtr tag x.1.a, x.2.key, x.2.det, 0, 0,
    some ⟨receiverBuoy a (s.receiver s.cur s.me.part a (match op with | .load => true | _ => false) x.2.det), 0⟩, ret, none, 0⟩

/-- The same read without overlay: it names no launch, so no entry of a quantum buffer is its own (R276, R280, R375). -/
def asCommitted (r : MemReq) : MemReq := { r with who.lref := 0xFFFFFFFF }

/-- Send an outstanding load's further requests in ascending order while their buoys have steps (R448). -/
def State.pumpReqs (s : State) (c : CoreId) (id : Nat) : List MemReq → State
  | [] => s
  | r :: rest =>
    if (s.core c).hasStep r.buoy then
      let (r, s) := s.withStep c r
      let s := s.modCore c fun k => { k with loads := k.loads.map fun x =>
        if x.id = id then { x with todo := x.todo.drop 1, owed := x.owed + 1 } else x }
      (s.dispatch r).pumpReqs c id rest
    else s

def State.pumpLoads (s : State) (c : CoreId) : State := (s.core c).loads.foldl (fun s x => s.pumpReqs c x.id x.todo) s

/-- A head parks when the buoy of its first request stands at 0 (R167, R448). -/
def State.firstStep (s : State) (reqs : List MemReq) : Try Unit :=
  match reqs.head?.bind fun r => r.buoy.bind (·.b) with
  | some b => if (s.me.buoy b).val = 0 then .error (.park b) else .ok ()
  | none => .ok ()

/-- Issue the requests of a load or atomic (R273, R274): ORC, the first step, the outstanding record. `mk` makes the record from its name. -/
def State.issueLoad (s : State) (counts : Bool) (reqs : List MemReq) (mk : Nat → Outst) : Try State := do
  ready (!counts || decide (s.me.orc < 64))
  s.firstStep reqs
  let id := s.me.ids + 1
  let o := mk id
  let s := s.modCore s.cur fun k => { k with
    ids := id, orc := if counts then k.orc + 1 else k.orc
    loads := k.loads ++ [{ o with cnt := counts, todo := reqs.map fun r => { r with ret := .load id } }] }
  return s.pumpReqs s.cur id (reqs.map fun r => { r with ret := .load id })

/-! ## Late-translated requests -/

/-- Send one late-translated request to its home and keep its copy (R183, R196). The caller knows that there is a step and a place. -/
def State.sendLate (s : State) (c : CoreId) (r : MemReq) : State :=
  let (r, s) := s.withStep c r
  let id := match r.ret with | .retained id => id | _ => 0
  (s.modCore c fun k => { k with srb := k.srb ++ [⟨id, r, false, true⟩] }).emit (.lateRequestAtHome r)

/-- Send what can be sent of a head's requests, in ascending order; what cannot is kept (R448). -/
def State.sendMany (s : State) (c : CoreId) : List MemReq → State
  | [] => s
  | r :: rest =>
    if decide ((s.core c).srb.length < 64) && (s.core c).hasStep r.buoy then (s.sendLate c r).sendMany c rest
    else s.modCore c fun k => { k with late := k.late ++ [r :: rest] }

/-- Send what can be sent of what heads have kept. -/
def State.pumpLate (s : State) (c : CoreId) : State :=
  let l := (s.core c).late
  l.foldl (fun s r => s.sendMany c r) (s.modCore c fun k => { k with late := [] })

/-- Name the requests of a head in their order. -/
def nameLate (n : Nat) : List MemReq → List MemReq
  | [] => []
  | r :: rest => { r with ret := .retained n } :: nameLate (n + 1) rest

/-- Issue a late-translated head's requests: it stalls for the first request's place and parks on its step (R196, R448). -/
def State.issueLate (s : State) (reqs : List MemReq) : Try State := do
  ready (reqs.isEmpty || decide (s.me.srb.length < 64))
  s.firstStep reqs
  let l := nameLate (s.me.ids + 1) reqs
  return (s.modCore s.cur fun k => { k with ids := k.ids + reqs.length }).sendMany s.cur l

/-- The record of a space that covers an address, if it is not a stub's (R178); a stub answers from its own fields (R179). -/
def State.recFind (s : State) (home : Nat) (sid : Sid) (va : Nat) : Option (Nat × DRec) :=
  s.recs.find? fun x => x.1 / 2 ^ 15 == home && x.2.sid == sid && covers x.2.psz x.2.vpn va

/-- Is an address in a page whose record has the DET attribute (R178)? -/
def State.detAt (s : State) (sid : Sid) (va : Nat) : Bool :=
  match s.recFind (s.home s.me.part sid va) sid va with
  | some x => x.2.det
  | none => false

/-- A late-translated request of the running task for the bytes of a piece; `kind` is the SFQ kind (R197). -/
def State.lateReq (s : State) (tag : Nat) (op : BankOp) (kind : BitVec 3) (data : Line) (p : Piece) : MemReq :=
  let w := s.who
  ⟨w, op, 0, p.n, data, p.bm, mkPtr tag p.a, 0, false, BitVec.ofNat 2 s.myEnt.qnum.toNat, 0,
    some ⟨some (BitVec.ofNat 7 (s.home w.pid w.sid p.a)), 0⟩, .retained 0, none, kind⟩

/-- Number the DET requests of a head in issue order (R205). -/
def State.numberDet (s : State) : List MemReq → List MemReq × State
  | [] => ([], s)
  | r :: rest =>
    if s.detAt r.who.sid (ptrVa r.fptr) && isDetOp r.op then
      let (l, t) := (s.modCore s.cur fun k => { k with detSeq := k.detSeq + 1 }).numberDet rest
      ({ r with seq := s.me.detSeq } :: l, t)
    else
      let (l, t) := s.numberDet rest
      (r :: l, t)

/-- Has the running task a late-translated request under way to its own core's scratchpad? Accesses to it are kept in program order (R230). -/
def State.ownPending (s : State) : Bool :=
  let own (r : MemReq) : Bool := r.who.hidx == s.myIdx && (match s.recFind (s.home r.who.pid r.who.sid (ptrVa r.fptr)) r.who.sid (ptrVa r.fptr) with
    | some x => paRegion (x.2.ppn.toNat * 4096) == 1 && x.2.ppn.toNat * 4096 / 2 ^ 19 % 2048 == s.cur.toNat
    | none => false)
  s.me.srb.any (fun x => own x.req) || s.me.late.flatten.any own
    || s.me.vxq.any fun x => x.hidx == s.myIdx && (match x.i with | .vst _ => x.ws | _ => false)

/-! ## Scratchpad lines -/

/-- The bytes of a scratchpad line with their poison. -/
def State.spadLine (s : State) (a : Nat) : Line × BitVec 2 := (s.memLine (a / 64), s.poiAt (a / 64))

/-! ## Instruction fetch -/

/-- A line of the read-only cache is checked on each use (R153, R157). -/
def RoLine.checked (l : RoLine) : RoLine := if l.chk = lineCheck l.data then l else { l with poi := 3 }

/-- The line of the read-only cache that holds a PA line. -/
def Core.roFind (k : Core) (ln : Nat) : Option RoLine := (k.ro.find? fun l => l.ln == ln).map RoLine.checked

/-- Put a line first into the read-only cache; a set holds 8 ways (R153). The spec does not say which bits of the PA choose the set: the model takes
PA[11:6] (DESIGN CHOICE, log 60). -/
def roPut (ro : List RoLine) (l : RoLine) : List RoLine :=
  let set := ro.filter fun x => x.ln % 64 == l.ln % 64 && x.ln != l.ln
  let rest := ro.filter fun x => x.ln != l.ln
  l :: (match (if set.length < 8 then none else set.getLast?) with
    | some v => rest.filter fun x => x.ln != v.ln
    | none => rest)

/-- A fetch fault is delivered with the code of its cause, detail bit 31 and the line's address (R393). -/
def fetchFault (va : VA) : Trap → Trap
  | .fault c _ _ => .fault c 0x80000000 (vaWord va)
  | t => t

/-- Ask for a line of code at its first receiver (R153, R228): the task waits for it. -/
def State.fetchMiss (s : State) (va : VA) (e : AtcEntry) : Try (Line × State) := do
  let a := atcPa e va.toNat
  let rcv := s.receiver s.cur s.me.part a true e.det
  s.pathFree va.toNat rcv false
  let req := asCommitted (s.loadReq 0 .load (.load 0) (⟨va.toNat, 64, 0⟩, e))
  let t ← s.issueLoad false [req] fun id =>
    ⟨id, s.myIdx, s.me.blk, false, 0, .i64, vaWord va, false, 0, s.me.pc, [], [], 0, none, [], [(va.toNat, a / 64)], [], false, true, true⟩
  .error (.wait (t.modCore t.cur fun k => { k with hold := some ⟨9, [BitVec.ofNat 64 (s.me.ids + 1)], none⟩ }))

/-- Fetch the line at a VA through the ATC and the read-only cache (R80, R81, R153); its bytes count as read (R223). -/
def State.fetch (s : State) (va : VA) : Try (Line × State) :=
  match s.translate va.toNat rExec (vaWord va) 1 with
  | .error t => .error (fetchFault va t)
  | .ok e =>
    match s.me.hold with
    | some ⟨9, _, some (.fault c _)⟩ => .error (fetchFault va (.fault c 0 0))
    | some ⟨9, _, _⟩ => .error .stall
    | _ =>
      match s.me.roFind (atcPa e va.toNat / 64) with
      | some l =>
        if l.poi = 0 then .ok (l.data, (s.addLog s.cur (logBytes e 64)).modCore s.cur fun k => { k with ro := roPut k.ro l }) else .error (fetchFault va (.fault cPoison 0 0))
      | none => s.fetchMiss va e

/-- The check of a branch target (R78) and the line it lies in, which is fetched when it is another line. The target's form is checked first, so that
an odd target and one at offset 0 fetch nothing (log 59). A line that is not well-formed raises ILLEGAL_LINE when it is entered, before any
fault of the target in it (R92). -/
def State.target (s : State) (va : VA) : Try (Line × State) := do
  must (va.toNat % 2 == 0 && va.toNat % 64 != 0) cIllegalTarget (vaWord va)
  let (l, t) ← (match s.me.line with
    | some l => if pcLine va = pcLine s.me.pc then .ok (l, s) else s.fetch (pcLine va)
    | none => s.fetch (pcLine va) : Try (Line × State))
  must (!lineOk l || decide (pcIdx va ≤ headCount l)) cIllegalTarget (vaWord va)
  return (l, t)

end Sys2Proof.Machine
end

