-- ==== Sys2Proof/Machine/Control.lean ====
section
/-! DEFINITION. Control transfer (R262 to R267) and the trap heads (R317). In a gang the leader alone decides a branch (R59, R267): a follower
goes on to the next head it is given. -/

namespace Sys2Proof.Machine

/-- The target of a branch: half-words from the branch head (R78, R262). One below 0 or past 2^56 - 1 wraps modulo 2^56 (DESIGN CHOICE, log 59). -/
def branchVa (pc : VA) (off : BitVec 19) : VA := pc + 2 * off.signExtend 56

/-- A transfer to a target that R78 accepts. -/
def State.goTo (s : State) (va : VA) : Try State := do
  let (l, t) ← s.target va
  return t.jump va (some l)

/-- A branch on a condition; one not taken checks no target (R262). One that holds its task has been taken: it waits for the line of its target, and its
condition, fixed when it issued, is not tested again. -/
def State.branch (s : State) (touch : Try Unit) (taken : Bool) (off : BitVec 19) : Host.Outcome State Fault Refusal :=
  finish s (if s.myEnt.g then .ok s.advance else do
    if s.me.hold.isNone then touch
    if taken || s.me.hold.isSome then s.goTo (branchVa s.me.pc off) else .ok s.advance)

/-- The PC of the next head in sequence of the running task (R77). -/
def State.nextHead (s : State) : VA := nextPc s.me.pc ((s.me.line.map headCount).getD 0)

def execBr (off : BitVec 19) (s : State) : Host.Outcome State Fault Refusal := s.branch (.ok ()) true off

/-- CALL writes LINK with the PC of the next head; the target is checked first (R78, R263). A follower's LINK takes the leader's value. -/
def execCall (off : BitVec 19) (s : State) : Host.Outcome State Fault Refusal :=
  finish s (
    let link := vaWord s.nextHead
    if s.myEnt.g then .ok (s.setWsW offLink link).advance
    else do
      let (l, t) ← s.target (branchVa s.me.pc off)
      return (t.setWsW offLink link).jump (branchVa s.me.pc off) (some l))

/-- A transfer to a register's value (R263). -/
def State.goReg (s : State) (touch : Try Unit) (w : Word) : Host.Outcome State Fault Refusal :=
  finish s (if s.myEnt.g then .ok s.advance else do
    touch
    s.goTo (w.setWidth 56))

def execRet (s : State) : Host.Outcome State Fault Refusal := s.goReg (.ok ()) (s.wsW offLink)
def execJr (b : GReg) (s : State) : Host.Outcome State Fault Refusal := s.goReg (s.touchG b) (s.g b)

/-- A branch that compares two registers (R264). -/
def State.branch2 (s : State) (o : BrrOp) (f : Word → Word → Bool) : Host.Outcome State Fault Refusal :=
  s.branch (s.touchG o.a >>= fun _ => s.touchG o.b) (f (s.g o.a) (s.g o.b)) o.off

def execBeq (o : BrrOp) (s : State) : Host.Outcome State Fault Refusal := s.branch2 o (· == ·)
def execBne (o : BrrOp) (s : State) : Host.Outcome State Fault Refusal := s.branch2 o (· != ·)
def execBltI64 (o : BrrOp) (s : State) : Host.Outcome State Fault Refusal := s.branch2 o fun x y => x.slt y
def execBgeI64 (o : BrrOp) (s : State) : Host.Outcome State Fault Refusal := s.branch2 o fun x y => !x.slt y
def execBz (a : GReg) (off : BitVec 19) (s : State) : Host.Outcome State Fault Refusal := s.branch (s.touchG a) (s.g a == 0) off
def execBnz (a : GReg) (off : BitVec 19) (s : State) : Host.Outcome State Fault Refusal := s.branch (s.touchG a) (s.g a != 0) off
def execBltZ64 (o : BrrOp) (s : State) : Host.Outcome State Fault Refusal := s.branch2 o fun x y => x.ult y
def execBgeZ64 (o : BrrOp) (s : State) : Host.Outcome State Fault Refusal := s.branch2 o fun x y => !x.ult y

def execBall (p : PReg) (n : Byte) (off : BitVec 19) (s : State) : Host.Outcome State Fault Refusal :=
  s.branch (s.touchP p) (allLow (s.p p) n.toNat) off
def execBany (p : PReg) (n : Byte) (off : BitVec 19) (s : State) : Host.Outcome State Fault Refusal :=
  s.branch (s.touchP p) (anyLow (s.p p) n.toNat) off
def execBp (p : PReg) (off : BitVec 19) (s : State) : Host.Outcome State Fault Refusal := s.branch (s.touchP p) (bit (s.p p) 0) off
def execBnp (p : PReg) (off : BitVec 19) (s : State) : Host.Outcome State Fault Refusal := s.branch (s.touchP p) (!bit (s.p p) 0) off

/-- BBY: a snapshot of a buoy (R51, R266). -/
def execBby (b : BuoyId) (lvl : BitVec 6) (off : BitVec 19) (s : State) : Host.Outcome State Fault Refusal :=
  s.branch (.ok ()) (decide (lvl.toNat ≤ (s.me.buoy b).val)) off

/-- A handle that only needs to be bound (R266, R301). -/
def State.bound (s : State) (h : Handle) : Try Unit := if bit (s.h h) 63 then .ok () else .error (badHandle h)

/-- The handle of BCF and BEOS, whose fault in a gang is the leader's (R400). -/
def State.boundB (s : State) (h : Handle) : Try Unit :=
  if bit (s.h h) 63 then .ok () else .error (.wait (s.faultAll cBadHandle (h.setWidth 32) 0))

/-- BCF: a snapshot of a channel's count (R266). -/
def execBcf (h : Handle) (n : Byte) (off : BitVec 19) (s : State) : Host.Outcome State Fault Refusal :=
  s.branch (s.boundB h) (decide (n.toNat ≤ (s.me.chan (s.chanOf h)).fill)) off

/-- BEOS: did the word last consumed close its stream (R49, R266)? -/
def execBeos (h : Handle) (off : BitVec 19) (s : State) : Host.Outcome State Fault Refusal :=
  s.branch (s.boundB h) (bit (s.h h) 62) off

/-! ## Traps (R317) -/

/-- TRAP: the saved PC is the head after it (R395). -/
def execTrap (o : GiOp) (s : State) : Host.Outcome State Fault Refusal :=
  finish s (s.guarded o.q do
    let (n, t) ← s.readAlone o.c
    if s.myEnt.ganged then .error (.wait (t.faultHere cTrap (n.setWidth 32) 0 t.me.pc))
    else .ok (t.deliver t.cur t.myIdx cTrap true (pcIdx t.me.pc) (n.setWidth 32) 0 t.nextHead t.me.pc))

/-- RFT: the end of fault service; outside it the head is illegal (R317, R397). -/
def execRft (s : State) : Host.Outcome State Fault Refusal :=
  finish s do
    must s.inFault cIllegalOp 0
    return s.rft

/-- BKPT: a precise trap whose saved PC is its own. -/
def execBkpt (s : State) : Host.Outcome State Fault Refusal := finish s (.error (.fault cBkpt 0 0))

def execNop (s : State) : Host.Outcome State Fault Refusal := finish s (.ok s.advance)

end Sys2Proof.Machine
end

