-- ==== Sys2Proof/Machine/Waits.lean ====
section
/-! DEFINITION. What a task has under way, for fences and releases (R231, R234), the reports of waiting members (R208), the store-fault
queue (R197 to R199), and the heads that hold their task until an answer (R274, R281, R296). -/

namespace Sys2Proof.Machine

/-! ## Accesses under way -/

/-- Loads and atomics whose value has not returned. -/
def State.loadsOut (s : State) : Bool := s.me.loads.any fun x => x.hidx == s.myIdx

/-- Late-translated requests that are not complete (R279). -/
def State.latesOut (s : State) : Bool :=
  s.me.srb.any (fun x => x.req.who.hidx == s.myIdx) || s.me.late.any fun l => l.any fun x => x.who.hidx == s.myIdx

/-- DECRs not yet acknowledged (R307). -/
def State.decrsOut (s : State) : Bool := s.me.decrs.any fun x => x.1 == s.myIdx

/-- Incomplete MX and VX heads. -/
def State.mxvxOut (s : State) : Bool := s.me.mxq.any (fun x => x.hidx == s.myIdx) || s.me.vxq.any (fun x => x.hidx == s.myIdx)

/-- Incomplete VST and MXST heads, which DRAINST counts as late-translated (R342, R355). -/
def State.engStores (s : State) : Bool :=
  s.me.vxq.any (fun x => x.hidx == s.myIdx && (match x.i with | .vst _ => true | _ => false))
    || s.me.mxq.any fun x => x.hidx == s.myIdx && (match x.i with | .mxst _ | .mxstSat _ => true | _ => false)

/-- Incomplete CX transfers. -/
def State.cxOut (s : State) : Bool := s.me.cxAll.any fun x => x.hidx == s.myIdx

/-- The oldest fault held with a pending register of the running task (R275). -/
def State.takeHeld (s : State) : Try Unit :=
  match s.myEnt.held with
  | f :: _ => .error (.held f)
  | [] => .ok ()

/-- The wait of a release (R234), then the faults held by R275. -/
def State.releaseWait (s : State) : Try Unit := do
  ready (!(s.loadsOut || s.latesOut || s.decrsOut || s.mxvxOut))
  s.takeHeld

/-! ## Waiting members (R208) -/

/-- A stall at a head that counts as waiting for R208. -/
def State.waitHere (s : State) : Trap := .wait (s.noteWait s.cur s.myIdx true).stall

/-- A check of a head at which a stall, whatever it is for, counts as waiting (R208). -/
def State.readyW (s : State) (t : Try α) : Try α :=
  match t with
  | .error .stall => .error s.waitHere
  | .error (.wait t) => .error (.wait (t.noteWait t.cur s.myIdx true))
  | x => x

/-! ## The store-fault queue -/

/-- Add a record (R197): for an entry that has ended it goes to the kernel; a ninth record ends its task (R199). TSTAT.drn counts it (R125). -/
def State.addSfq (s : State) (w : Who) (kind : BitVec 3) (code : Code) (fva : Word) : State :=
  let c := w.core
  let e := s.ent c w.hidx
  let r : SfqRec := ⟨kind, w.hidx, w.sid, code, fva, w.lref, w.tix⟩
  let s := s.modCore c fun k => k.count 8
  if !e.v || e.st == 5 || e.lref != w.lref || e.tix != w.tix then s.sysRec w.pid (5 :: sfqWords r)
  else
    let s := s.setWs c e.wpb offTstat (drnUp (s.ws c e.wpb offTstat))
    if (s.core c).sfq.length < 8 then s.modCore c fun k => { k with sfq := k.sfq ++ [r] }
    else (s.sysRec w.pid (5 :: sfqWords r)).terminate c w.hidx .fault

/-! ## Heads that hold their task -/

/-- A head that has issued its work in phase `n` waits for the answer, raises the fault it brings, or ends with it. -/
def State.awaiting (s : State) (n : Nat) (done : List Word → RepBody → Try State) (issue : Try State) : Try State :=
  match s.me.hold with
  | some ⟨m, ws, r⟩ =>
    if m = n then
      match r with
      | none => .error .stall
      | some (.fault c a) => .error (.fault c 0 a)
      | some b => done ws b
    else issue
  | none => issue

/-- The head waits in phase `n` with the words it keeps. -/
def State.holdIn (s : State) (n : Nat) (ws : List Word) : State := s.modCore s.cur fun k => { k with hold := some ⟨n, ws, none⟩ }

/-- Put an answer where the head that holds the task of an entry finds it. -/
def State.answer (s : State) (c : CoreId) (h : Hidx) (b : RepBody) : State :=
  s.modCore c fun k => if k.run == some h then { k with hold := k.hold.map fun x => { x with rep := some b } } else k

end Sys2Proof.Machine
end

