-- ==== Sys2Proof/Machine/MemHeads.lean ====
section
/-! DEFINITION. Loads, stores, atomics, bank operations, barriers, drain and fences (R269 to R292). -/

namespace Sys2Proof.Machine

/-! ## The workspace port (R270) -/

/-- A base-0 access waits for the registers it touches in the running task's image, and for the task's writes on their way to this
scratchpad (R117, R121, R230). -/
def State.wsReady (s : State) (off n : Nat) : Try Unit := do
  ready (!s.ownPending)
  let b := 4096 * s.me.blk.toNat
  if off + n ≤ b then .ok () else s.touchImage (off - b) (n - (b - off))

/-- The byte of the scratchpad that lies in a poisoned granule, if any of the range does (R158). -/
def State.spadPoison (s : State) (off n : Nat) : Option Nat :=
  ((List.range n).map (off + ·)).find? fun o => s.poison.contains (spad s.cur o / 32)

/-- The first failure, in rising order of the bytes, of a read of a core's own scratchpad: a byte past its end (R133), in a sealed range (R381) or in a
poisoned granule (R158). The lowest failing byte is named (R272). -/
def State.wsFails (s : State) : List Nat → Try Unit
  | [] => .ok ()
  | b :: r =>
    if 4096 * s.me.sblk.toNat ≤ b then .error (.fault cPaFault 0 (BitVec.ofNat 64 b))
    else if s.sealedHit s.cur b 1 then .error (.fault cNoRight 0 (BitVec.ofNat 64 b))
    else if s.poison.contains (spad s.cur b / 32) then .error (.fault cPoison 0 (BitVec.ofNat 64 b))
    else s.wsFails r

/-- The bits of a word of the register image that its own task may store, and those that a 1 clears (R119, R120 to R130). -/
def imageMask (w : Nat) : Word × Word :=
  if w < 16 then (BitVec.allOnes 64, 0)
  else if w < 32 then (0, 0)
  else if w < 40 then (BitVec.allOnes 64, 0)
  else match w with
    | 41 => (0, 0x8000000000000000)
    | 43 => (BitVec.allOnes 64, 0)
    | 44 => (0x7FFFFFFFFFFFFFFF, 0)
    | 45 => (0x00FFFFFFFFFFFFFF, 0)
    | _ => if w < 48 then (0, 0) else (BitVec.allOnes 64, 0)

/-- One byte stored by the task whose workspace is at block `blk`, at a byte of its core's scratchpad (R119). -/
def State.storeByte (s : State) (c : CoreId) (blk : BitVec 7) (off : Nat) (x : Byte) : State :=
  let b := 4096 * blk.toNat
  let a := spad c off
  if b ≤ off ∧ off < b + imageBytes then
    let i := off - b
    let m := (imageMask (i / 8)).1.extractLsb' (8 * (i % 8)) 8
    let q := (imageMask (i / 8)).2.extractLsb' (8 * (i % 8)) 8
    let old := Mem.read s.mem a
    { s with mem := Mem.write s.mem a (((old &&& ~~~m) ||| (x &&& m)) &&& ~~~(q &&& x)) }
  else { s with mem := Mem.write s.mem a x }

def State.storeBytes (s : State) (c : CoreId) (blk : BitVec 7) (off : Nat) : Nat → Nat → State
  | 0, _ => s
  | n + 1, v => (s.storeByte c blk off (BitVec.ofNat 8 v)).storeBytes c blk (off + 1) n (v / 256)

/-- Bytes that a task stores at its core's scratchpad port: refused in a sealed destination (R381), discarded and reported where they meet another
installed workspace's image (R119, R270); a part of a poisoned granule leaves it poisoned and is reported (R159). R270 names WSPROT alone; the records of
NO_RIGHT and WPOISON are of kind 0 and name the scratchpad byte as WSPROT's does (DESIGN CHOICE, log 59). -/
def State.portStore (s : State) (w : Who) (blk : BitVec 7) (off n v : Nat) : State :=
  let c := w.core
  if s.sealedHit c off n then s.addSfq w 0 cNoRight (BitVec.ofNat 64 off)
  else if (s.core c).imageHit (some w.hidx) off n then s.addSfq w 0 cWsprot (BitVec.ofNat 64 off)
  else
    let t := s.storeBytes c blk off n v
    let a := spad c off
    let t := { t with poison := t.poison.filter fun g => !(decide (a ≤ 32 * g) && decide (32 * g + 32 ≤ a + n)) }
    if t.poison.any fun g => decide (a < 32 * g + 32) && decide (32 * g < a + n) then t.addSfq w 0 cWpoison (BitVec.ofNat 64 off) else t

/-- A store of the running task at the workspace port. -/
def State.storeWs (s : State) (off n v : Nat) : State := s.portStore s.who s.me.blk off n v

/-! ## Loads -/

/-- The record of an outstanding load of the running task; what its range counters will count is the bytes it touches (R100, R223). -/
def State.outst (s : State) (nb atom : Bool) (a : GReg) (t : Ty) (fptr : Word) (xs : List (Piece × AtcEntry)) (id : Nat) : Outst :=
  ⟨id, s.myIdx, s.me.blk, nb, a, t, fptr, atom, BitVec.ofNat 5 (pcIdx s.me.pc), s.me.pc, [], [], 0, none,
    xs.flatMap fun x => logBytes x.2 ((List.range x.1.n).filter fun i => x.1.bm.getLsbD i).length, [], [], true, false, true⟩

/-- A memory operand of a load: its place, and for a pointer the bytes it needs, checked under R100 and R192. -/
def State.loadPlace (s : State) (t : Ty) (m : MemOpd) : Try (Place × List Nat) := do
  s.touchMem m
  let n := elemSize (elemTy t 0 0) 0
  match s.address m n, s.wsOff m with
  | .error e, some off => do
    let below := ((List.range n).map (off + ·)).filter fun b => decide (b < 4096 * s.me.sblk.toNat)
    (if below.isEmpty then .ok () else s.wsReady off below.length : Try Unit)
    s.wsFails below
    .error e
  | .error e, none => .error e
  | .ok (.ws off), _ => do
    s.wsReady off n
    return (.ws off, [])
  | .ok (.va tag a), _ => do
    let bs := needed (elemTy t (tagFmt tag) (tagBlog tag)) (tagFmt tag) (tagBlog tag) a
    must (bs.all fun b => decide (b < 2 ^ 56)) cPtrOverflow (mkPtr tag a)
    s.moorOk (bs.headD a) (bs.getLastD a) (mkPtr tag (bs.headD a))
    return (.va tag a, bs)

/-- A base-0 load: at once (R270). -/
def State.loadWs (s : State) (t : Ty) (a : GReg) (off : Nat) : Try State :=
  match s.wsFails ((List.range (elemSize (elemTy t 0 0) 0)).map (off + ·)) with
  | .error e => .error e
  | .ok _ => .ok (s.setG a (loadVal s.me t 0 0 off fun o => Mem.read s.mem (spad s.cur o))).advance

/-- Issue LD or LDNB (R274, R275). -/
def State.loadIssue (s : State) (o : LsOp) (nb : Bool) : Try State := do
  s.fenced 0
  s.touchG o.a
  let (p, bs) ← s.loadPlace o.t o.m
  match p with
  | .ws off => s.loadWs o.t o.a off
  | .va tag a => do
    let xs ← s.transPieces tag rRead 0 (pieces 64 bs)
    let reqs := xs.map (s.loadReq tag .load (.load 0))
    xs.forM fun x => s.pathFree x.1.a (s.receiver s.cur s.me.part (atcPa x.2 x.1.a) true x.2.det) false
    ready (!s.ownPending)
    let t ← s.issueLoad true reqs (s.outst nb false o.a o.t (mkPtr tag a) xs)
    let t := t.pendG t.cur t.me.blk o.a true
    return if nb then t.advance else t.holdIn 1 []

def execLd (o : LsOp) (s : State) : Host.Outcome State Fault Refusal :=
  finish s (s.awaiting 1 (fun _ _ => .ok s.advance) (s.guarded o.q (s.loadIssue o false)))

def execLdnb (o : LsOp) (s : State) : Host.Outcome State Fault Refusal := finish s (s.guarded o.q (s.loadIssue o true))

/-- LDC (R276): lines in the read-only cache are read there; the others are filled whole from their first receivers, with their poison (R158). A poisoned
byte of a line that is there faults at once unless a line below it has first to be filled (R272). -/
def State.ldcIssue (s : State) (o : LsOp) : Try State := do
  s.fenced 0
  s.touchG o.a
  let (p, bs) ← s.loadPlace o.t o.m
  match p with
  | .ws off => s.loadWs o.t o.a off
  | .va tag a => do
    let ls := (pieces 64 bs).map fun p => p.a / 64 * 64
    let look (l : Nat) : Try AtcEntry :=
      let b := (bs.find? fun b => b / 64 * 64 == l).getD l
      s.translate b rRead (mkPtr tag b) 0
    let (es, stop) := ls.foldl (fun (a : List (Nat × AtcEntry) × Option Trap) l => match a.2 with
      | some _ => a
      | none => match look l with | .ok e => (a.1 ++ [(l, e)], none) | .error t => (a.1, some t)) ([], none)
    let hit := fun (x : Nat × AtcEntry) => s.me.roFind (atcPa x.2 x.1 / 64)
    let miss := es.filter fun x => (hit x).isNone
    let got : List (Nat × Byte) := es.flatMap fun x => match hit x with
      | some r => (List.range 64).map fun i => (x.1 + i, lineByte r.data i)
      | none => []
    let bad := bs.find? fun b => es.any fun x => b / 64 * 64 == x.1 && (match hit x with | some r => r.poi.getLsbD (b % 64 / 32) | none => false)
    let low : Bool := match bad with | some b => !miss.any fun x => decide (x.1 < b) | none => false
    match low, bad, stop with
    | true, some b, _ => .error (.fault cPoison 0 (mkPtr tag b))
    | _, _, some t => .error t
    | _, _, none =>
      if miss.isEmpty then
        let t := (es.flatMap fun x => match hit x with | some r => [r] | none => []).foldl
          (fun (t : State) r => t.modCore t.cur fun k => { k with ro := roPut k.ro r }) s
        .ok (t.setG o.a (loadVal s.me o.t (tagFmt tag) (tagBlog tag) a fun b => Tab.get 0 got b)).advance
      else do
        let reqs := miss.map fun x =>
          asCommitted (s.loadReq tag .load (.load 0) (⟨x.1, 64, 0⟩, x.2))
        miss.forM fun x => s.pathFree x.1 (s.receiver s.cur s.me.part (atcPa x.2 x.1) true x.2.det) false
        ready (!s.ownPending)
        let t ← s.issueLoad true reqs fun id =>
          { s.outst false false o.a o.t (mkPtr tag a) [] id with
            got := got, poi := es.filterMap fun x => (hit x).map fun r => (x.1, r.poi)
            log := miss.flatMap (fun x => logBytes x.2 64), fills := miss.map fun x => (x.1, atcPa x.2 x.1 / 64) }
        return (t.pendG t.cur t.me.blk o.a true).holdIn 1 []

def execLdc (o : LsOp) (s : State) : Host.Outcome State Fault Refusal :=
  finish s (s.awaiting 1 (fun _ _ => .ok s.advance) (s.guarded o.q (s.ldcIssue o)))

/-- RO.INV (R277): the cache is emptied, and what was requested before is not kept when it comes. -/
def execRoInv (s : State) : Host.Outcome State Fault Refusal :=
  finish s do
    s.fenced 0
    return (s.modCore s.cur fun k => { k with ro := [], loads := k.loads.map fun x => { x with fresh := false } }).advance

/-! ## Stores and the other late-translated heads -/

/-- Send a late-translated head's requests and go on (R279). -/
def State.lateHead (s : State) (reqs : List MemReq) : Try State := do
  s.fenced 1
  reqs.forM fun r => s.latePathFree (ptrVa r.fptr)
  let (rs, t) := s.numberDet reqs
  let t ← t.issueLate rs
  return t.advance

/-- The requests of a store-class access of `n` bytes at an address: one per line, or per aligned word of a DET page (R205, R272). -/
def State.lateReqs (s : State) (tag : Nat) (op : BankOp) (kind : BitVec 3) (a n v : Nat) : List MemReq :=
  let bs := (List.range n).map (a + ·)
  (pieces 64 bs).flatMap fun p =>
    let ps := if s.detAt s.myEnt.sid p.a then pieces 8 ((List.range p.n).map (p.a + ·)) else [p]
    ps.map fun q => s.lateReq tag op kind (BitVec.ofNat 512 (v / 256 ^ (q.a - a) % 256 ^ q.n)) q

/-- ST (R278). -/
def execSt (o : LsOp) (s : State) : Host.Outcome State Fault Refusal :=
  finish s (s.guarded o.q do
    s.touchG o.a
    s.touchMem o.m
    let p ← s.address o.m (elemSize (elemTy o.t 0 0) 0)
    match p with
    | .ws off => do
      let n := elemSize (elemTy o.t 0 0) 0
      s.fenced 1
      s.wsReady off n
      return (s.storeWs off n (storeVal s.me o.t 0 (s.g o.a))).advance
    | .va tag a => do
      must (tagBlog tag == 0) cFormat (mkPtr tag a)
      let n := elemSize (elemTy o.t (tagFmt tag) 0) (tagFmt tag)
      must (decide (a + n ≤ 2 ^ 56)) cPtrOverflow (mkPtr tag a)
      s.moorOk a (a + n - 1) (mkPtr tag a)
      s.lateHead (s.lateReqs tag .store 0 a n (storeVal s.me o.t (tagFmt tag) (s.g o.a))))

/-- BRED (R282). -/
def State.bred (s : State) (o : LsOp) (k : UpdKind) : Host.Outcome State Fault Refusal :=
  finish s (s.guarded o.q do
    s.touchG o.a
    s.touchMem o.m
    let n := tyBits o.t / 8
    let p ← s.address o.m n
    match p with
    | .ws _ => .error (.fault cIllegalOp 0 0)
    | .va tag a => do
      must (tagBlog tag == 0) cFormat (mkPtr tag a)
      must (a % n == 0) cMisaligned (mkPtr tag a)
      s.moorOk a (a + n - 1) (mkPtr tag a)
      s.lateHead (s.lateReqs tag (.bred k o.t) 1 a n ((s.g o.a).toNat % 256 ^ n)))

def execBredAdd (o : LsOp) (s : State) : Host.Outcome State Fault Refusal := s.bred o .add
def execBredMin (o : LsOp) (s : State) : Host.Outcome State Fault Refusal := s.bred o .min
def execBredMax (o : LsOp) (s : State) : Host.Outcome State Fault Refusal := s.bred o .max

/-- BUPD (R283): a mask without a lane sends nothing. -/
def State.bupd (s : State) (o : BupdOp) (k : UpdKind) : Host.Outcome State Fault Refusal :=
  finish s (s.guarded o.q do
    s.touchG o.b
    let m ← s.regImm o.mask
    let v : VReg := o.v.setWidth 5
    ready (!s.vxBusy v)
    let a ← lineVa (s.g o.b) 64
    let mask : BitVec 16 := m.setWidth 16
    let bm := bupdMask o.t mask
    if bm = 0 then .ok s.advance
    else do
      s.moorOk a (a + 63) (s.g o.b)
      s.lateHead [s.lateReq (field (s.g o.b) 56 8) (.bupd k o.t mask) 2 (s.v v) ⟨a, 64, bm⟩])

def execBupdSet (o : BupdOp) (s : State) : Host.Outcome State Fault Refusal := s.bupd o .set
def execBupdAdd (o : BupdOp) (s : State) : Host.Outcome State Fault Refusal := s.bupd o .add
def execBupdMul (o : BupdOp) (s : State) : Host.Outcome State Fault Refusal := s.bupd o .mul
def execBupdMin (o : BupdOp) (s : State) : Host.Outcome State Fault Refusal := s.bupd o .min
def execBupdMax (o : BupdOp) (s : State) : Host.Outcome State Fault Refusal := s.bupd o .max

/-- DISCARD (R285). -/
def execDiscard (o : DiscardOp) (s : State) : Host.Outcome State Fault Refusal :=
  finish s (s.guarded o.q do
    s.touchG o.a
    s.touchMem o.m
    let p ← s.address o.m 64
    match p with
    | .ws _ => .error (.fault cIllegalOp 0 0)
    | .va tag a => do
      let n := (s.g o.a).toNat % 4096 + 1
      must (tagBlog tag == 0) cFormat (mkPtr tag a)
      must (a % 64 == 0) cMisaligned (mkPtr tag a)
      must (decide (a + 64 * n ≤ 2 ^ 56)) cPtrOverflow (mkPtr tag a)
      s.moorOk a (a + 64 * n - 1) (mkPtr tag a)
      s.fenced 1
      s.latePathFree a
      s.latePathFree (a + 64 * n - 1)
      let t ← s.issueLate ((List.range n).map fun i => s.lateReq tag .discard 3 0 ⟨a + 64 * i, 64, BitVec.allOnes 64⟩)
      return t.advance)

/-- BARINIT (R286). -/
def execBarinit (o : BarinitOp) (s : State) : Host.Outcome State Fault Refusal :=
  finish s (s.guarded o.q do
    s.touchG o.b
    s.touchG o.a
    s.touchG o.c
    let a ← lineVa (s.g o.b) 64
    s.moorOk a (a + 63) (s.g o.b)
    s.lateHead [s.lateReq (field (s.g o.b) 56 8) (.barinit ((s.g o.a).setWidth 16) ((s.g o.c).setWidth 48)) 5 0
      ⟨a, 64, BitVec.allOnes 64⟩])

/-! ## Atomics (R281) -/

/-- Issue ATOM: it needs both rights, and consumes its channel word when everything else is at hand. The bytes that it reads count as those of a load do, though
R223 does not list ATOM (DESIGN CHOICE, log 60). -/
def State.atomIssue (s : State) (o : AtomOp) (k : AtomKind) : Try State := do
  s.fenced 0
  s.fenced 1
  s.touchG o.a
  s.touchG o.b
  s.touchG o.d
  s.srcOk o.c
  s.srcFilled o.c
  let p := s.g o.b
  let n := tyBits o.t / 8
  let a ← lineVa p n
  s.moorOk a (a + n - 1) p
  let tag := field p 56 8
  let e ← s.translateFor a (BitVec.ofNat 4 (2 ^ rRead + 2 ^ rWrite)) p 0
  s.pathFree a (s.receiver s.cur s.me.part (atcPa e a) false e.det) true
  ready (!s.ownPending)
  let (x, t) := s.take o.c
  let q : Piece × AtcEntry := (⟨a, n, BitVec.ofNat 64 (2 ^ n - 1)⟩, e)
  let r := { s.loadReq tag (.atom k o.t x (s.g o.d)) (.load 0) q with det := false }
  let t ← t.issueLoad (o.a != 0) [r] (s.outst false true o.a o.t p [q])
  return (t.pendG t.cur t.me.blk o.a true).holdIn 1 []

def State.atom (s : State) (o : AtomOp) (k : AtomKind) : Host.Outcome State Fault Refusal :=
  finish s (s.awaiting 1 (fun _ _ => .ok s.advance) (s.guarded o.q (s.atomIssue o k)))

def execAtomAdd (o : AtomOp) (s : State) : Host.Outcome State Fault Refusal := s.atom o .add
def execAtomAnd (o : AtomOp) (s : State) : Host.Outcome State Fault Refusal := s.atom o .and
def execAtomOr (o : AtomOp) (s : State) : Host.Outcome State Fault Refusal := s.atom o .or
def execAtomXor (o : AtomOp) (s : State) : Host.Outcome State Fault Refusal := s.atom o .xor
def execAtomMin (o : AtomOp) (s : State) : Host.Outcome State Fault Refusal := s.atom o .min
def execAtomMax (o : AtomOp) (s : State) : Host.Outcome State Fault Refusal := s.atom o .max
def execAtomSwap (o : AtomOp) (s : State) : Host.Outcome State Fault Refusal := s.atom o .swap
def execAtomCas (o : AtomOp) (s : State) : Host.Outcome State Fault Refusal := s.atom o .cas

/-! ## Barriers and quantum close (R287, R290) -/

/-- The head at the PC of the running task has something to do at the end of its line (R48). -/
def State.atEnd (s : State) (a : EndKind) : State := s.modEnt s.cur s.myIdx fun e => { e with ends := e.ends ++ [⟨a, s.me.pc⟩] }

/-- BAR and BAR.Q: release, arrival, and for BAR.Q the close report; the wait begins at the end of the line (R287, R288). -/
def State.barrier (s : State) (b : GReg) (q : Bool) : Host.Outcome State Fault Refusal :=
  let on (t : Try (VA × AtcEntry)) : Try (VA × AtcEntry) := if q then s.readyW t else t
  finish s do
    let (a, e) ← on do
      s.touchG b
      s.releaseWait
      let a ← lineVa (s.g b) 64
      let e ← s.translate a rWrite (s.g b) 0
      s.pathFree a (s.receiver s.cur s.me.part (atcPa e a) false e.det) true
      return (BitVec.ofNat 56 a, e)
    let p := s.g b
    let pa := atcPa e a.toNat
    let rcv := s.receiver s.cur s.me.part pa false e.det
    let b := receiverBuoy pa rcv
    (match b with | some y => if (s.me.buoy y).val = 0 then .error (.park y) else .ok () | none => .ok () : Try Unit)
    let t := s.takeStep s.cur b (.arrive s.me.pc ⟨s.myIdx, .step, p, s.myEnt.sid, rcv, true⟩)
    let line : BitVec 50 := BitVec.ofNat 50 (pa / 64)
    let t := t.modEnt t.cur t.myIdx fun e =>
      { e with bar := { BarWait.reset with bw := true, bq := q, line := line, qn := BitVec.ofNat 2 e.qnum.toNat } }
    let t := t.emit (.barrierArrive ⟨s.who, BitVec.ofNat 56 pa, e.key, p, s.me.pc, some (s.stepOf s.cur b)⟩)
    let t := if q then (t.noteWait t.cur t.myIdx false).emit (.closeReport s.cur s.who.lref) else t
    return (t.atEnd .barWait).advance

def execBar (b : GReg) (s : State) : Host.Outcome State Fault Refusal := s.barrier b false
def execBarQ (b : GReg) (s : State) : Host.Outcome State Fault Refusal := s.barrier b true

/-- QCLOSE: release, close report, and a stall until the notice of its own quantum (R290). -/
def execQclose (s : State) : Host.Outcome State Fault Refusal :=
  finish s (match s.me.hold with
    | some ⟨2, _, some _⟩ => .ok (s.noteWait s.cur s.myIdx false).advance
    | some ⟨2, _, none⟩ => .error s.waitHere
    | _ => do
      s.readyW s.releaseWait
      let t := s.emit (.closeReport s.cur s.who.lref)
      return (t.noteWait t.cur t.myIdx true).holdIn 2 [s.myEnt.qnum.setWidth 64])

/-! ## Drain and fences (R231, R291) -/

/-- DRAINST: the task's late-translated heads are complete and its loads have answered; then drn is read and cleared, and the oldest record
is delivered before the next head (R56, R198), for a member of a gang at the line boundary (R400). -/
def execDrainst (a : GReg) (s : State) : Host.Outcome State Fault Refusal :=
  finish s do
    s.readyW (s.touchG a)
    s.readyW (ready (!(s.latesOut || s.loadsOut || s.engStores)))
    s.takeHeld
    let t := s.noteWait s.cur s.myIdx false
    let w := t.wsW offTstat
    let t := (t.setG a (BitVec.ofNat 64 (drnOf w))).setWsW offTstat (drnClear w)
    let next := nextPc s.me.pc ((s.me.line.map headCount).getD 0)
    if s.myEnt.ganged && s.me.sfq.any (fun r => r.hidx == s.myIdx) then return (t.modCore t.cur fun k => k.count 2).gangDrain next
    else
      let t := t.advance
      return t.deliverSfq t.cur t.myIdx next

/-- FENCE at any scope (R231): a held fault is delivered when r is in pred (R275); what the fence orders is remembered, and a later head of a kind in
succ issues when it is performed. SYSTEM adds the remote-completion notices. -/
def State.fence (s : State) (o : FenceOp) (system : Bool) : Host.Outcome State Fault Refusal :=
  finish s do
    (if o.pred.getLsbD 0 then s.takeHeld else .ok ())
    let f := s.fenceWait o.pred o.succ system
    let left := (s.myEnt.fences ++ [f]).filter fun x => x.succ != 0 && !s.fenceOver x
    return (s.modEnt s.cur s.myIdx fun e => { e with fences := left }).advance

def execFenceTask (o : FenceOp) (s : State) : Host.Outcome State Fault Refusal := s.fence o false
def execFenceCore (o : FenceOp) (s : State) : Host.Outcome State Fault Refusal := s.fence o false
def execFenceGang (o : FenceOp) (s : State) : Host.Outcome State Fault Refusal := s.fence o false
def execFenceDie (o : FenceOp) (s : State) : Host.Outcome State Fault Refusal := s.fence o false
def execFenceDevice (o : FenceOp) (s : State) : Host.Outcome State Fault Refusal := s.fence o false
def execFenceSystem (o : FenceOp) (s : State) : Host.Outcome State Fault Refusal := s.fence o true

/-- The service core's fence (R233): the service core has no access of its own under way, so it goes on to its next word. -/
def execServiceCoreFence (_scope : BitVec 3) (_o : FenceOp) (s : State) : Host.Outcome State Fault Refusal :=
  .next (s.modSlice s.svcCur.toNat fun k => { k with svc := k.svc.drop 1 })

end Sys2Proof.Machine
end

