-- ==== Sys2Proof/Machine/Tasks.lean ====
section
/-! DEFINITION. The heads that act on channels, tasks, the work hierarchy and the control state of the core (R295 to R320). -/

namespace Sys2Proof.Machine

/-! ## Channels (R297 to R303) -/

/-- The bytes of a mailbox image and the stride of its slots (R362). -/
def mailImage (d : Nat) : Nat := 16 + 4 * d + 2 * d * (d + 1)
def mailStride (d : Nat) : Nat := 128 * ((mailImage d + 63) / 64)

/-- The bytes a binding word's ring or mailbox takes (R169, R298, R362). -/
def extentLen (w : Word) : Nat :=
  let n := field w 32 8 + 1
  if field w 62 2 = 1 then n * mailStride (field w 20 4) else 64 * n + (n + 1) / 2

/-- CBIND for an entry's workspace (R298); none where it is refused. `base` counts from the start of the scratchpad. -/
def State.bindChan (s : State) (c : CoreId) (own : Hidx) (blk : BitVec 7) (nblk : Nat) (a : Handle) (w : Word) : Option State :=
  let kind := field w 62 2
  let hb := bit w 61
  let ch : Chan := BitVec.ofNat 5 (field w 56 5)
  let base := field w 40 13
  let sm1 := field w 32 8
  let tm1 := field w 24 8
  let dim := field w 20 4
  let e := (s.core c).chan ch
  if kind = 3 ∨ field w 53 3 ≠ 0 ∨ field w 0 20 ≠ 0 ∨ sm1 < tm1 then none
  else if kind = 1 ∧ (63 < sm1 ∨ dim = 0 ∨ 12 < dim) then none
  else if kind ≠ 1 ∧ dim ≠ 0 then none
  else if 64 * base < 4096 * blk.toNat + imageBytes ∨ 4096 * (blk.toNat + nblk) < 64 * base + extentLen w then none
  else if e.v ∧ ¬(e.kind.toNat = kind ∧ e.base.toNat = base ∧ e.sm1.toNat = sm1 ∧ e.tm1.toNat = tm1) then none
  else if hb ∧ e.v ∧ e.bh ∧ e.hidx ≠ own then none
  else
    let e := if e.v then e else
      { ChanEnt.reset with
        v := true, kind := BitVec.ofNat 2 kind, base := BitVec.ofNat 13 base, sm1 := BitVec.ofNat 8 sm1
        tm1 := BitVec.ofNat 8 tm1, rd := BitVec.ofNat 8 dim }
    let e := if hb then { e with bh := true, hidx := own } else e
    let s := s.modCore c fun k => k.setChan ch e
    let s := if hb then s.modEnt c own fun x => { x with trg := 1, chan := ch } else s
    some (s.setHAt c blk a (putField (putField (putField 0 63 1 1) 57 2 kind) 52 5 ch.toNat))

def execCbind (h : Handle) (b : GReg) (s : State) : Host.Outcome State Fault Refusal :=
  finish s do
    s.touchG b
    match s.bindChan s.cur s.myIdx s.me.blk s.myEnt.nblk h (s.g b) with
    | some t => return t.advance
    | none => .error (badHandle h)

/-- CUNBIND (R299); packets that still wait for the channel find it torn down (R168). -/
def execCunbind (h : Handle) (s : State) : Host.Outcome State Fault Refusal :=
  finish s do
    s.bound h
    let ch := s.chanOf h
    let e := s.me.chan ch
    let t := if e.bh then s.modEnt s.cur e.hidx fun x => { x with trg := 0 } else s
    let t := t.modCore t.cur fun k => k.setChan ch .reset
    let t := (s.me.inChan.filter fun p => p.chan == ch).foldl (fun t p => t.discardPkt p) t
    let t := t.modCore t.cur fun k => { k with inChan := k.inChan.filter fun p => p.chan != ch }
    return (t.setH h 0).advance

/-- Free `n` slots of a ring, answering the eos of the last. -/
def State.freeSlots (s : State) (ch : Chan) : Nat → Bool → Bool × State
  | 0, eos => (eos, s)
  | n + 1, _ =>
    let e := s.me.chan ch
    let tag := s.tagOf s.cur e e.rd.toNat
    (s.freeSlot s.cur ch).freeSlots ch n (decide (8 ≤ tag))

/-- CADV (R300). -/
def execCadv (o : HandleOp) (s : State) : Host.Outcome State Fault Refusal :=
  finish s (s.guarded o.q do
    (if s.handleOk o.h then .ok () else .error (badHandle o.h))
    s.fenced 0
    let ch := s.chanOf o.h
    ready (decide (o.n.toNat ≤ (s.me.chan ch).fill))
    let (eos, t) := s.freeSlots ch o.n.toNat false
    return (t.setH o.h (descWord (s.h o.h) eos 0)).advance)

/-- CFILL (R301). -/
def execCfill (a : GReg) (h : Handle) (s : State) : Host.Outcome State Fault Refusal :=
  finish s do
    s.touchG a
    s.bound h
    return (s.setG a (BitVec.ofNat 64 (s.me.chan (s.chanOf h)).fill)).advance

/-- CWAIT (R301). -/
def execCwait (o : HandleOp) (s : State) : Host.Outcome State Fault Refusal :=
  finish s (s.guarded o.q do
    s.bound o.h
    let e := s.me.chan (s.chanOf o.h)
    (if o.n.toNat ≤ e.sm1.toNat + 1 then .ok () else .error (badHandle o.h))
    ready (decide (o.n.toNat ≤ e.fill))
    return s.advance)

/-- Is a destination word of CSEND acceptable (R302)? -/
def State.destOk (s : State) (w : Word) : Bool :=
  let dev := BitVec.ofNat 10 (field w 54 10)
  let own := dev == s.me.dev
  field w 0 26 == 0 && (own || s.peers.contains dev.toNat)
    && (if bit w 53 then own && decide (field w 47 6 ≤ field w 36 6) && decide (field w 42 5 ≤ field w 31 5) else field w 31 11 == 0)

/-- The core can inject on the CHAN virtual channel: no packet that it sent is held in the mesh before a full ingress buffer (R28, R302). -/
def State.injects (s : State) : Bool := s.net.all fun e => match e with
  | .chanPacketReceive k => !(k.src == s.cur && s.chanFull k.dst)
  | _ => true

/-- The routers to which a multicast goes on from a router: along the source's row, and from a column of the rectangle up and down (R409). -/
def mcNext (x y : Nat) (src : Nat) (rect : Rect) : List (Nat × Nat) :=
  let sx := coreX src
  let sy := coreY src
  let row : List (Nat × Nat) := if y ≠ sy then [] else
    (if x ≤ sx ∧ rect.x0.toNat < x then [(x - 1, y)] else []) ++ (if sx ≤ x ∧ x < rect.x1.toNat then [(x + 1, y)] else [])
  let col : List (Nat × Nat) := if x < rect.x0.toNat ∨ rect.x1.toNat < x then [] else
    (if y ≤ sy ∧ rect.y0.toNat < y then [(x, y - 1)] else []) ++ (if sy ≤ y ∧ y < rect.y1.toNat then [(x, y + 1)] else [])
  row ++ col

/-- A multicast as it comes to a router, with all that the router owes of it. -/
def mcAt (x y : Nat) (k : Packet) (rect : Rect) : Event :=
  .multicastReplicate (BitVec.ofNat 6 x) (BitVec.ofNat 5 y) ⟨k, rect, rectHas rect (x + 64 * y),
    (mcNext x y k.src.toNat rect).map fun r => (BitVec.ofNat 6 r.1, BitVec.ofNat 5 r.2)⟩

/-- A router takes no new multicast while its retry buffer is full (R410). -/
def State.mcTakes (s : State) (c : CoreId) : Bool := decide ((s.core c).retry.length < 16)

/-- CSEND and CSEND.EOS (R302): the core stalls while it cannot inject. -/
def State.csend (s : State) (o : CsendOp) (eos : Bool) : Host.Outcome State Fault Refusal :=
  finish s (s.guarded o.q do
    s.touchG o.a
    s.touchRun o.b.toNat o.n.toNat
    let w := s.g o.a
    must (s.destOk w) cBadDest 0
    s.fenced 1
    ready (if bit w 53 then s.mcTakes s.cur else s.injects)
    let ws := (List.range o.n.toNat).map fun i => s.g (o.b + BitVec.ofNat 4 i)
    let ddev : BitVec 10 := BitVec.ofNat 10 (field w 54 10)
    let k : Packet := ⟨s.me.dev, s.me.part, false, s.cur, ddev, false, if bit w 53 then s.cur else BitVec.ofNat 11 (field w 42 11), eos,
      BitVec.ofNat 5 (field w 26 5), 3, ws⟩
    let ev : Event := if bit w 53 then
        mcAt (coreX s.cur.toNat) (coreY s.cur.toNat) k
          ⟨BitVec.ofNat 6 (field w 47 6), BitVec.ofNat 5 (field w 42 5), BitVec.ofNat 6 (field w 36 6), BitVec.ofNat 5 (field w 31 5)⟩
      else .chanPacketReceive k
    let t := if ddev = s.me.dev then s.emit ev else { s with out := s.out ++ [ev] }
    return t.advance)

def execCsend (o : CsendOp) (s : State) : Host.Outcome State Fault Refusal := s.csend o false
def execCsendEos (o : CsendOp) (s : State) : Host.Outcome State Fault Refusal := s.csend o true

/-- Packets held in the MXCMD ingress buffer are offered to MX's remote half again (R28, R173). -/
def State.offerMx (s : State) (c : CoreId) : State :=
  let l := (s.core c).inMx
  { s.modCore c (fun k => { k with inMx := [] }) with net := (l.map fun x => Event.mxcmdReceive x.1 x.2.1 x.2.2) ++ s.net }

/-- CMASK and CUNMASK (R303). -/
def execCmask (o : GiOp) (s : State) : Host.Outcome State Fault Refusal :=
  finish s (s.guarded o.q do
    let (m, t) ← s.readAlone o.c
    return (t.modCore t.cur fun k => { k with cmask := k.cmask ||| m.setWidth 3 }).advance)

def execCunmask (o : GiOp) (s : State) : Host.Outcome State Fault Refusal :=
  finish s (s.guarded o.q do
    let (m, t) ← s.readAlone o.c
    let t := t.modCore t.cur fun k => { k with cmask := k.cmask &&& ~~~(m.setWidth 3) }
    return (if m.getLsbD 2 then t.offerMx t.cur else t).advance)

/-! ## Priority and the end of a line (R304, R305) -/

/-- base := eff := v (R135, R304). -/
def State.setPrio (s : State) (v : BitVec 3) : State := s.modEnt s.cur s.myIdx fun e => { e with base := v, eff := v }

def execSetprio (o : GiOp) (s : State) : Host.Outcome State Fault Refusal :=
  finish s (s.guarded o.q do
    let (v, t) ← s.readAlone o.c
    return (t.setPrio (v.setWidth 3)).advance)

def execYield (s : State) : Host.Outcome State Fault Refusal := finish s (.ok (s.atEnd .yield).advance)
def execSleep (s : State) : Host.Outcome State Fault Refusal := finish s (.ok (s.atEnd .sleep).advance)
def execEndTask (s : State) : Host.Outcome State Fault Refusal := finish s (.ok (s.atEnd .fin).advance)

/-! ## DECR (R307) -/

def execDecr (o : DecrOp) (s : State) : Host.Outcome State Fault Refusal :=
  finish s (s.guarded o.q do
    s.touchG o.a
    let (n, t) ← s.readAlone o.c
    let r := s.g o.a
    must (field r 27 5 == 0 && field r 0 10 == 0) cBadDest 0
    s.fenced 1
    let id := s.me.ids + 1
    let t := t.modCore t.cur fun k => { k with decrs := k.decrs ++ [(t.myIdx, id)], ids := id }
    return (t.emit (.decrApply t.me.part (BitVec.ofNat 11 (field r 16 11)) (BitVec.ofNat 6 (field r 10 6)) (n.setWidth 32) (some (t.who, id)))).advance)

/-! ## Messages (R295) -/

/-- Read `n` bytes at a pointer as LD reads memory, from its translation on; the words are the head's in phase 3 (R295, R379). -/
def State.readBytes (s : State) (p : Word) (n : Nat) : Try State := do
  let a := ptrVa p
  let tag := field p 56 8
  let xs ← s.transPieces tag rRead 0 (pieces 64 ((List.range n).map (a + ·)))
  xs.forM fun x => s.pathFree x.1.a (s.receiver s.cur s.me.part (atcPa x.2 x.1.a) true x.2.det) false
  ready (!s.ownPending)
  let t ← s.issueLoad false (xs.map (s.loadReq tag .load (.load 0))) (s.outst false false 0 .nosfx p xs)
  return t.holdIn 3 [BitVec.ofNat 64 (n / 8)]

/-- Read `n` bytes of a message, image or block as LD reads memory (R295). Bytes past 2^56 and a lost host line fault as LD's do, though R321's list of the
faults of these heads has neither PTR_OVERFLOW nor HOSTHOME_LOST (DEDUCED, log 15). -/
def State.readBlock (s : State) (p : Word) (align n : Nat) : Try State := do
  let a ← lineVa p align
  must (decide (a + n ≤ 2 ^ 56)) cPtrOverflow p
  s.moorOk a (a + n - 1) p
  s.readBytes p n

/-- A base register of a message: g0 is illegal by encoding; its value names the message. The head is of a kind of R226. -/
def State.msgHead (s : State) (kind : Nat) (a b : GReg) (align n : Nat) : Try State := do
  s.fenced kind
  s.touchG a
  s.touchG b
  s.readBlock (s.g b) align n

/-- A step from a slice's buoy for a message; the task parks at 0 (R26, R167). -/
def State.sliceStep (s : State) (sl : Nat) : Try (State × Step) := s.needStep (BitVec.ofNat 7 sl) (.task s.myIdx)

/-- A held head ends with a status word (R296). -/
def State.status (s : State) (a : GReg) : RepBody → Try State
  | .status w => .ok (s.setG a w).advance
  | _ => .ok s.advance

/-- A status word (R296). -/
def statusWord (code value : Nat) : Word := BitVec.ofNat 64 (code * 2 ^ 56 + value % 2 ^ 32)

/-- LAUNCH and LAUNCH.BAR (R309): the message goes to the home of its queue. -/
def State.launch (s : State) (o : RrOp) (bar : Bool) : Host.Outcome State Fault Refusal :=
  finish s (s.awaiting 4 (fun _ b => s.status o.a b) (s.awaiting 3 (fun ws _ => do
    let w1 := ws.getD 1 0
    let q := field w1 33 3
    let (t, b) ← s.sliceStep (s.queueHome s.me.part q)
    let ws := if bar then ws.set 1 (putField w1 36 1 1) else ws
    let m : LaunchReq := ⟨s.me.part, BitVec.ofNat 3 q, lineOf ws, s.myEnt.sid, s.myEnt.lref, s.priv, .core, s.cur, s.myIdx, some b⟩
    return (t.emit (.launchMessageAtHome m)).holdIn 4 []) (s.msgHead 1 o.a o.b 64 64)))

def execLaunch (o : RrOp) (s : State) : Host.Outcome State Fault Refusal := s.launch o false
def execLaunchBar (o : RrOp) (s : State) : Host.Outcome State Fault Refusal := s.launch o true

/-- SPAWN (R311): the member-add at the launch object, then the placement at the named core; NOENTRY takes the member back. -/
def execSpawn (o : RrOp) (s : State) : Host.Outcome State Fault Refusal :=
  let l := objSlice s.myEnt.lref
  let req (ws : List Word) (tix : BitVec 32) (b : Option Step) : SpawnReq := ⟨s.who, s.priv, lineOf ws, tix, b⟩
  finish s (s.awaiting 5 (fun _ b =>
      match b with
      | .status w =>
        if field w 56 8 = 5 then
          let u : BuoyId := BitVec.ofNat 7 l
          if (s.me.buoy u).val = 0 then .error .stall
          else .ok (((s.takeStep s.cur (some u) .other).emit (.spawnMemberRemove (req [] 0 (some (s.stepOf s.cur (some u)))))).setG o.a w).advance
        else .ok (s.setG o.a w).advance
      | _ => .ok s.advance)
    (s.awaiting 4 (fun ws b =>
      match b with
      | .status w =>
        if field w 56 8 = 0 then .ok ((s.emit (.spawnPlace (req ws (w.setWidth 32) none))).holdIn 5 [])
        else .ok (s.setG o.a w).advance
      | _ => .ok s.advance)
    (s.awaiting 3 (fun ws _ => do
      let (t, b) ← s.sliceStep l
      return (t.emit (.spawnMemberAdd (req ws 0 (some b)))).holdIn 4 ws) (s.msgHead 1 o.a o.b 64 64))))

/-- CANCEL (R312). -/
def State.cancel (s : State) (o : CancelOp) (lvl : Level) : Host.Outcome State Fault Refusal :=
  finish s (s.awaiting 4 (fun _ b => s.status o.a b) do
    s.fenced 1
    s.touchG o.a
    s.srcOk o.b
    s.srcFilled o.b
    let (w, t) := s.take o.b
    let r : ObjRef := w.setWidth 32
    let (t, b) ← t.sliceStep (objSlice r)
    return (t.emit (.cancelAtObject ⟨s.me.part, some lvl, r, s.cur, s.myIdx, some b, true⟩)).holdIn 4 [])

def execCancelLaunch (o : CancelOp) (s : State) : Host.Outcome State Fault Refusal := s.cancel o .launch
def execCancelGraph (o : CancelOp) (s : State) : Host.Outcome State Fault Refusal := s.cancel o .graph
def execCancelPhase (o : CancelOp) (s : State) : Host.Outcome State Fault Refusal := s.cancel o .phase
def execCancelJob (o : CancelOp) (s : State) : Host.Outcome State Fault Refusal := s.cancel o .job

/-! ## Gangs (R313, R314) -/

/-- The position of a core in the gang a word names, if it is a member. -/
def gangPos (w : Word) (c : CoreId) : Option Nat :=
  (List.range (field w 0 4 + 1)).find? fun d => field w 53 11 + (if bit w 4 then 64 * d else d) == c.toNat

/-- Is a gang word acceptable for the running task (R313)? -/
def State.gangOk (s : State) (w : Word) : Bool :=
  let lead := field w 53 11
  let n := field w 0 4
  field w 5 48 == 0 && n != 0 && (gangPos w s.cur).isSome
    && (if bit w 4 then decide (coreY lead + n < 32) else decide (coreX lead + n < 64))
    && (List.range (n + 1)).all (fun d => s.inPart s.me.part (lead + (if bit w 4 then 64 * d else d)))
    && s.myEnt.gang.isNone

/-- GFORM takes effect at the end of its line (R313). -/
def execGform (b : Src) (s : State) : Host.Outcome State Fault Refusal :=
  finish s do
    let (w, t) ← s.read1 b
    must (s.gangOk w) cBadGang 0
    return (t.atEnd (.gform w)).advance

/-- GREL takes effect at the end of its line (R314). -/
def execGrel (s : State) : Host.Outcome State Fault Refusal :=
  finish s do
    must s.myEnt.ganged cBadGang 0
    return (s.atEnd .grel).advance

/-! ## Tables and control registers (R315, R316) -/

/-- The decode table that a pointer's elements are coded by: T0 (false), T1 (true) or none (R96). -/
def ptrTable (p : Word) : Option Bool := match ptrFmt p with | 8 | 10 => some false | 9 | 11 => some true | _ => none

/-- Does an engine head with these pointers read table `n` (R102)? ENC and DEC name it, VLD, VST, MXMUL and MXST by a pointer's format. -/
def readsTable (n : Bool) (i : Instr) (ps : List Word) : Bool :=
  match i with
  | .enc o | .encSat o | .dec o => o.tbl == n
  | .vld _ | .vst _ | .mxmul _ | .mxs3 _ | .mxst _ | .mxstSat _ => ps.any fun p => ptrTable p == some n
  | _ => false

/-- An MX head that reads table `n`; of MXST the second pointer is none. -/
def MxItem.readsTable (x : MxItem) (n : Bool) : Bool :=
  match x.i with
  | .mxst _ | .mxstSat _ => Machine.readsTable n x.i [x.pa]
  | _ => Machine.readsTable n x.i [x.pa, x.pb]

/-- Is an earlier engine head, transfer or load of the core still to read table `n` (R102, R271, R378)? A stopped MX head that keeps its rows is one. -/
def Core.tableBusy (k : Core) (n : Bool) : Bool :=
  k.vxq.any (fun x => readsTable n x.i [x.fptr]) || k.mxq.any (·.readsTable n) || k.mxrq.any (·.readsTable n)
    || (match k.mxprog.item with | some x => x.readsTable n | none => false)
    || k.cxAll.any (fun q => (field q.w0 60 4 == 2 || field q.w0 60 4 == 3) && (ptrTable q.w1 == some n || ptrTable q.w2 == some n))
    || k.loads.any fun x => ptrTable x.fptr == some n

/-- TBLD (R315): 256 containers of F19 and a nan code. What may still read the table is waited for before the image is read, and again before the
table is written, for a command of another core may have come in between. -/
def execTbld (n : Bool) (b : GReg) (c : Src) (s : State) : Host.Outcome State Fault Refusal :=
  finish s (s.awaiting 3 (fun ws _ => do
      ready (!s.me.tableBusy n)
      let (x, t) ← s.read1 c
      let ents := (List.range 256).map fun i => BitVec.ofNat 19 (field (ws.getD (i / 2) 0) (32 * (i % 2)) 19)
      let tab := Table.build ents (x.toNat % 256)
      return (t.modCore t.cur fun k => if n then { k with t1 := tab } else { k with t0 := tab }).advance) do
    s.fenced 0
    s.touchG b
    s.srcOk c
    s.srcFilled c
    ready (!s.me.tableBusy n)
    s.readBlock (s.g b) 64 1024)

/-- CAP of a core (R133). -/
def capWord (c : CoreId) (k : Core) : Word :=
  BitVec.ofNat 64 (k.dev.toNat * 2 ^ 48 + k.sblk.toNat * 2 ^ 40 + k.part.toNat * 2 ^ 36 + (if k.mxs then 2 ^ 35 else 0) + c.toNat * 2 ^ 22 + 1)

/-- MXPROG (R139). -/
def mxprogWord (m : MxProg) : Word :=
  BitVec.ofNat 64 ((if m.mv then 2 ^ 63 else 0) + m.acc.toNat * 2 ^ 60 + m.arow.toNat * 2 ^ 48 + m.brow.toNat * 2 ^ 40)

/-- A buoy as CRD reads it (R140). -/
def buoyWord (b : Buoy) : Word := BitVec.ofNat 64 (b.ceil * 2 ^ 24 + b.unm * 2 ^ 16 + b.val)

/-- The control register of a number of R131, but for GEOM. -/
def State.crRead (s : State) (n : Nat) : Word :=
  let k := s.me
  let e := s.myEnt
  match n with
  | 0 => BitVec.ofNat 64 (k.blk.toNat * 2 ^ 12)
  | 2 => capWord s.cur k
  | 3 => if s.priv then k.capmx else 0
  | 4 => s.wsW offTstat
  | 5 => s.wsW offFstat
  | 6 => s.wsW offFaddr
  | 7 => mxprogWord k.mxprog
  | 8 => (k.cxDone 0).setWidth 64
  | 9 => (k.cxDone 1).setWidth 64
  | 10 => (k.cxDone 2).setWidth 64
  | 11 => (k.cxDone 3).setWidth 64
  | 12 => BitVec.ofNat 64 k.orc
  | 13 => e.qnum.setWidth 64
  | 14 => BitVec.ofNat 64 (e.age.toNat * 2 ^ 8 + e.eff.toNat * 2 ^ 4 + e.base.toNat)
  | _ => buoyWord (k.buoy (BitVec.ofNat 7 (n - 64)))

/-- CRD (R316); GEOM moves the pair. -/
def execCrd (o : CrOp) (s : State) : Host.Outcome State Fault Refusal :=
  finish s (s.guarded o.q do
    s.touchG o.a
    if o.n = 1 then do
      s.touchG (o.a + 1)
      return ((s.setG o.a (s.wsW offGeom)).setG (o.a + 1) (s.wsW (offGeom + 8))).advance
    else return (s.setG o.a (s.crRead o.n.toNat)).advance)

/-- CWR (R131, R316): a write that R131 ignores has no effect. -/
def execCwr (o : CrOp) (s : State) : Host.Outcome State Fault Refusal :=
  finish s (s.guarded o.q do
    s.touchG o.a
    let w := s.g o.a
    match o.n.toNat with
    | 1 => do
      s.touchG (o.a + 1)
      return ((s.setWsW offGeom w).setWsW (offGeom + 8) (s.g (o.a + 1) &&& 0x7FFFFFFFFFFFFFFF)).advance
    | 3 => return (if s.priv then s.modCore s.cur fun k => { k with capmx := w } else s).advance
    | 5 => return (if bit w 63 then s.setWsW offFstat (putField (s.wsW offFstat) 63 1 0) else s).advance
    | 14 => return (s.setPrio (w.setWidth 3)).advance
    | _ => return s.advance)

/-! ## Privileged heads (R318 to R320) -/

/-- A head that a tenant task may not execute (R318). -/
def State.needPriv (s : State) : Try Unit := must s.priv cIllegalOp 0 1

/-- Does a partition have a handler entry in use (R319)? -/
def State.partBusy (s : State) (p : Pid) : Bool :=
  s.cores.any fun x => s.inPart p x.1 && x.2.ents.any fun e => e.2.v

/-- Is a scrub of a partition on its way or running? -/
def State.scrubbing (s : State) (p : Pid) : Bool := s.net.any fun e => match e with | .scrubRun m => m.part == p | _ => false

/-- May the issuer write the 40 pages from rdst's (R319, R431)? -/
def State.receiptOk (s : State) (w : Who) (rdst : Word) : Bool :=
  ptrLegal rdst && ptrBlog rdst == 0 && ptrVa rdst % 64 == 0 && (List.range 40).all fun i =>
    let va := max (ptrVa rdst) ((ptrVa rdst / 4096 + i) * 4096)
    match s.recFind (s.home w.pid w.sid va) w.sid va with
    | some x => x.2.rts.getLsbD rWrite && !x.2.wd
    | none => false

/-- The answer of the kernel to a SCRUB request (R319): its code, in the order the entry lists them. -/
def State.scrubCode (s : State) (w : Who) (ws : List Word) : Nat :=
  let p : Pid := BitVec.ofNat 4 (field (ws.getD 0 0) 60 4)
  if (s.pdesc p).isNone || p == w.pid then 9
  else if s.partBusy p || s.scrubbing p || decide (2 ^ 20 ≤ s.lmsLeaf) then 8
  else if field (ws.getD 0 0) 0 55 != 0 || field (ws.getD 1 0) 0 32 != 0 || (ws.getD 5 0) != 0 || (ws.getD 6 0) != 0 || (ws.getD 7 0) != 0
      || field (ws.getD 0 0) 55 5 == 0 || !s.receiptOk w (ws.getD 2 0) then 2
  else 0

/-- SCRUB (R319): the request goes to the kernel of the partition's lowest slice, whose acceptance is the reply. -/
def execScrub (o : RrOp) (s : State) : Host.Outcome State Fault Refusal :=
  finish s (s.awaiting 4 (fun _ b => s.status o.a b) (s.awaiting 3 (fun ws _ => do
      let p : Pid := BitVec.ofNat 4 (field (ws.getD 0 0) 60 4)
      let (t, b) ← s.sliceStep (s.kernel p)
      let code := s.scrubCode s.who ws
      let m : ScrubReq := ⟨s.who, p, BitVec.ofNat 5 (field (ws.getD 0 0) 55 5), BitVec.ofNat 32 (field (ws.getD 1 0) 32 32), ws.getD 2 0,
        (ws.getD 4 0) ++ (ws.getD 3 0), t.time⟩
      let t := if code = 0 then t.emit (.scrubRun m) else t
      return (t.emit (.memrepReceive ⟨s.cur, .held s.myIdx, .status (statusWord code 0), some b, false⟩)).holdIn 4 [])
    (do
      s.needPriv
      s.msgHead 0 o.a o.b 64 64)))

/-- LOGCTL op 0 (R320, R427): the block at gB[63:5] * 32, read as a RAW pointer, defines descriptor gB[4:0]. A
channel's word is consumed when the head ends, so that it is consumed once. -/
def execLogctlDefine (o : LogOp) (s : State) : Host.Outcome State Fault Refusal :=
  finish s (s.awaiting 3 (fun ws _ => do
      let d := (ws.getD 4 0).toNat
      let ok := ws.getD 0 0 == 0x8000000000000000 && ws.getD 2 0 == 0 && ws.getD 3 0 == 0
      let (_, t) := s.take o.b
      let t := if ok then t.modSlice (t.kernel t.me.part) fun k => { k with rdesc := Tab.set k.rdesc d (ws.take 4) } else t
      return (t.setG o.a (if ok then 0 else 2)).advance)
    (s.guarded o.q do
      s.needPriv
      s.fenced 0
      s.touchG o.a
      let (w, _) ← s.read1 o.b
      let t ← s.readBlock (BitVec.ofNat 64 (field w 5 51 * 32)) 32 32
      return t.holdIn 3 [4, BitVec.ofNat 64 (field w 0 5)]))

/-- LOGCTL op 1 (R320). -/
def execLogctlDisable (o : LogOp) (s : State) : Host.Outcome State Fault Refusal :=
  finish s (s.guarded o.q do
    s.needPriv
    s.touchG o.a
    let (w, t) ← s.read1 o.b
    let t := t.modSlice (t.kernel t.me.part) fun k => { k with rdesc := Tab.del k.rdesc (field w 0 5) }
    return (t.setG o.a 0).advance)

/-- LOGCTL op 2 (R320): the sequence number of the next record. -/
def execLogctlSequence (o : LogOp) (s : State) : Host.Outcome State Fault Refusal :=
  finish s (s.guarded o.q do
    s.needPriv
    s.touchG o.a
    let (_, t) ← s.read1 o.b
    return (t.setG o.a (BitVec.ofNat 64 (field (Tab.get 0 (t.slice (t.kernel t.me.part)).logctl 2) 32 32))).advance)

end Sys2Proof.Machine
end

