-- ==== Sys2Proof/Machine/Vector.lean ====
section
/-! DEFINITION. The vector heads (R322 to R346): their lanes, their issue into the VX queue, what VX computes when a head starts and writes
when it completes, and the vector loads and stores. -/

namespace Sys2Proof.Machine

/-! ## Lanes (R124, R322) -/

/-- The lane width of a suffix; the heads of type 14 act on byte lanes. -/
def laneW (t : Ty) : Nat := if t = .nosfx then 8 else tyBits t

def laneN (t : Ty) : Nat := 512 / laneW t

/-- Lane `i` of a register. -/
def lane (t : Ty) (x : Line) (i : Nat) : Nat := x.toNat / 2 ^ (laneW t * i) % 2 ^ laneW t

/-- A register from its lanes. -/
def ofLanes (t : Ty) (f : Nat → Nat) : Line :=
  BitVec.ofNat 512 ((List.range (laneN t)).foldr (fun i a => f i % 2 ^ laneW t + 2 ^ laneW t * a) 0)

/-- Does lane `i` act under the lanes a prefix selects? For .t4 a bit selects the two codes of a byte (R66, R123). -/
def laneActs (m : Word) (t : Ty) (i : Nat) : Bool := m.getLsbD (if t = .t4 then i / 2 else i)

/-- The bytes of the register that lanes satisfying `p` cover. -/
def laneBytes (t : Ty) (p : Nat → Bool) : BitVec 64 :=
  BitVec.ofNat 64 (((List.range 64).filter fun b => p (8 * b / laneW t)).map (2 ^ ·)).sum

/-- The lanes that a prefix selects. -/
def State.actsOf (s : State) : Guard → Word
  | .always => BitVec.allOnes 64
  | .on p inv => if inv then ~~~(s.p p) else s.p p

/-- The value that a general register broadcasts to every lane; for type 14 to every 64-bit word (R323). -/
def bcast (t : Ty) (w : Word) : Line :=
  if t = .nosfx then lineOf (List.replicate 8 w)
  else ofLanes t fun _ => if t = .f19 then w.toNat % 2 ^ 19 else w.toNat % 2 ^ laneW t

/-! ## What the heads compute -/

/-- Minors of the arithmetic and comparison families (R327, R329). -/
inductive VArith
  | add | sub | mul | min | max | minn | maxn
  deriving DecidableEq, Repr

/-- One lane of VADD, VSUB, VMUL and the VMIN family, plain or saturating. -/
def vlane (k : VArith) (sat : Bool) (t : Ty) (x y : Nat) : Nat :=
  if t.isFloat then
    let a := tyVal t x
    let b := tyVal t y
    tyEnc t sat (match k with
      | .add => a.add b
      | .sub => a.sub b
      | .mul => a.mul b
      | .min => valExtreme false false a b
      | .max => valExtreme true false a b
      | .minn => valExtreme false true a b
      | .maxn => valExtreme true true a b)
  else
    let a := intVal t.isSigned (laneW t) x
    let b := intVal t.isSigned (laneW t) y
    let r := match k with
      | .add => a + b
      | .sub => a - b
      | .mul => a * b
      | .min | .minn => min a b
      | .max | .maxn => max a b
    wrapInt (laneW t) (if sat then clampInt t.isSigned (laneW t) r else r)

/-- One lane of VFMA or VFMS: rounded once (R328). -/
def fmaLane (t : Ty) (sub : Bool) (x y z : Nat) : Nat :=
  let d := tyVal t z
  tyEnc t false (((tyVal t x).mul (tyVal t y)).add (if sub then d.negate else d))

/-- One lane's condition (R253, R331). -/
def vcmpLane (cc : Cc) (t : Ty) (x y : Nat) : Bool :=
  ccHolds cc (if t.isFloat then (tyVal t x).cmp (tyVal t y)
    else some (compare (intVal t.isSigned (laneW t) x) (intVal t.isSigned (laneW t) y)))

/-- The table of VLOG3 over every bit (R330, R252). -/
def vlog3 (tt : Byte) (x y z : Line) : Line :=
  BitVec.ofNat 512 ((List.range 512).foldr (fun j a =>
    (if tt.getLsbD ((if x.getLsbD j then 4 else 0) + (if y.getLsbD j then 2 else 0) + (if z.getLsbD j then 1 else 0)) then 1 else 0) + 2 * a) 0)

/-- A conversion from `ls` source lanes to `lt` target lanes in part `part` (R332): the source lane of a target lane that takes part. -/
def partSrc (ls lt part i : Nat) : Option Nat :=
  if ls ≤ lt then (if part * ls ≤ i ∧ i < part * ls + ls then some (i - part * ls) else none)
  else some (part * lt + i)

/-- A conversion of lanes: the target register and the bytes it writes (R332). -/
def convLanes (s t : Ty) (part : Nat) (acts : Word) (x : Line) (f : Nat → Nat) : Line × BitVec 64 :=
  (ofLanes t fun i => match partSrc (laneN s) (laneN t) part i with | some j => f (lane s x j) | none => 0,
    laneBytes t fun i => laneActs acts t i && (partSrc (laneN s) (laneN t) part i).isSome)

/-- The lanes of VPERM (R337). -/
def permLanes (t : Ty) (b c : Line) (d : Option Line) : Line :=
  ofLanes t fun i =>
    let j := lane t c i
    match d with
    | none => contained t (lane t b (j % laneN t))
    | some d => let j := j % (2 * laneN t); contained t (if j < laneN t then lane t b j else lane t d (j - laneN t))

/-- The operation of VRED. -/
inductive VRed
  | add | min | max
  deriving DecidableEq, Repr

/-- The identity of a reduction (R338). -/
def redIdent (k : VRed) (t : Ty) : Nat :=
  if t = .f32 then (match k with | .add => 0x80000000 | .min => 0x7F800000 | .max => 0xFF800000)
  else (match k with | .add => 0 | .min => 0x7FFFFFFF | .max => 0x80000000)

def redOp (k : VRed) (t : Ty) (x y : Nat) : Nat :=
  if t = .f32 then (match k with | .add => f32Add x y | .min => f32Min x y | .max => f32Max x y)
  else
    let a := intVal true 32 x
    let b := intVal true 32 y
    wrapInt 32 (match k with | .add => a + b | .min => min a b | .max => max a b)

/-- One level of the tree: neighbours are joined. -/
def redLevel (f : Nat → Nat → Nat) : List Nat → List Nat
  | x :: y :: r => f x y :: redLevel f r
  | l => l

/-- The fixed tree over sixteen lanes (R338). -/
def redTree (f : Nat → Nat → Nat) (l : List Nat) : Nat := (redLevel f (redLevel f (redLevel f (redLevel f l)))).headD 0

/-- The value that VRED writes. -/
def redVal (k : VRed) (t : Ty) (acts : Word) (x : Line) : Word :=
  let r := redTree (redOp k t) ((List.range 16).map fun i => if laneActs acts t i then lane t x i else redIdent k t)
  putBits t r

/-- The bits of a VCMP in their places (R331). -/
def cmpBits (cc : Cc) (t : Ty) (x y : Line) : Word :=
  BitVec.ofNat 64 (((List.range (laneN t)).filter fun i => vcmpLane cc t (lane t x i) (lane t y i)).map (2 ^ ·)).sum

/-- The predicate after VCMP: acting lanes take their results, the others keep, bits from the lane count up are 0. -/
def cmpMerge (t : Ty) (acts old new : Word) : Word := ((old &&& ~~~acts) ||| (new &&& acts)) &&& BitVec.ofNat 64 (2 ^ laneN t - 1)

/-! ## Issue (R325, R326) -/

/-- The destination that is marked pending at issue. -/
inductive VDest
  | vec
  | pred (p : PReg)
  | gen (r : GReg)
  deriving DecidableEq, Repr

/-- A handle that a VX head may consume through: bound, a stream, and on a channel that is still bound (R299, R326). -/
def State.streamOk (s : State) : VSrc → Try Unit
  | .v _ => .ok ()
  | .c h _ => if bit (s.h h) 63 && field (s.h h) 57 2 == 2 && (s.me.chan (s.chanOf h)).v then .ok () else .error (badHandle h)

/-- The channel of a vector source. -/
def State.streamOf (s : State) : VSrc → List (Handle × Chan × BitVec 4)
  | .v _ => []
  | .c h k => [(h, s.chanOf h, k)]

/-- The head as it enters the VX queue (R193, R325). -/
def State.vxItem (s : State) (i : Instr) (q : Guard) : VxItem where
  id := s.me.ids + 1
  i := i
  hidx := s.myIdx
  wpb := s.me.blk
  sid := s.myEnt.sid
  idx := BitVec.ofNat 5 (pcIdx s.me.pc)
  pc := s.me.pc
  bc := 0
  acts := s.actsOf q
  chans := []
  fptr := 0
  ws := false
  data := 0
  bm := 0
  moor := []
  started := false
  reqs := []
  owed := 0

/-- Deliver an engine fault that the task has not yet taken (R395, R396). -/
def State.deliverEng (s : State) (c : CoreId) (h : Hidx) (f : EngFault) (pc : VA) : State :=
  (s.modEnt c h fun e => { e with engf := e.engf.erase f }).deliver c h f.code true f.head.toNat f.detail f.faddr pc f.pc

/-- The engine faults of an entry that can be delivered: one of an MXRSM in fault service waits for RFT (R406). -/
def State.engDue (s : State) (c : CoreId) (h : Hidx) : List EngFault :=
  (s.ent c h).engf.filter fun f => !(f.again && bit (s.ws c (s.ent c h).wpb offFstat) 63)

/-- A head for an engine that has an undelivered fault of the task takes that fault instead; in a gang it waits for the line boundary
(R396, R400). -/
def State.takeEng (s : State) (g : Eng) : Try Unit :=
  match (s.engDue s.cur s.myIdx).find? fun f => f.eng == g with
  | some f => .error (.wait (if s.myEnt.ganged then s.gangHalt else s.deliverEng s.cur s.myIdx f s.me.pc))
  | none => .ok ()

/-- A head enters the VX queue, under the core's next name. -/
def State.vxPush (s : State) (x : VxItem) : State :=
  (s.modCore s.cur fun k => { k with vxq := k.vxq ++ [x], ids := k.ids + 1 }).emit (.vxHeadStart s.cur)

/-- Issue of a VX head: operands, handles, a place in the queue, the pending mark. -/
def State.vxIssue (s : State) (i : Instr) (q : Guard) (bs : List VSrc) (bc : Option GReg) (d : VDest) :
    Host.Outcome State Fault Refusal :=
  finish s do
    s.touchGuard q
    s.takeEng .vx
    (match bc with | some r => s.touchG r | none => .ok () : Try Unit)
    (if bs.any (fun b => match b with | .c _ _ => true | .v _ => false) then s.fencedBy 0 else .ok () : Try Unit)
    (match d with | .vec => .ok () | .pred p => s.touchP p | .gen r => s.touchG r : Try Unit)
    bs.forM s.streamOk
    ready (!(vxRegs i).any s.rstatBusy)
    ready (decide (s.me.vxq.length < 2))
    let x := { s.vxItem i q with bc := (bc.map s.g).getD 0, chans := bs.flatMap s.streamOf }
    let t := s.vxPush x
    let t := match d with
      | .vec => t
      | .pred p => t.pendP t.cur t.me.blk p true
      | .gen r => t.pendG t.cur t.me.blk r true
    return t.advanceEng

/-- The sources of two operands, and the register that is broadcast. -/
def opdSrc (b : VSrc) : VOpd → List VSrc
  | .src c => [b, c]
  | .bc _ => [b]

def opdBc : VOpd → Option GReg
  | .src _ => none
  | .bc g => some g

def State.vx3 (s : State) (i : Instr) (o : V3Op) : Host.Outcome State Fault Refusal :=
  s.vxIssue i o.q (opdSrc o.b o.c) (opdBc o.c) .vec

def execVadd (o : V3Op) (s : State) : Host.Outcome State Fault Refusal := s.vx3 (.vadd o) o
def execVsub (o : V3Op) (s : State) : Host.Outcome State Fault Refusal := s.vx3 (.vsub o) o
def execVmul (o : V3Op) (s : State) : Host.Outcome State Fault Refusal := s.vx3 (.vmul o) o
def execVaddSat (o : V3Op) (s : State) : Host.Outcome State Fault Refusal := s.vx3 (.vaddSat o) o
def execVsubSat (o : V3Op) (s : State) : Host.Outcome State Fault Refusal := s.vx3 (.vsubSat o) o
def execVmulSat (o : V3Op) (s : State) : Host.Outcome State Fault Refusal := s.vx3 (.vmulSat o) o
def execVmin (o : V3Op) (s : State) : Host.Outcome State Fault Refusal := s.vx3 (.vmin o) o
def execVmax (o : V3Op) (s : State) : Host.Outcome State Fault Refusal := s.vx3 (.vmax o) o
def execVminn (o : V3Op) (s : State) : Host.Outcome State Fault Refusal := s.vx3 (.vminn o) o
def execVmaxn (o : V3Op) (s : State) : Host.Outcome State Fault Refusal := s.vx3 (.vmaxn o) o

def State.vx4 (s : State) (i : Instr) (o : V4Op) : Host.Outcome State Fault Refusal :=
  s.vxIssue i o.q (opdSrc o.b o.c) (opdBc o.c) .vec

def execVfma (o : V4Op) (s : State) : Host.Outcome State Fault Refusal := s.vx4 (.vfma o) o
def execVfms (o : V4Op) (s : State) : Host.Outcome State Fault Refusal := s.vx4 (.vfms o) o

def State.vxLog (s : State) (i : Instr) (o : VLogOp) : Host.Outcome State Fault Refusal :=
  s.vxIssue i o.q (opdSrc o.b o.c) (opdBc o.c) .vec

def execVand (o : VLogOp) (s : State) : Host.Outcome State Fault Refusal := s.vxLog (.vand o) o
def execVor (o : VLogOp) (s : State) : Host.Outcome State Fault Refusal := s.vxLog (.vor o) o
def execVxor (o : VLogOp) (s : State) : Host.Outcome State Fault Refusal := s.vxLog (.vxor o) o
def execVsel (o : VLogOp) (s : State) : Host.Outcome State Fault Refusal := s.vxLog (.vsel o) o
def execVlog3 (o : VLogOp) (s : State) : Host.Outcome State Fault Refusal := s.vxLog (.vlog3 o) o

def State.vxCmp (s : State) (i : Instr) (o : VcmpOp) : Host.Outcome State Fault Refusal :=
  s.vxIssue i o.q (opdSrc o.b o.c) (opdBc o.c) (.pred o.p)

def execVcmpEq (o : VcmpOp) (s : State) : Host.Outcome State Fault Refusal := s.vxCmp (.vcmpEq o) o
def execVcmpNe (o : VcmpOp) (s : State) : Host.Outcome State Fault Refusal := s.vxCmp (.vcmpNe o) o
def execVcmpLt (o : VcmpOp) (s : State) : Host.Outcome State Fault Refusal := s.vxCmp (.vcmpLt o) o
def execVcmpLe (o : VcmpOp) (s : State) : Host.Outcome State Fault Refusal := s.vxCmp (.vcmpLe o) o
def execVcmpGt (o : VcmpOp) (s : State) : Host.Outcome State Fault Refusal := s.vxCmp (.vcmpGt o) o
def execVcmpGe (o : VcmpOp) (s : State) : Host.Outcome State Fault Refusal := s.vxCmp (.vcmpGe o) o

def execVcvt (o : VcvtOp) (s : State) : Host.Outcome State Fault Refusal := s.vxIssue (.vcvt o) o.q [o.b] none .vec
def execVcvtSat (o : VcvtOp) (s : State) : Host.Outcome State Fault Refusal := s.vxIssue (.vcvtSat o) o.q [o.b] none .vec
def execEnc (o : EncOp) (s : State) : Host.Outcome State Fault Refusal := s.vxIssue (.enc o) o.q [o.b] none .vec
def execEncSat (o : EncOp) (s : State) : Host.Outcome State Fault Refusal := s.vxIssue (.encSat o) o.q [o.b] none .vec
def execDec (o : EncOp) (s : State) : Host.Outcome State Fault Refusal := s.vxIssue (.dec o) o.q [o.b] none .vec

def execVbcast (o : VbcastOp) (s : State) : Host.Outcome State Fault Refusal :=
  s.vxIssue (.vbcast o) o.q [] (match o.b with | .g r => some r | .lane _ _ => none) .vec

def execVperm (o : VpermOp) (s : State) : Host.Outcome State Fault Refusal := s.vxIssue (.vperm o) o.q [o.b, o.c] none .vec

def execVredAdd (o : VredOp) (s : State) : Host.Outcome State Fault Refusal := s.vxIssue (.vredAdd o) o.q [] none (.gen o.a)
def execVredMin (o : VredOp) (s : State) : Host.Outcome State Fault Refusal := s.vxIssue (.vredMin o) o.q [] none (.gen o.a)
def execVredMax (o : VredOp) (s : State) : Host.Outcome State Fault Refusal := s.vxIssue (.vredMax o) o.q [] none (.gen o.a)

def execVrcp (o : VfnOp) (s : State) : Host.Outcome State Fault Refusal := s.vxIssue (.vrcp o) o.q [o.b] none .vec
def execVrsq (o : VfnOp) (s : State) : Host.Outcome State Fault Refusal := s.vxIssue (.vrsq o) o.q [o.b] none .vec
def execVexp2 (o : VfnOp) (s : State) : Host.Outcome State Fault Refusal := s.vxIssue (.vexp2 o) o.q [o.b] none .vec
def execVlog2 (o : VfnOp) (s : State) : Host.Outcome State Fault Refusal := s.vxIssue (.vlog2 o) o.q [o.b] none .vec

/-! ## Mooring entries (R190, R191) -/

/-- Claim one mooring entry; a head that finds none free stalls. -/
def State.moorClaim (s : State) (e : Moor) : Try (Nat × State) :=
  match (List.range 16).find? fun i => !(s.me.moorAt i).v with
  | some i => .ok (i, s.modCore s.cur fun k => { k with moor := Tab.set k.moor i e })
  | none => .error .stall

/-- Give entries back. -/
def Core.moorFree (k : Core) (l : List Nat) : Core := { k with moor := l.foldl (fun t i => Tab.set t i .reset) k.moor }

/-- Are `n` entries free? -/
def Core.moorRoom (k : Core) (n : Nat) : Bool := decide (n ≤ ((List.range 16).filter fun i => !(k.moorAt i).v).length)

/-! ## Vector addresses (R339, R340) -/

/-- What a vector memory head accesses: workspace or memory, format, block logarithm, address, register type. -/
structure VMem where
  ws  : Bool
  tag : Nat
  f   : Nat
  k   : Nat
  va  : Nat
  t   : Ty
  raw : Bool
  deriving DecidableEq, Repr

/-- The bytes a vector access needs, as offsets and lanes: for each acting lane its bytes, and the scale bytes of the blocks (R340). -/
def VMem.needed (m : VMem) (acts : Word) : List Nat :=
  let ls := (List.range (laneN m.t)).filter fun i => laneActs acts m.t i
  if m.raw then ls.map (m.va + ·)
  else if m.k ≠ 0 then
    ls.foldl (fun l i =>
      let l := if l.contains (scaleByte m.f m.k (m.va + i)) then l else l ++ [scaleByte m.f m.k (m.va + i)]
      if l.contains (codeByte m.f m.k (m.va + i)) then l else l ++ [codeByte m.f m.k (m.va + i)]) []
  else
    let n := elemSize m.t m.f
    ls.flatMap fun i => (List.range n).map (m.va + n * i + ·)

/-- The type and the place of a vector access; `.t8` and `.t4` move bytes (R339, R340). -/
def State.vmem (s : State) (o : VmemOp) : Try VMem := do
  s.touchG o.base
  s.touchG o.idx
  let p := s.g o.base
  let f := ptrFmt p
  let k := ptrBlog p
  let raw : Bool := o.t == .t8 || o.t == .t4
  if o.base = 0 then
    let off : Int := 4096 * s.me.blk.toNat + o.e.toInt + (s.g o.idx).toInt
    must (decide (0 ≤ off) && decide (off < (4096 * s.me.sblk.toNat : Int))) cPaFault (BitVec.ofInt 64 (off % 2 ^ 56))
    return ⟨true, 0, 0, 0, off.toNat, if raw then .z8 else elemTy o.t 0 0, raw⟩
  else do
    must (ptrLegal p && (k == 0 || o.e == 0)) cFormat p
    must (!raw || f == 0 || (o.t == .t8 && (f == 8 || f == 9) && k == 0)) cFormat p
    let v1 := if o.idx = 0 then (ptrVa p : Int) else pstepVa p (s.g o.idx).toInt
    must (decide (0 ≤ v1) && decide (v1 < 2 ^ 56)) cPtrOverflow (mkPtr (field p 56 8) (v1 % 2 ^ 56).toNat)
    let v2 := v1 + o.e.toInt
    must (decide (0 ≤ v2) && decide (v2 < 2 ^ 56)) cPtrOverflow (mkPtr (field p 56 8) (v2 % 2 ^ 56).toNat)
    return ⟨false, field p 56 8, f, k, v2.toNat, if raw then .z8 else elemTy o.t f k, raw⟩

/-- The lanes a vector access loads, from the bytes of memory. -/
def vldLanes (k : Core) (m : VMem) (rd : Nat → Byte) : Line :=
  ofLanes m.t fun i =>
    if m.raw then (rd (m.va + i)).toNat
    else if m.k ≠ 0 then (loadVal k m.t m.f m.k (m.va + i) rd).toNat
    else (loadVal k m.t m.f 0 (m.va + elemSize m.t m.f * i) rd).toNat

/-! ## VLD (R341) -/

/-- The bytes of a workspace access must lie in the usable scratchpad; the first that does not is named (R272). -/
def State.wsLimit (s : State) (bs : List Nat) : Try Unit :=
  match bs.find? fun b => decide (4096 * s.me.sblk.toNat ≤ b) with
  | some b => .error (.fault cPaFault 0 (BitVec.ofNat 64 b))
  | none => .ok ()

/-- Does a valid entry of an earlier VST meet a range of the running task's space (R341)? -/
def State.vstOver (s : State) (lo hi : Nat) : Bool :=
  s.me.moor.any fun m => m.2.v && m.2.eng == .vx && m.2.dir && m.2.sid == s.myEnt.sid && decide (m.2.lo ≤ hi) && decide (lo ≤ m.2.hi)

/-- The access of a held vector load, from its pointer. -/
def heldVmem (o : VmemOp) (p : Word) : VMem :=
  let raw : Bool := o.t == .t8 || o.t == .t4
  ⟨false, field p 56 8, ptrFmt p, ptrBlog p, ptrVa p, if raw then .z8 else elemTy o.t (ptrFmt p) (ptrBlog p), raw⟩

/-- The head enters the queue with its lanes. -/
def State.vldPush (s : State) (o : VmemOp) (m : VMem) (rd : Nat → Byte) (moor : List Nat) : State :=
  let acts := s.actsOf o.q
  (s.vxPush { s.vxItem (.vld o) o.q with
    data := vldLanes s.me m rd, bm := laneBytes m.t (laneActs acts m.t), moor := moor }).advanceEng

/-- The first step of VLD: everything up to its requests, which are sent as those of LD (R341). Its read counts in ORC as each load does (R136,
R273); the list of counted heads in R221 does not name VLD, and leaves engine operands out (DESIGN CHOICE, log 60). -/
def State.vldIssue (s : State) (o : VmemOp) : Try State := do
  s.touchGuard o.q
  s.takeEng .vx
  s.fenced 2
  ready (!s.rstatBusy o.a)
  let m ← s.vmem o
  let acts := s.actsOf o.q
  let bs := m.needed acts
  if bs.isEmpty then do
    ready (decide (s.me.vxq.length < 2))
    return s.vldPush o m (fun _ => 0) []
  else if m.ws then do
    let top := 4096 * s.me.sblk.toNat
    let hi := min (bs.foldl max m.va) (top - 1)
    (if m.va < top then s.wsReady m.va (hi + 1 - m.va) else .ok () : Try Unit)
    ready (decide (s.me.vxq.length < 2))
    s.wsFails bs
    return s.vldPush o m (fun b => Mem.read s.mem (spad s.cur b)) []
  else do
    must (bs.all fun b => decide (b < 2 ^ 56)) cPtrOverflow (mkPtr m.tag m.va)
    let lo := bs.headD m.va
    let hi := bs.foldl max m.va
    ready (s.me.moorRoom 1)
    let xs ← s.transPieces m.tag rRead 0 (pieces 64 bs)
    ready (!s.vstOver lo hi)
    xs.forM fun x => s.pathFree x.1.a (s.receiver s.cur s.me.part (atcPa x.2 x.1.a) true x.2.det) false
    ready (!s.ownPending)
    let id := s.me.ids + 1
    let t ← s.issueLoad true (xs.map (s.loadReq m.tag .load (.load 0))) (s.outst false false 0 .nosfx (mkPtr m.tag m.va) xs)
    let (i, t) ← t.moorClaim ⟨true, .vx, false, s.myIdx, s.myEnt.sid, lo, hi⟩
    return t.holdIn 6 [BitVec.ofNat 64 id, BitVec.ofNat 64 i]

/-- VLD (R341): phase 6 waits for the replies; then the head enters the queue with its data. -/
def execVld (o : VmemOp) (s : State) : Host.Outcome State Fault Refusal :=
  finish s (match s.me.hold with
    | some ⟨6, ws, r⟩ =>
      let id := (ws.getD 0 0).toNat
      let i := (ws.getD 1 0).toNat
      match r with
      | none => .error .stall
      | some (.fault c a) => .error (.wait ((s.modCore s.cur fun k => k.moorFree [i]).faultHere c 0 a s.me.pc))
      | some _ =>
        match s.me.loads.find? fun x => x.id == id with
        | some x =>
          if decide (s.me.vxq.length < 2) then
            let t := s.modCore s.cur fun k => { k with loads := k.loads.filter fun y => y.id != id }
            .ok (t.vldPush o (heldVmem o x.fptr) (fun b => Tab.get 0 x.got b) [i])
          else .error .stall
        | none => .ok s.advanceEng
    | _ => s.vldIssue o)

/-! ## VST (R342, R343) -/

/-- The scale exponent field that a format adds to the block maximum's (R343). -/
def efmt (k : Core) (f : Nat) : Int :=
  let top (t : Table) (n : Nat) : Int :=
    (List.range n).foldl (fun (a : Option Int × Int) c => match t.val c with
      | .fin _ m e => if m = 0 then a else match a.1 with
        | none => (some ((m.log2 : Int) + e), (m.log2 : Int) + e)
        | some x => let y := max x ((m.log2 : Int) + e); (some y, y)
      | _ => a) (none, 0) |>.2
  match f with
  | 1 => 6
  | 2 => 7
  | 12 => 2
  | 8 => top k.t0 256
  | 9 => top k.t1 256
  | 10 => top k.t0 16
  | _ => top k.t1 16

/-- floor(log2) of the largest finite magnitude, if one is not 0. -/
def maxLog (xs : List Val) : Option Int :=
  xs.foldl (fun a v => match v with
    | .fin _ m e => if m = 0 then a else match a with
      | none => some ((m.log2 : Int) + e)
      | some x => some (max x ((m.log2 : Int) + e))
    | _ => a) none

/-- The code of a quotient in a scaled format (R343). -/
def scaledCode (k : Core) (f : Nat) (sat : Bool) (q : Val) : Nat :=
  match f with
  | 1 => toInt true true 8 q
  | 2 => toInt true false 8 q
  | 12 => toInt true true 4 q
  | 8 => k.t0.enc false sat q
  | 9 => k.t1.enc false sat q
  | 10 => k.t0.enc true sat q
  | _ => k.t1.enc true sat q

/-- A block's scale byte and codes (R343). -/
def blockCodes (k : Core) (f : Nat) (sat : Bool) (xs : List Val) : Nat × List Nat :=
  if xs.any Val.isNan then (255, xs.map fun _ => 0)
  else
    let s : Int := match maxLog xs with
      | none => 127
      | some l => max 0 (min 254 (127 + l - efmt k f))
    (s.toNat, xs.map fun x => scaledCode k f sat (x.scale (127 - s)))

/-- The bytes of one block from its scale and codes: the scale first (R98, R343). -/
def blockBytes (f : Nat) (b : Nat × List Nat) : List Nat :=
  b.1 :: (if fmtWidth f = 4 then
      (List.range (b.2.length / 2)).map fun i => b.2.getD (2 * i) 0 + 16 * b.2.getD (2 * i + 1) 0
    else b.2)

/-- The bytes that a vector store writes, by address. -/
def vstBytes (k : Core) (m : VMem) (x : Line) : List (Nat × Nat) :=
  if m.raw then (List.range 64).map fun i => (m.va + i, (lineByte x i).toNat)
  else if m.k ≠ 0 then
    let n := 2 ^ m.k
    (List.range (laneN m.t / n)).flatMap fun b =>
      let l := blockBytes m.f (blockCodes k m.f false ((List.range n).map fun i => tyVal m.t (lane m.t x (n * b + i))))
      (List.range l.length).map fun i => (scaleByte m.f m.k (m.va + n * b) + i, l.getD i 0)
  else
    let n := elemSize m.t m.f
    (List.range (laneN m.t)).flatMap fun i =>
      let v := storeVal k m.t m.f (BitVec.ofNat 64 (lane m.t x i))
      (List.range n).map fun j => (m.va + n * i + j, v / 256 ^ j % 256)

/-- The checks of a store to a scaled pointer (R343). -/
def vstScaled (o : VmemOp) (m : VMem) : Try Unit :=
  must (m.k == 0 || (m.t.isFloat && m.va % 2 ^ m.k == 0 && decide (2 ^ m.k ≤ laneN m.t) && o.q == .always)) cFormat (mkPtr m.tag m.va)

/-- The request for one translated piece of an engine's store; its data come when the engine sends it. -/
def State.engReq (s : State) (tag : Nat) (ret : Ret) (x : Piece × AtcEntry) : MemReq :=
  { s.loadReq tag .store ret x with
    q := BitVec.ofNat 2 s.myEnt.qnum.toNat
    buoy := some ⟨receiverBuoy (atcPa x.2 x.1.a) (s.receiver s.cur s.me.part (atcPa x.2 x.1.a) false x.2.det), 0⟩ }

/-- Number the DET requests of an engine's head in issue order (R205). -/
def State.numberEng (s : State) : List MemReq → List MemReq × State
  | [] => ([], s)
  | r :: rest =>
    if r.det then
      let (l, t) := (s.modCore s.cur fun k => { k with detSeq := k.detSeq + 1 }).numberEng rest
      ({ r with seq := s.me.detSeq } :: l, t)
    else
      let (l, t) := s.numberEng rest
      (r :: l, t)

/-- VST (R342): translation, the claim and the first step at issue. -/
def execVst (o : VmemOp) (s : State) : Host.Outcome State Fault Refusal :=
  finish s do
    s.touchGuard o.q
    s.takeEng .vx
    s.fencedBy 2
    ready (!s.rstatBusy o.a)
    let m ← s.vmem o
    vstScaled o m
    let bs := m.needed (s.actsOf o.q)
    ready (decide (s.me.vxq.length < 2))
    if bs.isEmpty then return (s.vxPush { s.vxItem (.vst o) o.q with fptr := mkPtr m.tag m.va, ws := m.ws }).advanceEng
    else if m.ws then do
      s.wsLimit bs
      let hi := bs.foldl max m.va
      s.wsReady m.va (hi + 1 - m.va)
      let reqs := (pieces 64 bs).map fun p => s.lateReq 0 .store 0 0 p
      return (s.vxPush { s.vxItem (.vst o) o.q with fptr := mkPtr 0 m.va, ws := true, reqs := reqs }).advanceEng
    else do
      must (bs.all fun b => decide (b < 2 ^ 56)) cPtrOverflow (mkPtr m.tag m.va)
      ready (s.me.moorRoom 1)
      let xs ← s.transPieces m.tag rWrite 0 (pieces 64 bs)
      let reqs := xs.map (s.engReq m.tag .vxLine)
      reqs.forM fun r => s.pathFree (ptrVa r.fptr) (s.receiver s.cur s.me.part r.pa.toNat false r.det) true
      s.firstStep reqs
      let (reqs, t) := s.numberEng reqs
      let (reqs, t) := (match reqs with
        | r :: rest => let (r, t) := t.stepFor t.cur r .other; (r :: rest, t)
        | [] => ([], t) : List MemReq × State)
      let (i, t) ← t.moorClaim ⟨true, .vx, true, s.myIdx, s.myEnt.sid, bs.headD m.va, bs.foldl max m.va⟩
      return (t.vxPush { s.vxItem (.vst o) o.q with fptr := mkPtr m.tag m.va, moor := [i], reqs := reqs }).advanceEng

/-! ## The VX engine (R325, R326) -/

/-- A slot's eight words as VX takes them: words above the packet's length read as 0 (R326). -/
def State.slotLine (s : State) (c : CoreId) (ch : Chan) : Line × Bool :=
  let e := (s.core c).chan ch
  let tag := s.tagOf c e e.rd.toNat
  (lineOf ((List.range 8).map fun i => if i ≤ tag % 8 then s.rd64 (spad c (ringSlot e e.rd.toNat + 8 * i)) else 0), decide (8 ≤ tag))

/-- Consume one slot through a handle of a captured workspace (R326). -/
def State.takeSlot (s : State) (c : CoreId) (b : BitVec 7) (h : Handle) (ch : Chan) : Line × State :=
  let (x, eos) := s.slotLine c ch
  (x, (s.setHAt c b h (descWord (s.hAt c b h) eos 0)).freeSlot c ch)

/-- The value of a vector source of a started head: a register, or the slots it consumed in order. -/
def vsrcVal (v : VReg → Line) (slots : List Line) : VSrc → Line
  | .v r => v r
  | .c _ _ => slots.headD 0

/-- The value of the second source. -/
def vopdVal (v : VReg → Line) (slots : List Line) (t : Ty) (bc : Word) : VOpd → Line
  | .src x => vsrcVal v slots x
  | .bc _ => bcast t bc

/-- The slots left for vC after vB has taken its own. -/
def slotsAfter (b : VSrc) (slots : List Line) : List Line := match b with | .c _ _ => slots.drop 1 | .v _ => slots

/-- What a head computes at its start (R327 to R344): the destination register's value, the bytes it writes, and a word for a predicate or a
general register. -/
def vxResult (k : Core) (v : VReg → Line) (slots : List Line) (x : VxItem) : Line × BitVec 64 × Word :=
  let vec (t : Ty) (f : Nat → Nat) : Line × BitVec 64 × Word := (ofLanes t f, laneBytes t (laneActs x.acts t), 0)
  let bits (l : Line) : Line × BitVec 64 × Word := (l, laneBytes .nosfx (laneActs x.acts .nosfx), 0)
  let two (a : VArith) (sat : Bool) (o : V3Op) : Line × BitVec 64 × Word :=
    let b := vsrcVal v slots o.b
    let c := vopdVal v (slotsAfter o.b slots) o.t x.bc o.c
    vec o.t fun i => vlane a sat o.t (lane o.t b i) (lane o.t c i)
  let fma (sub : Bool) (o : V4Op) : Line × BitVec 64 × Word :=
    let b := vsrcVal v slots o.b
    let c := vopdVal v (slotsAfter o.b slots) o.t x.bc o.c
    vec o.t fun i => fmaLane o.t sub (lane o.t b i) (lane o.t c i) (lane o.t (v o.d) i)
  let logic (f : Line → Line → Line → Line) (o : VLogOp) : Line × BitVec 64 × Word :=
    bits (f (vsrcVal v slots o.b) (vopdVal v (slotsAfter o.b slots) .nosfx x.bc o.c) (v o.d))
  let comp (cc : Cc) (o : VcmpOp) : Line × BitVec 64 × Word :=
    (0, 0, cmpBits cc o.t (vsrcVal v slots o.b) (vopdVal v (slotsAfter o.b slots) o.t x.bc o.c))
  let conv (s t : Ty) (part : BitVec 3) (b : VSrc) (f : Nat → Nat) : Line × BitVec 64 × Word :=
    let (l, m) := convLanes s t part.toNat x.acts (vsrcVal v slots b) f
    (l, m, 0)
  let fn (f : Nat → Nat) (o : VfnOp) : Line × BitVec 64 × Word :=
    let b := vsrcVal v slots o.b
    vec .f32 fun i => f (lane .f32 b i)
  let red (r : VRed) (o : VredOp) : Line × BitVec 64 × Word := (0, 0, redVal r o.t x.acts (v o.b))
  let tab (n : Bool) : Table := if n then k.t1 else k.t0
  match x.i with
  | .vadd o => two .add false o
  | .vsub o => two .sub false o
  | .vmul o => two .mul false o
  | .vaddSat o => two .add true o
  | .vsubSat o => two .sub true o
  | .vmulSat o => two .mul true o
  | .vmin o => two .min false o
  | .vmax o => two .max false o
  | .vminn o => two .minn false o
  | .vmaxn o => two .maxn false o
  | .vfma o => fma false o
  | .vfms o => fma true o
  | .vand o => logic (fun b c _ => b &&& c) o
  | .vor o => logic (fun b c _ => b ||| c) o
  | .vxor o => logic (fun b c _ => b ^^^ c) o
  | .vsel o => logic (fun b c d => (b &&& d) ||| (c &&& ~~~d)) o
  | .vlog3 o => logic (vlog3 o.tt) o
  | .vcmpEq o => comp .eq o
  | .vcmpNe o => comp .ne o
  | .vcmpLt o => comp .lt o
  | .vcmpLe o => comp .le o
  | .vcmpGt o => comp .gt o
  | .vcmpGe o => comp .ge o
  | .vcvt o => conv o.s o.t o.part o.b (convert o.s o.t false)
  | .vcvtSat o => conv o.s o.t o.part o.b (convert o.s o.t true)
  | .enc o => conv o.s o.t o.part o.b fun n => (tab o.tbl).enc (o.t == .t4) false (tyVal o.s n)
  | .encSat o => conv o.s o.t o.part o.b fun n => (tab o.tbl).enc (o.t == .t4) true (tyVal o.s n)
  | .dec o => conv o.t o.s o.part o.b fun n => tyEnc o.s false ((tab o.tbl).val n)
  | .vbcast o => match o.b with
    | .g _ => (bcast o.t x.bc, laneBytes o.t (laneActs x.acts o.t), 0)
    | .lane r n => vec o.t fun _ => contained o.t (lane o.t (v r) n.toNat)
  | .vperm o =>
    (permLanes o.t (vsrcVal v slots o.b) (vsrcVal v (slotsAfter o.b slots) o.c) (o.d.map v), laneBytes o.t (laneActs x.acts o.t), 0)
  | .vredAdd o => red .add o
  | .vredMin o => red .min o
  | .vredMax o => red .max o
  | .vrcp o => fn f32Rcp o
  | .vrsq o => fn f32Rsq o
  | .vexp2 o => fn f32Exp2 o
  | .vlog2 o => fn f32Log2 o
  | _ => (x.data, x.bm, x.bc)

/-- The data of an engine's store request, from the bytes it writes. -/
def fillReq (bs : List (Nat × Nat)) (r : MemReq) : MemReq :=
  { r with data := BitVec.ofNat 512 ((List.range r.n).foldr (fun i a => (Tab.get 0 bs (ptrVa r.fptr + i)) + 256 * a) 0) }

end Sys2Proof.Machine
end

