-- ==== Sys2Proof/Machine/Matrix.lean ====
section
/-! DEFINITION. The matrix and lantern heads (R347 to R361), the accumulator's arithmetic (R111 to R115), and the events of the MX engine. -/

namespace Sys2Proof.Machine

/-! ## The accumulator (R111 to R115) -/

/-- One operand of a product: a class, a sign, a magnitude and an exponent, as R112 and R113 read it. -/
def prodCls (p : Val) : Cls :=
  match p with
  | .nan => .nan
  | .inf s => if s then .ninf else .pinf
  | .fin _ _ _ => .fin

/-- The class of an element after a step's products (R113). -/
def clsStep (c : Cls) (ps : List Val) : Cls :=
  ps.foldl (fun c p => match c, prodCls p with
    | .nan, _ => .nan
    | _, .nan => .nan
    | .pinf, .ninf => .nan
    | .ninf, .pinf => .nan
    | .fin, d => d
    | c, _ => c) c

/-- floor(log2) of the largest finite product, if one is not 0 (R114). -/
def prodTop (pss : List (List Val)) : Option Int := maxLog (pss.flatMap id)

/-- The sum of an element's finite products, each aligned at `2 ^ e` (R114). -/
def alignSum (e : Int) (ps : List Val) : Int :=
  (ps.map fun p => match p with | .fin n m x => rneInt n m (x - e) | _ => 0).foldl (· + ·) 0

/-- A mantissa shifted right by four bits, to nearest even (R114). -/
def shift4 (m : BitVec 48) : BitVec 48 := BitVec.ofInt 48 (rneInt (decide (m.toInt < 0)) m.toInt.natAbs (-4))

/-- Does every finite element's sum fit (R114)? -/
def sumsFit (es : List (Cls × BitVec 48)) (ss : List Int) : Bool :=
  (es.zip ss).all fun x => x.1.1 != .fin || decide ((x.1.2.toInt + x.2).natAbs < 2 ^ 47)

/-- The loop of R114: shift until the step fits. `fuel` bounds the shifts. -/
def alignLoop (pss : List (List Val)) : Nat → List (Cls × BitVec 48) → Int → List (Cls × BitVec 48) × Int
  | 0, es, e => (es, e)
  | fuel + 1, es, e =>
    let ss := pss.map (alignSum e)
    if sumsFit es ss then ((es.zip ss).map fun x => (x.1.1, BitVec.ofInt 48 (x.1.2.toInt + x.2)), e)
    else alignLoop pss fuel (es.map fun x => (x.1, shift4 x.2)) (e + 4)

/-- More shifts than any step takes: the products of two formats, each with its block scale, lie between 2 ^ -1100 and 2 ^ 1100 (R96, R104). -/
def alignFuel : Nat := 1024

/-- One step on a tile (R114): `pss` lists each element's products in row order. The classes are updated first, and an element that becomes non-finite in
this very step is left out of its test against 2^47 (DESIGN CHOICE, log 60). -/
def accStep (x : Acc) (pss : List (List Val)) : Acc :=
  let es := (x.elems.zip pss).map fun p => (clsStep p.1.1 p.2, p.1.2)
  if x.unset then
    match prodTop pss with
    | none => { x with elems := es }
    | some t =>
      let (es, e) := alignLoop pss alignFuel es (t - 40)
      { x with elems := es, e := BitVec.ofInt 16 e, unset := false }
  else
    let (es, e) := alignLoop pss alignFuel es x.e.toInt
    { x with elems := es, e := BitVec.ofInt 16 e }

/-- The products of a step in row order (R112): rows of A by columns of B. -/
def stepProducts (a b : List (List Val)) : List (List Val) :=
  (List.range 32).flatMap fun i => (List.range 32).map fun j =>
    (List.range 32).map fun k => ((a.getD i []).getD k .zero).mul ((b.getD k []).getD j .zero)

/-- The value or class of an element (R115). -/
def elemVal (e : BitVec 16) (x : Cls × BitVec 48) : Val :=
  match x.1 with
  | .fin => .fin (decide (x.2.toInt < 0)) x.2.toInt.natAbs e.toInt
  | .pinf => .inf false
  | .ninf => .inf true
  | .nan => .nan

/-- Element (i, j) of a tile. -/
def Acc.at (x : Acc) (i j : Nat) : Val := elemVal x.e (x.elems.getD (32 * i + j) (.fin, 0))

/-- The conversion of an element under R105 and R115: a result of zero that comes from the accumulator is +0. -/
def accEnc (t : Ty) (sat : Bool) (v : Val) : Nat :=
  let c := tyEnc t sat v
  if t.isFloat && c == (tyFmt t).signBit then 0 else c

/-! ## Operand rows (R351, R352) -/

def swSb (w : Word) : Int := (w.extractLsb' 40 24).toInt
def swSa (w : Word) : Int := (w.extractLsb' 16 24).toInt
def swAm1 (w : Word) : Nat := field w 11 5
def swKm1 (w : Word) : Nat := field w 6 5
def swBm1 (w : Word) : Nat := field w 1 5

/-- The codes of a row: the exact VA of element `i * stride`, and the last (R58, R351). -/
def rowVa (p : Word) (first : Int) (n : Nat) : Int × Int := (pstepVa p first, pstepVa p (first + n))

/-- The bytes that the elements from code address `v` to `w` take: first and last, whole blocks for a scaled format (R98, R100). -/
def spanBytes (f k : Nat) (v w : Int) : Int × Int :=
  if k = 0 then (v, w + (fmtWidth f / 8 : Nat) - 1)
  else
    let bl : Int := (2 ^ k * fmtWidth f / 8 + 1 : Nat)
    (v / 2 ^ k * bl, w / 2 ^ k * bl + bl - 1)

/-- The byte ranges of an operand's rows (R348): row `i` starts at element `i * stride`. -/
def rowSpans (p : Word) (stride : Int) (rm1 cm1 : Nat) : List (Int × Int) :=
  (List.range (rm1 + 1)).map fun (i : Nat) =>
    let (v, w) := rowVa p ((i : Int) * stride) cm1
    spanBytes (ptrFmt p) (ptrBlog p) v w

/-- Lowest and highest byte of some ranges. -/
def hull : List (Int × Int) → Int × Int
  | [] => (0, -1)
  | x :: r => r.foldl (fun a b => (min a.1 b.1, max a.2 b.2)) x

/-- Every byte of an operand lies in the address space, and every code does (R100, R348). -/
def rowsOk (p : Word) (stride : Int) (rm1 cm1 : Nat) : Bool :=
  ((List.range (rm1 + 1)).all fun i =>
    let (v, w) := rowVa p (i * stride) cm1
    decide (0 ≤ v) && decide (w < 2 ^ 56))
  && ((rowSpans p stride rm1 cm1).all fun x => decide (0 ≤ x.1) && decide (x.2 < 2 ^ 56))

/-- The formats that MXMUL and MXS3 accept (R351, R352). -/
def mulFmt (s3 : Bool) (p : Word) : Bool :=
  ptrLegal p && (if s3 then ptrFmt p == 7 else [1, 2, 5, 6, 8, 9, 10, 11, 12].contains (ptrFmt p))

/-- The elements of a fetched row as exact values, filled with +0 (R351). -/
def rowVals (k : Core) (p : Word) (first : Int) (cm1 : Nat) (rd : Nat → Byte) : List Val :=
  let f := ptrFmt p
  let b := ptrBlog p
  (List.range 32).map fun j =>
    if cm1 < j then .zero
    else
      let v := (pstepVa p (first + j)).toNat
      if b ≠ 0 then scaledVal k f (rd (scaleByte f b v)).toNat (codeOf f v (rd (codeByte f b v)).toNat)
      else codeVal k f (((List.range (fmtWidth f / 8)).map fun i => (rd (v + i)).toNat * 256 ^ i).sum)

/-- The two parts of an F32 operand (R352). -/
def split3 (x : Val) : Val × Val :=
  match x with
  | .fin _ _ _ =>
    let hi := Fmt.f19.decode (Fmt.f19.encode true x)
    (hi, Fmt.f19.decode (Fmt.f19.encode false (x.sub hi)))
  | _ => (Fmt.f19.decode (Fmt.f19.encode false x), .zero)

/-- The step of a head on its fetched rows: one for MXMUL, three for MXS3 (R351, R352). -/
def mulSteps (s3 : Bool) (x : Acc) (a b : List (List Val)) : Acc :=
  if s3 then
    let ah := a.map fun r => r.map fun v => (split3 v).1
    let al := a.map fun r => r.map fun v => (split3 v).2
    let bh := b.map fun r => r.map fun v => (split3 v).1
    let bl := b.map fun r => r.map fun v => (split3 v).2
    accStep (accStep (accStep x (stepProducts ah bh)) (stepProducts ah bl)) (stepProducts al bh)
  else accStep x (stepProducts a b)

/-! ## What MXST writes (R355, R356) -/

/-- The formats a suffix may be stored through. -/
def mxstFmt (t : Ty) (p : Word) : Bool :=
  let f := ptrFmt p
  ptrLegal p && (match t with
    | .i8 => f == 1 || f == 0
    | .i16 => f == 3 || f == 0
    | .i32 => f == 4 || f == 0
    | .f16 => f == 5 || f == 0
    | .bf16 => f == 6 || f == 0
    | .f32 => f == 7 || f == 0
    | .f19 => f == 0
    | .t8 => f == 8 || f == 9
    | .t4 => f == 10 || f == 11
    | _ => false)

/-- The bytes of one element. -/
def mxstSize (t : Ty) : Nat := match t with | .t8 | .t4 => 1 | t => tyBits t / 8

/-- The exact address of element (i, j): through a RAW pointer the elements step at the suffix's width (R355). -/
def mxstVa (t : Ty) (p : Word) (s : Int) (i j : Nat) : Int :=
  if ptrFmt p = 0 then (ptrVa p : Int) + (i * s + j) * mxstSize t else pstepVa p (i * s + j)

/-- Is element (i, j) enabled by the mask word? -/
def maskOn (w : Word) (i j : Nat) : Bool := bit w i && bit w (32 + j)

/-- The enabled elements in row order. -/
def enabled (w : Word) : List (Nat × Nat) :=
  (List.range 32).flatMap fun i => ((List.range 32).filter fun j => maskOn w i j).map fun j => (i, j)

/-- The checks of a scaled destination (R356). -/
def mxstScaled (p w : Word) (s : Int) : Bool :=
  let k := ptrBlog p
  k == 0 || (decide (2 ^ k ≤ 32) && (List.range 32).all fun i =>
    decide (pstepVa p (i * s) % 2 ^ k = 0) && (!bit w i || (List.range (32 / 2 ^ k)).all fun b =>
      let n := ((List.range (2 ^ k)).filter fun j => bit w (32 + 2 ^ k * b + j)).length
      n == 0 || n == 2 ^ k))

/-- The byte ranges of the enabled elements. -/
def mxstSpans (t : Ty) (p w : Word) (s : Int) : List (Int × Int) :=
  (enabled w).map fun x =>
    let v := mxstVa t p s x.1 x.2
    if ptrBlog p = 0 then (v, v + mxstSize t - 1) else spanBytes (ptrFmt p) (ptrBlog p) v v

/-- The checks of MXST at issue (R348, R355, R356). -/
def mxstOk (t : Ty) (p w : Word) (s : Int) : Try Unit := do
  must (mxstFmt t p && mxstScaled p w s) cFormat p
  must ((enabled w).all fun x => decide (0 ≤ mxstVa t p s x.1 x.2) && decide (mxstVa t p s x.1 x.2 < 2 ^ 56)) cPtrOverflow p
  must ((mxstSpans t p w s).all fun x => decide (0 ≤ x.1) && decide (x.2 < 2 ^ 56)) cPtrOverflow p

/-- The bytes that MXST writes, in rising order of address. -/
def mxstBytes (k : Core) (acc : Acc) (t : Ty) (sat : Bool) (p w : Word) (s : Int) : Tab Nat :=
  let f := ptrFmt p
  let b := ptrBlog p
  let put (l : Tab Nat) (a : Nat) (bs : List Nat) : Tab Nat :=
    (List.range bs.length).foldl (fun l i => Tab.set l (a + i) (bs.getD i 0)) l
  if b ≠ 0 then
    let n := 2 ^ b
    ((List.range 32).flatMap fun i => (List.range (32 / n)).map fun c => (i, c)).foldl (fun l x =>
      if maskOn w x.1 (n * x.2) then
        let vs := (List.range n).map fun j => acc.at x.1 (n * x.2 + j)
        put l (scaleByte f b (mxstVa t p s x.1 (n * x.2)).toNat) (blockBytes f (blockCodes k f sat vs))
      else l) []
  else
    (enabled w).foldl (fun l x =>
      let v := acc.at x.1 x.2
      let c := match t with
        | .t8 => (if f = 8 then k.t0 else k.t1).enc false sat v
        | t => accEnc t sat v
      put l (mxstVa t p s x.1 x.2).toNat ((List.range (mxstSize t)).map fun i => c / 256 ^ i % 256)) []

/-! ## Issue (R348, R349) -/

/-- May the running task use an accumulator (R141, R349)? `clr` is MXCLR's own case. -/
def State.accOk (s : State) (a : AReg) (clr : Bool) : Try Unit := do
  let k := s.me
  let mine : Bool := k.mxprog.mv && (k.acc k.mxprog.acc).own == .task s.myIdx
  must (!mine || (clr && a == k.mxprog.acc)) cIllegalOp 0 2
  must ((k.acc a).own == .task s.myIdx || (clr && (k.acc a).own == .none)) cAccOwned 0 (a.setWidth 32)

/-- The head as it enters the MX queue. -/
def State.mxItem (s : State) (i : Instr) (pa pb sw st : Word) (moor : List Nat) : MxItem where
  id := s.me.ids + 1
  i := i
  who := s.who
  hidx := s.myIdx
  wpb := s.me.blk
  idx := BitVec.ofNat 5 (pcIdx s.me.pc)
  pc := s.me.pc
  q := BitVec.ofNat 2 s.myEnt.qnum.toNat
  pa := pa
  pb := pb
  sw := sw
  st := st
  moor := moor
  started := false
  await := false
  arows := []
  brows := []
  got := []
  reqs := []
  owed := 0
  log := []
  remote := false
  fault := none

/-- A head enters the MX queue. -/
def State.mxPush (s : State) (x : MxItem) : State :=
  (s.modCore s.cur fun k => { k.countMx false 3 with ids := k.ids + 1, mxq := k.mxq ++ [x] }).emit (.mxHeadStart s.cur false)

/-- A place in the queue; an engine fault of the task comes first (R193, R396), and before a head that accesses memory what holds engine operations (R226,
R231). -/
def State.mxPlace (s : State) (mem : Bool) : Try Unit := do
  s.takeEng .mx
  if mem then s.fenced 2 else .ok ()
  ready (decide (s.me.mxq.length < 2))

def execMxclr (acc : AReg) (s : State) : Host.Outcome State Fault Refusal :=
  finish s do
    s.takeEng .mx
    s.accOk acc true
    s.mxPlace false
    let t := s.modCore s.cur fun k => k.setAcc acc { k.acc acc with own := .task s.myIdx }
    return (t.mxPush (s.mxItem (.mxclr acc) 0 0 0 0 [])).advanceEng

/-- MXMUL and MXS3 at issue (R348, R351, R352). -/
def State.mxmulIssue (s : State) (o : MxmulOp) (s3 : Bool) : Host.Outcome State Fault Refusal :=
  finish s (s.guarded o.q do
    s.touchG o.b
    s.touchG o.c
    s.touchG o.d
    s.takeEng .mx
    let pa := s.g o.b
    let pb := s.g o.c
    let w := s.g o.d
    must (mulFmt s3 pa) cFormat pa
    must (mulFmt s3 pb) cFormat pb
    must (rowsOk pa (swSa w) (swAm1 w) (swKm1 w)) cPtrOverflow pa
    must (rowsOk pb (swSb w) (swKm1 w) (swBm1 w)) cPtrOverflow pb
    s.accOk o.acc false
    s.mxPlace true
    let ha := hull (rowSpans pa (swSa w) (swAm1 w) (swKm1 w))
    let hb := hull (rowSpans pb (swSb w) (swKm1 w) (swBm1 w))
    ready (s.me.moorRoom 2)
    let (i, t) ← s.moorClaim ⟨true, .mx, false, s.myIdx, s.myEnt.sid, ha.1.toNat, ha.2.toNat⟩
    let (j, t) ← t.moorClaim ⟨true, .mx, false, s.myIdx, s.myEnt.sid, hb.1.toNat, hb.2.toNat⟩
    return (t.mxPush (s.mxItem (if s3 then .mxs3 o else .mxmul o) pa pb w 0 [i, j])).advanceEng)

def execMxmul (o : MxmulOp) (s : State) : Host.Outcome State Fault Refusal := s.mxmulIssue o false
def execMxs3 (o : MxmulOp) (s : State) : Host.Outcome State Fault Refusal := s.mxmulIssue o true

/-- The row stride of MXST (R355). -/
def mxstStride (d : Option Word) : Int := match d with | some w => (w.setWidth 32 : BitVec 32).toInt | none => 32

/-- MXST and MXST.SAT at issue. -/
def State.mxstIssue (s : State) (o : MxstOp) (sat : Bool) : Host.Outcome State Fault Refusal :=
  finish s (s.guarded o.q do
    s.touchG o.b
    s.touchG o.c
    (match o.d with | some r => s.touchG r | none => .ok () : Try Unit)
    s.takeEng .mx
    let p := s.g o.b
    let w := s.g o.c
    let st := o.d.map s.g
    mxstOk o.t p w (mxstStride st)
    s.accOk o.acc false
    s.mxPlace true
    let sw : Word := BitVec.ofInt 64 (mxstStride st)
    if (enabled w).isEmpty then return (s.mxPush (s.mxItem (if sat then .mxstSat o else .mxst o) p 0 w sw [])).advanceEng
    else do
      let h := hull (mxstSpans o.t p w (mxstStride st))
      let (i, t) ← s.moorClaim ⟨true, .mx, true, s.myIdx, s.myEnt.sid, h.1.toNat, h.2.toNat⟩
      return (t.mxPush (s.mxItem (if sat then .mxstSat o else .mxst o) p 0 w sw [i])).advanceEng)

def execMxst (o : MxstOp) (s : State) : Host.Outcome State Fault Refusal := s.mxstIssue o false
def execMxstSat (o : MxstOp) (s : State) : Host.Outcome State Fault Refusal := s.mxstIssue o true

/-- MXRSM (R354); of another accumulator than the recorded one it is a head that R349 refuses with detail 2. -/
def execMxrsm (acc : AReg) (s : State) : Host.Outcome State Fault Refusal :=
  finish s do
    s.takeEng .mx
    let k := s.me
    let other : Bool := k.mxprog.mv && (k.acc k.mxprog.acc).own == .task s.myIdx && k.mxprog.acc != acc
    must (k.mxprog.mv && k.mxprog.acc == acc && (k.acc acc).own == .task s.myIdx) cIllegalOp 0 (if other then 2 else 0)
    s.mxPlace true
    return (s.mxPush (s.mxItem (.mxrsm acc) 0 0 0 0 [])).advanceEng

/-- RSTAT and RSTAT.E at issue (R361): the registers they name wait for earlier lantern heads. -/
def State.rstatIssue (s : State) (i : Instr) (acc : AReg) (c : Word) : Try State := do
  s.takeEng .mx
  s.accOk acc false
  s.mxPlace false
  return (s.mxPush (s.mxItem i 0 0 0 c [])).advanceEng

def execRstat (o : RstatOp) (s : State) : Host.Outcome State Fault Refusal := finish s (s.rstatIssue (.rstat o) o.acc 0)
def execRstatE (o : RstatEOp) (s : State) : Host.Outcome State Fault Refusal :=
  finish s do
    s.touchG o.k
    s.rstatIssue (.rstatE o) o.acc (s.g o.k)

/-! ## MXEDGE (R357) -/

/-- The masks or the origin of a sub-tile, from GEOM's two words and the selector. -/
def edgeVal (g43 g44 sel : Word) : Word :=
  let gx := field g43 52 12
  let gy := field g43 40 12
  let cx := field g43 28 12
  let cy := field g43 16 12
  let tm := field g43 8 8
  let tn := field g43 0 8
  let mm := field g44 42 21
  let nn := field g44 21 21
  let tr := field sel 8 8
  let tc := field sel 0 8
  let row0 := (cy * tm + tr) * 32
  let col0 := (cx * tn + tc) * 32
  if bit sel 16 then BitVec.ofNat 64 (row0 % 2 ^ 32 * 2 ^ 32 + col0 % 2 ^ 32)
  else if gx ≤ cx ∨ gy ≤ cy ∨ tm ≤ tr ∨ tn ≤ tc then 0
  else BitVec.ofNat 64 ((2 ^ min 32 (nn - col0) - 1) * 2 ^ 32 + (2 ^ min 32 (mm - row0) - 1))

def execMxedge (o : MxacOp) (s : State) : Host.Outcome State Fault Refusal :=
  finish s do
    s.touchG o.a
    s.touchG o.c
    return (s.setG o.a (edgeVal (s.wsW offGeom) (s.wsW (offGeom + 8)) (s.g o.c))).advance

/-! ## Split mode (R358) and remote commands (R359, R360) -/

/-- MXSPLIT (R358): bit 0 of gC asks for the mode, so both rows of the table decode the same word by its value. Packets that leave the ingress buffer are
offered again as events of `net`, so that those count as buffered too. -/
def State.mxsplit (s : State) (o : MxacOp) : Host.Outcome State Fault Refusal :=
  finish s do
    s.needPriv
    s.touchG o.a
    s.touchG o.c
    let k := s.me
    let want := bit (s.g o.c) 0
    if want == k.mxs then return (s.setG o.a 0).advance
    else if want then do
      ready k.mxq.isEmpty
      if (k.acc 2).own != .none || (k.acc 3).own != .none then return (s.setG o.a (statusWord 8 0)).advance
      else
        let t := s.modCore s.cur fun k => { (k.setAcc 2 (.cleared .remote)).setAcc 3 (.cleared .remote) with mxs := true }
        return (t.setG o.a 0).advance
    else do
      ready (k.mxrq.isEmpty && k.inMx.isEmpty && !s.net.any fun ev => match ev with | .mxcmdReceive p _ _ => p.dst == s.cur | _ => false)
      let t := s.modCore s.cur fun k => { (k.setAcc 2 (.cleared .none)).setAcc 3 (.cleared .none) with mxs := false }
      return (t.setG o.a 0).advance

def execMxsplitEnter (o : MxacOp) (s : State) : Host.Outcome State Fault Refusal := s.mxsplit o
def execMxsplitLeave (o : MxacOp) (s : State) : Host.Outcome State Fault Refusal := s.mxsplit o

/-- MXREM (R359): the block goes out as one MXCMD packet, and the task waits for the two words of its status. The spec defines no sub-code for the class
MXCMD; the packet's is 0 (DESIGN CHOICE, log 60). -/
def execMxrem (o : RrOp) (s : State) : Host.Outcome State Fault Refusal :=
  finish s (s.awaiting 7 (fun _ b =>
      match b with
      | .pair w0 w1 => .ok ((s.setG o.a w0).setG (o.a + 1) w1).advance
      | _ => .ok s.advance)
    (s.awaiting 3 (fun ws _ =>
      let w := ws.getD 0 0
      let ddev : BitVec 10 := BitVec.ofNat 10 (field w 54 10)
      let k : Packet := ⟨s.me.dev, s.me.part, false, s.cur, ddev, false, BitVec.ofNat 11 (field w 43 11), false, 0, 5, ws.take 8⟩
      let ev : Event := .mxcmdReceive k s.who (BitVec.ofNat 2 s.myEnt.qnum.toNat)
      let t := if ddev = s.me.dev then s.emit ev else { s with out := s.out ++ [ev] }
      .ok (t.holdIn 7 [])) (do
        s.touchG (o.a + 1)
        s.msgHead 1 o.a o.b 64 64)))

/-- The status a remote command ends with (R360). -/
def State.remStatus (s : State) (w : Who) (w0 w1 : Word) : State := s.emit (.memrepReceive ⟨w.core, .held w.hidx, .pair w0 w1, none, false⟩)

def remWord (code fault arow brow : Nat) : Word :=
  BitVec.ofNat 64 (code * 2 ^ 56 + fault % 2 ^ 16 * 2 ^ 40 + arow % 64 * 2 ^ 34 + brow % 64 * 2 ^ 28)

/-- The suffixes of MXST by code (R71, R82). -/
def mxstTy (n : Nat) : Option Ty :=
  match n with
  | 0 => some .i8
  | 1 => some .i16
  | 2 => some .i32
  | 8 => some .f16
  | 9 => some .bf16
  | 10 => some .f19
  | 11 => some .f32
  | 12 => some .t8
  | 13 => some .t4
  | _ => none

/-- The command block as the head that it stands for (R359, R360); none where it is refused. -/
def remInstr (ws : List Word) : Option Instr :=
  let w := ws.getD 0 0
  let acc : AReg := if bit w 39 then 3 else 2
  if field w 12 23 ≠ 0 ∨ field w 0 12 ≠ 0 ∨ ws.getD 6 0 ≠ 0 ∨ ws.getD 7 0 ≠ 0 then none
  else match field w 40 3 with
    | 0 => some (.mxclr acc)
    | 1 => some (.mxmul ⟨.always, acc, 1, 2, 3⟩)
    | 2 => some (.mxs3 ⟨.always, acc, 1, 2, 3⟩)
    | 3 => (mxstTy (field w 35 4)).map fun t => .mxst ⟨.always, t, acc, 1, 2, some 3⟩
    | 4 => (mxstTy (field w 35 4)).map fun t => .mxstSat ⟨.always, t, acc, 1, 2, some 3⟩
    | _ => none

/-- The checks that a local head would make at issue, as a fault of the command. -/
def remCheck (i : Instr) (ws : List Word) : Try Unit :=
  let pa := ws.getD 2 0
  let pb := ws.getD 3 0
  let w := ws.getD 4 0
  let mul (s3 : Bool) : Try Unit := do
    must (mulFmt s3 pa) cFormat pa
    must (mulFmt s3 pb) cFormat pb
    must (rowsOk pa (swSa w) (swAm1 w) (swKm1 w)) cPtrOverflow pa
    must (rowsOk pb (swSb w) (swKm1 w) (swBm1 w)) cPtrOverflow pb
  match i with
  | .mxmul _ => mul false
  | .mxs3 _ => mul true
  | .mxst o | .mxstSat o => mxstOk o.t pa w (mxstStride (some (ws.getD 5 0)))
  | _ => .ok ()

/-- MXCMD_RECEIVE (R28, R173, R360): a masked class or a full remote queue leaves the packet in the ingress buffer. -/
def execMxcmdReceive (s : State) : Host.Outcome State Fault Refusal :=
  match s.ev with
  | some (.mxcmdReceive k w q) =>
    let c := k.dst
    let x := s.core c
    if k.pid ≠ x.part then .next (s.discardPkt k)
    else if x.cmask.getLsbD 2 || decide (2 ≤ x.mxrq.length) then .next (s.modCore c fun x => { x with inMx := x.inMx ++ [(k, w, q)] })
    else match remInstr k.ws with
      | none => .next (s.remStatus w (remWord 2 0 0 0) 0)
      | some i =>
        if !x.mxs || x.capmx == 0 || k.ws.getD 1 0 != x.capmx then .next (s.remStatus w (remWord 10 0 0 0) 0)
        else match remCheck i k.ws with
          | .error (.fault c _ a) => .next (s.remStatus w (remWord 11 c.toNat 0 0) a)
          | _ =>
            let y : MxItem := ⟨x.ids + 1, i, w, w.hidx, 0, 0, 0, q, k.ws.getD 2 0, k.ws.getD 3 0, k.ws.getD 4 0,
              BitVec.ofInt 64 (mxstStride (some (k.ws.getD 5 0))), [], false, false, [], [], [], [], 0, [], true, none⟩
            .next ((s.modCore c fun x => { x with ids := x.ids + 1, mxrq := x.mxrq ++ [y] }).emit (.mxHeadStart c true))
  | _ => .next s

/-! ## The MX engine (R193, R349, R353) -/

/-- Must a head wait at the front for another task's MXPROG (R349)? -/
def Core.mxHeld (k : Core) (x : MxItem) : Bool :=
  k.mxprog.mv && (k.acc k.mxprog.acc).own != .task x.hidx && (match x.i with | .mxmul _ | .mxs3 _ => true | _ => false)

/-- The head that MX serves: the first in the queue, but that heads of other tasks pass one that waits for MXPROG, so that MXRSM can reach
the front (R349). -/
def Core.mxNext (k : Core) : List Hidx → List MxItem → Option MxItem
  | _, [] => none
  | skip, x :: r => if skip.contains x.hidx || k.mxHeld x then k.mxNext (x.hidx :: skip) r else some x

def Core.mxPick (k : Core) (rem : Bool) : Option MxItem := if rem then k.mxrq.head? else (k.mxq.find? fun x => x.await || decide (0 < x.owed)) <|> k.mxNext [] k.mxq

/-- Put a head back in its place of a queue. -/
def Core.setMx (k : Core) (rem : Bool) (x : MxItem) : Core :=
  let f (l : List MxItem) : List MxItem := l.map fun y => if y.id = x.id then x else y
  if rem then { k with mxrq := f k.mxrq } else { k with mxq := f k.mxq }

/-- Let MX go on with the head it serves. -/
def State.kickMx (s : State) (c : CoreId) (rem : Bool) : State :=
  match (s.core c).mxPick rem with
  | some x =>
    match x.i with
    | .mxst _ | .mxstSat _ => s.emit (if x.started || x.await || x.fault.isSome then .mxstSend c rem else .mxHeadStart c rem)
    | _ => s.emit (.mxHeadStart c rem)
  | none => s

/-- A head leaves its queue; the entries in `free` are released, and the next may start. A place in the remote queue is offered to a held
packet (R28). -/
def State.mxPop (s : State) (c : CoreId) (rem : Bool) (x : MxItem) (free : List Nat) : State :=
  let s := s.modCore c fun k =>
    let k := k.moorFree free
    if rem then { k with mxrq := k.mxrq.filter fun y => y.id != x.id } else { k with mxq := k.mxq.filter fun y => y.id != x.id }
  let s := s.kickMx c rem
  if rem then s.offerMx c else s.tryFree c x.hidx

/-- An engine fault that an entry has still to take; for an entry that has ended it goes to the kernel (R305, R396). -/
def State.addEng (s : State) (c : CoreId) (h : Hidx) (f : EngFault) : State :=
  let e := s.ent c h
  if !e.v || e.st == 5 then s.sysRec (s.core c).part (engWords f)
  else s.modEnt c h fun e => { e with engf := e.engf ++ [f] }

/-- A fault of the head that MX serves (R353, R355, R360). While MXPROG is set for its task, that head is the one that MXRSM resumed (R349, R406). -/
def State.mxFault (s : State) (c : CoreId) (rem : Bool) (x : MxItem) (code : Code) (faddr : Word) : State :=
  let na := swAm1 x.sw + 1
  let nb := swKm1 x.sw + 1
  let arow := if na ≤ x.arows.length then 32 else x.arows.length
  let brow := if nb ≤ x.brows.length then 32 else x.brows.length
  if rem then (s.remStatus x.who (remWord 11 code.toNat arow brow) faddr).mxPop c true x x.moor
  else
    let resumed : Bool := (s.core c).mxprog.mv && ((s.core c).acc (s.core c).mxprog.acc).own == .task x.hidx
    let f : EngFault := ⟨.mx, code, x.idx, 0, faddr, x.pc, resumed⟩
    let later := (s.core c).mxq.filter fun y => y.hidx == x.hidx && decide (x.id < y.id)
    let keep : Bool := match x.i with
      | .mxmul o | .mxs3 o => ((s.core c).acc o.acc).own == .task x.hidx
      | _ => false
    let acc : AReg := match x.i with | .mxmul o | .mxs3 o => o.acc | _ => 0
    let s := s.modCore c fun k =>
      { k.moorFree (later.flatMap (·.moor)) with
        mxq := k.mxq.filter fun y => !(y.hidx == x.hidx && decide (x.id < y.id))
        mxprog := if keep then
            ⟨true, acc, BitVec.ofNat 6 arow, BitVec.ofNat 6 brow, some { x with started := false, await := false, got := [], reqs := [], fault := none }⟩
          else k.mxprog }
    (s.addEng c x.hidx f).mxPop c false x (if keep then [] else x.moor)

/-- The answer of the ATC to an engine: an entry, a fault, or a miss (R182, R353); a missing right asks the home under page-fault service (R189). -/
def State.engLook (s : State) (c : CoreId) (sid : Sid) (va right : Nat) : Except Code (Option AtcEntry) :=
  match (s.core c).atcFind sid va with
  | some e => if e.rts.getLsbD right then .ok (some e) else if s.mode (s.core c).part 1 then .ok none else .error cNoRight
  | none => .ok none

/-- Translate the pieces of an engine access, lowest first: those before the first byte that misses or faults, and that byte. -/
def State.engPieces (s : State) (c : CoreId) (sid : Sid) (right : Nat) : List Piece → List (Piece × AtcEntry) × Option (Nat × Option Code)
  | [] => ([], none)
  | p :: r =>
    match s.engLook c sid p.a right with
    | .error e => ([], some (p.a, some e))
    | .ok none => ([], some (p.a, none))
    | .ok (some e) =>
      let (l, b) := s.engPieces c sid right r
      ((if e.det then pieces 8 (((List.range p.n).filter fun i => p.bm.getLsbD i).map (p.a + ·)) else [p]).map (fun q => (q, e)) ++ l, b)

/-- Ask the home for a translation that MX needs; MX waits for the step (R353). -/
def State.mxMiss (s : State) (c : CoreId) (rem : Bool) (x : MxItem) (tag va right : Nat) : State :=
  let w : Who := { x.who with core := c }
  let b : BuoyId := BitVec.ofNat 7 (s.home w.pid w.sid va)
  if ((s.core c).buoy b).val = 0 then s
  else
    let t := (s.takeStep c (some b) (.space x.hidx (.mxLine rem) (mkPtr tag va))).modCore c fun k => (k.count 7).setMx rem { x with await := true }
    t.emit (.translationMiss ⟨w, mkPtr tag va, BitVec.ofNat 4 (2 ^ right), 2, some (s.stepOf c (some b)), .mxLine rem⟩)

/-- A request of MX for one translated piece. -/
def State.mxReq (s : State) (c : CoreId) (rem : Bool) (x : MxItem) (tag : Nat) (op : BankOp) (y : Piece × AtcEntry) : MemReq :=
  let a := atcPa y.2 y.1.a
  let w : Who := { x.who with core := c }
  ⟨w, op, BitVec.ofNat 56 a, y.1.n, 0, y.1.bm, mkPtr tag y.1.a, y.2.key, y.2.det, x.q, 0,
    some ⟨receiverBuoy a (s.receiver c w.pid a (match op with | .load => true | _ => false) y.2.det), 0⟩, .mxLine rem, none, 0⟩

/-- Send the requests of the head that MX serves while their buoys have steps and their paths are free (R228, R353, R355). -/
def State.mxPump (s : State) (c : CoreId) (rem : Bool) (id : Nat) : List MemReq → State
  | [] => s
  | r :: rest =>
    let k := s.core c
    match k.mxPick rem with
    | some x =>
      if x.id = id && k.hasStep r.buoy && s.pathOk c (s.pathOf c r) then
        let (r, s) := s.withStep c r
        let s := s.modCore c fun k => k.setMx rem { x with reqs := rest, owed := x.owed + 1 }
        (s.dispatch r).mxPump c rem id rest
      else s
    | none => s

/-- The row that MX fetches next: of A, of B, or none (R353). -/
def MxItem.nextRow (x : MxItem) : Option (Bool × Nat) :=
  let na := swAm1 x.sw + 1
  let nb := swKm1 x.sw + 1
  let i := x.arows.length
  let j := x.brows.length
  if i < na ∧ (i ≤ j ∨ nb ≤ j) then some (true, i) else if j < nb then some (false, j) else none

/-- Pointer, first element and last column of a row. -/
def MxItem.row (x : MxItem) (r : Bool × Nat) : Word × Int × Nat :=
  if r.1 then (x.pa, r.2 * swSa x.sw, swKm1 x.sw) else (x.pb, r.2 * swSb x.sw, swBm1 x.sw)

/-- Go on with a row whose requests are formed: send what lies below the lowest failure so far, take the row in, or stop at that failure once
nothing below it is left (R100, R353). -/
def State.mxRow (s : State) (c : CoreId) (rem : Bool) (x : MxItem) (r : Bool × Nat) : State :=
  let (p, first, cm1) := x.row r
  match x.fault with
  | some (code, a) =>
    let left := x.reqs.filter fun q => decide (ptrVa q.fptr < ptrVa a)
    if left.isEmpty && x.owed == 0 then s.mxFault c rem x code a
    else (s.modCore c fun k => k.setMx rem { x with reqs := left }).mxPump c rem x.id left
  | none =>
    if x.reqs.isEmpty && x.owed == 0 then
      let vals := rowVals (s.core c) p first cm1 fun b => Tab.get 0 x.got b
      let s := s.addLog c x.log
      let x := { x with
        started := false, got := [], log := []
        arows := if r.1 then x.arows ++ [vals] else x.arows, brows := if r.1 then x.brows else x.brows ++ [vals] }
      (s.modCore c fun k => k.setMx rem x).emit (.mxHeadStart c rem)
    else s.mxPump c rem x.id x.reqs

/-- Fetch the next row of operands, or go on to the step (R353). The bytes of a row below one that fails translation are read first, since the
lowest failing byte is reported. -/
def State.mxFetch (s : State) (c : CoreId) (rem : Bool) (x : MxItem) : State :=
  if x.await then s
  else match x.nextRow with
    | none => s.emit (.mxStepApply c rem)
    | some r =>
      if x.started then s.mxRow c rem x r
      else
        let (p, first, cm1) := x.row r
        let tag := field p 56 8
        let (lo, hi) := spanBytes (ptrFmt p) (ptrBlog p) (rowVa p first cm1).1 (rowVa p first cm1).2
        let (l, bad) := s.engPieces c x.who.sid rRead (pieces 64 ((List.range (hi + 1 - lo).toNat).map (lo.toNat + ·)))
        match bad, x.fault with
        | some (va, none), none => s.mxMiss c rem x tag va rRead
        | _, _ =>
          let f := match x.fault, bad with
            | some f, _ => some f
            | none, some (va, some code) => some (code, mkPtr tag va)
            | none, _ => none
          let reqs := l.map fun y => s.mxReq c rem x tag .load y
          let y := { x with started := true, reqs := reqs, fault := f, log := l.flatMap fun y => logBytes y.2 y.1.n }
          (s.modCore c fun k => k.setMx rem y).mxRow c rem y r

/-- The three row statistics of RSTAT, and the exponential sums of RSTAT.E (R361). -/
def rowTree (f : Nat → Nat → Nat) (l : List Nat) : Nat := (redLevel f (redLevel f (redLevel f (redLevel f (redLevel f l))))).headD 0

def rowF32 (x : Acc) (i : Nat) : List Nat := (List.range 32).map fun j => accEnc .f32 false (x.at i j)

def rowMax (x : Acc) (i : Nat) : Nat := rowTree f32Max (rowF32 x i)
def rowSum (x : Acc) (i : Nat) : Nat := rowTree f32Add (rowF32 x i)
def rowSq (x : Acc) (i : Nat) : Nat := rowTree f32Add ((rowF32 x i).map fun v => f32Mul v v)
def rowExp (x : Acc) (m c : Nat) (i : Nat) : Nat := rowTree f32Add ((rowF32 x i).map fun v => f32Exp2 (f32Mul (f32Sub v m) c))

/-- Write a value per row into a pair of registers (R361). -/
def State.setPair (s : State) (c : CoreId) (b : BitVec 7) (v : VReg) (f : Nat → Nat) : State :=
  (s.setVAt c b v (ofLanes .f32 f)).setVAt c b (v + 1) (ofLanes .f32 fun i => f (16 + i))

/-- Write the results of a lantern head. -/
def State.lantern (s : State) (c : CoreId) (x : MxItem) : State :=
  match x.i with
  | .rstat o =>
    let a := (s.core c).acc o.acc
    ((s.setPair c x.wpb o.a (rowMax a)).setPair c x.wpb (o.a + 2) (rowSum a)).setPair c x.wpb (o.a + 4) (rowSq a)
  | .rstatE o =>
    let a := (s.core c).acc o.acc
    let lo := s.vAt c x.wpb o.c
    let hi := s.vAt c x.wpb (o.c + 1)
    s.setPair c x.wpb o.a fun i => rowExp a (if i < 16 then lane .f32 lo i else lane .f32 hi (i - 16)) (x.st.toNat % 2 ^ 32) i
  | _ => s

/-- Has an earlier VX head of the task still to write the row maxima that RSTAT.E reads (R361)? -/
def Core.rstatWaits (k : Core) (x : MxItem) : Bool :=
  match x.i with
  | .rstatE o => k.vxq.any fun y => y.hidx == x.hidx && decide (y.id < x.id) && (vxDest y.i == some o.c || vxDest y.i == some (o.c + 1))
  | _ => false

/-- MX_HEAD_START (R350, R353, R354): the head that MX serves fetches its operands; MXCLR and the lantern heads have their effect. -/
def execMxHeadStart (s : State) : Host.Outcome State Fault Refusal :=
  match s.ev with
  | some (.mxHeadStart c rem) =>
    let k := s.core c
    match k.mxPick rem with
    | none => .next s
    | some x =>
      match x.i with
      | .mxclr a =>
        let own : Owner := if rem then .remote else (k.acc a).own
        let kill : Bool := !rem && k.mxprog.mv && k.mxprog.acc == a
        let locked := if kill then (k.mxprog.item.map (·.moor)).getD [] else []
        let t := s.modCore c fun k =>
          { k.setAcc a (.cleared own) with mxprog := if kill then { k.mxprog with mv := false, item := none } else k.mxprog }
        let t := if rem then t.remStatus x.who 0 0 else t
        .next (t.mxPop c rem x (x.moor ++ locked))
      | .rstat _ => .next ((s.lantern c x).mxPop c rem x x.moor)
      | .rstatE _ => if k.rstatWaits x then .next s else .next ((s.lantern c x).mxPop c rem x x.moor)
      | .mxmul _ => .next (s.mxFetch c rem x)
      | .mxs3 _ => .next (s.mxFetch c rem x)
      | .mxrsm _ =>
        match k.mxprog.item with
        | some y => .next ((s.modCore c fun k => k.setMx rem { y with id := x.id, idx := x.idx, pc := x.pc }).emit (.mxHeadStart c rem))
        | none => .next (s.mxPop c rem x x.moor)
      | .mxst _ => if (enabled x.sw).isEmpty then .next ((if rem then s.remStatus x.who 0 0 else s).mxPop c rem x x.moor) else .next (s.emit (.mxstSend c rem))
      | .mxstSat _ => if (enabled x.sw).isEmpty then .next ((if rem then s.remStatus x.who 0 0 else s).mxPop c rem x x.moor) else .next (s.emit (.mxstSend c rem))
      | _ => .next (s.mxPop c rem x x.moor)
  | _ => .next s

/-- MX_STEP_APPLY (R114, R191, R354): the step is applied and the mooring entries are released; a resumed head ends MXPROG. -/
def execMxStepApply (s : State) : Host.Outcome State Fault Refusal :=
  match s.ev with
  | some (.mxStepApply c rem) =>
    match (s.core c).mxPick rem with
    | none => .next s
    | some x =>
      let apply (s3 : Bool) (a : AReg) : State :=
        if x.nextRow.isSome then s
        else
          let t := s.modCore c fun k =>
            let k := ((k.setAcc a (mulSteps s3 (k.acc a) x.arows x.brows)).count 4).countMx rem 4
            if !rem && k.mxprog.mv && (k.acc k.mxprog.acc).own == .task x.hidx then { k with mxprog := { k.mxprog with mv := false, item := none } } else k
          let t := if rem then t.remStatus x.who 0 0 else t
          t.mxPop c rem x x.moor
      match x.i with
      | .mxmul o => .next (apply false o.acc)
      | .mxs3 o => .next (apply true o.acc)
      | _ => .next s
  | _ => .next s

/-- The requests of an MXST, with the bytes of its tile. -/
def State.mxstReqs (s : State) (c : CoreId) (rem : Bool) (x : MxItem) (bs : Tab Nat) (l : List (Piece × AtcEntry)) : List MemReq :=
  l.map fun y => fillReq bs (s.mxReq c rem x (field x.pa 56 8) .store y)

/-- Number the DET requests of an engine's core as they are formed (R205). -/
def State.numberAt (s : State) (c : CoreId) : List MemReq → List MemReq × State
  | [] => ([], s)
  | r :: rest =>
    if r.det then
      let (l, t) := (s.modCore c fun k => { k with detSeq := k.detSeq + 1 }).numberAt c rest
      ({ r with seq := (s.core c).detSeq } :: l, t)
    else
      let (l, t) := s.numberAt c rest
      (r :: l, t)

/-- One round of MXST_SEND: translation of every page first, then the requests in ascending order (R355). -/
def State.mxstStep (s : State) (c : CoreId) (rem : Bool) (x : MxItem) (o : MxstOp) (sat : Bool) : State :=
  if x.await then s
  else if x.started then
    if x.reqs.isEmpty && x.owed == 0 then
      let t := if rem then
          (match x.fault with | some (code, a) => s.remStatus x.who (remWord 11 code.toNat 0 0) a | none => s.remStatus x.who 0 0)
        else s
      t.mxPop c rem x x.moor
    else s.mxPump c rem x.id x.reqs
  else match x.fault with
    | some (code, a) => s.mxFault c rem x code a
    | none =>
      let bs := mxstBytes (s.core c) ((s.core c).acc o.acc) o.t sat x.pa x.sw x.st.toInt
      let tag := field x.pa 56 8
      match s.engPieces c x.who.sid rWrite (pieces 64 (bs.map (·.1))) with
      | (_, some (va, some code)) => s.mxFault c rem x code (mkPtr tag va)
      | (_, some (va, none)) => s.mxMiss c rem x tag va rWrite
      | (l, none) =>
        let (reqs, t) := s.numberAt c (s.mxstReqs c rem x bs l)
        (t.modCore c fun k => k.setMx rem { x with started := true, reqs := reqs }).mxPump c rem x.id reqs

/-- MXST_SEND (R355). -/
def execMxstSend (s : State) : Host.Outcome State Fault Refusal :=
  match s.ev with
  | some (.mxstSend c rem) =>
    match (s.core c).mxPick rem with
    | none => .next s
    | some x =>
      match x.i with
      | .mxst o => .next (s.mxstStep c rem x o false)
      | .mxstSat o => .next (s.mxstStep c rem x o true)
      | _ => .next s
  | _ => .next s

end Sys2Proof.Machine
end

