-- ==== Sys2Proof/Machine/CopyEngine.lean ====
section
/-! DEFINITION. The copy engine: CXQ, CXQ.NB and CXWAIT (R371 to R384), and the events of a transfer (R375 to R382). -/

namespace Sys2Proof.Machine

/-! ## A request's fields (R372 to R374) -/

def CxReq.mode (q : CxReq) : Nat := field q.w0 60 4
def CxReq.ord (q : CxReq) : Bool := bit q.w0 59
def CxReq.cch (q : CxReq) : BitVec 2 := BitVec.ofNat 2 (field q.w0 54 2)
def CxReq.len (q : CxReq) : Nat := field q.w0 0 32
def CxReq.word (q : CxReq) (i : Nat) : Word := q.blk.getD i 0

/-- Has the mode a parameter block? -/
def cxBlock (mode : Nat) : Bool := mode == 1 || mode == 4 || mode == 5 || mode == 6

def cxConv (mode : Nat) : Bool := mode == 2 || mode == 3

/-- Rows of the transfer and the row strides in bytes. -/
def CxReq.rows (q : CxReq) : Nat := if q.mode = 1 ∨ q.mode = 4 then field (q.word 0) 0 16 else 1
def CxReq.sSrc (q : CxReq) : Int := if q.mode = 1 ∨ q.mode = 4 then (q.word 1).toInt else 0
def CxReq.sDst (q : CxReq) : Int := if q.mode = 1 ∨ q.mode = 4 then (q.word 2).toInt else 0

/-- The barrier pointer that receives the posts, 0 for none (R377). -/
def CxReq.barPtr (q : CxReq) : Word := if cxBlock q.mode then q.word 3 else q.w3

/-- First and last byte of a run of elements. -/
def elemSpan (p : Word) (n : Nat) : Int × Int := spanBytes (ptrFmt p) (ptrBlog p) (ptrVa p) (pstepVa p ((n : Int) - 1))

/-- The source range: first and last byte (R190). -/
def CxReq.src (q : CxReq) : Int × Int :=
  if cxConv q.mode then elemSpan q.w1 q.len
  else
    let n := q.len + (if q.mode = 5 then 16 else 0)
    hull ((List.range q.rows).map fun (r : Nat) => ((ptrVa q.w1 : Int) + r * q.sSrc, (ptrVa q.w1 : Int) + r * q.sSrc + n - 1))

/-- The bytes of one destination row. -/
def CxReq.dlen (q : CxReq) : Nat :=
  if cxConv q.mode then ((elemSpan q.w2 q.len).2 + 1 - (elemSpan q.w2 q.len).1).toNat else q.len + (if q.mode = 6 then 16 else 0)

/-- The first byte of a destination row. -/
def CxReq.dst0 (q : CxReq) (r : Nat) : Int :=
  if cxConv q.mode then (elemSpan q.w2 q.len).1 else (ptrVa q.w2 : Int) + r * q.sDst

def CxReq.dst (q : CxReq) : Int × Int := hull ((List.range q.rows).map fun r => (q.dst0 r, q.dst0 r + q.dlen - 1))

/-- A barrier or gate pointer that R373 accepts. -/
def barPtrOk (p : Word) : Bool := decide (ptrFmt p ≤ 12) && ptrBlog p == 0 && ptrVa p % 64 == 0

/-- The checks on the words of a request (R372, R373). -/
def cxWords (w0 w1 w2 w3 : Word) : Try Unit := do
  let mode := field w0 60 4
  let len := field w0 0 32
  must (decide (mode < 7) && field w0 56 3 == 0 && field w0 32 22 == 0 && len != 0) cBadCopy 0
  if cxConv mode then do
    must (ptrLegal w1 && ptrFmt w1 != 0) cFormat w1
    must (ptrLegal w2 && ptrFmt w2 != 0) cFormat w2
    must (ptrVa w2 % 2 ^ ptrBlog w2 == 0 && len % 2 ^ ptrBlog w2 == 0) cBadCopy 0
  else do
    must (ptrBlog w1 == 0) cFormat w1
    must (ptrBlog w2 == 0) cFormat w2
  must (cxBlock mode || w3 == 0 || barPtrOk w3) cBadCopy 0

/-- May a parameter block stand where w3 says (R373)? -/
def State.cxBlockOk (s : State) (w3 : Word) : Bool :=
  field w3 19 45 == 0 && field w3 0 19 % 64 == 0 && decide (2432 ≤ field w3 0 19)
    && decide (4096 * s.me.blk.toNat + field w3 0 19 + 64 ≤ 4096 * s.me.sblk.toNat)

/-- The checks on a parameter block (R374). -/
def cxBlockWords (q : CxReq) : Try Unit := do
  let bar (p : Word) : Bool := p == 0 || barPtrOk p
  if q.mode = 1 ∨ q.mode = 4 then
    must (field (q.word 0) 16 48 == 0 && q.rows != 0 && (decide (q.rows ≤ 1) || decide (q.len ≤ q.sDst.natAbs))
      && bar (q.word 3) && (if q.mode = 4 then q.word 4 != 0 && barPtrOk (q.word 4) else q.word 4 == 0)
      && q.word 5 == 0 && q.word 6 == 0 && q.word 7 == 0) cBadCopy 0
  else if q.mode = 5 ∨ q.mode = 6 then
    must (field (q.word 0) 6 58 == 0 && field (q.word 1) 32 32 == 0 && bar (q.word 3) && decide (q.word 4 ≤ 16#64) && q.word 7 == 0) cBadCopy 0
  else .ok ()

/-- The checks on the ranges (R373). -/
def cxRanges (q : CxReq) : Try Unit := do
  must (decide (0 ≤ q.src.1) && decide (q.src.2 < 2 ^ 56)) cPtrOverflow q.w1
  must (decide (0 ≤ q.dst.1) && decide (q.dst.2 < 2 ^ 56)) cPtrOverflow q.w2
  must (decide (q.src.2 < q.dst.1) || decide (q.dst.2 < q.src.1)) cBadCopy 0

/-- The key slot of a GCM transfer, when the partition may use it (R380, R425). -/
def State.gcmKey (s : State) (p : Pid) (q : CxReq) : Option KeySlot :=
  let k : KeySlot := Tab.get .reset s.keys (field (q.word 0) 0 6)
  if k.state = 2 ∧ k.part = p then some k else none

/-! ## CXQ and CXQ.NB -/

/-- The request as its words and block stand at issue, checked (R371 steps 1 and 2). A poisoned block is no fault of the head (R391): its words are taken as
they stand and POISON is the first fault of the transfer (DESIGN CHOICE, log 59). -/
def State.cxRequest (s : State) (o : CxqOp) : Try CxReq := do
  s.touchG o.a
  s.touchRun o.b.toNat 4
  let w (i : Nat) : Word := s.g (o.b + BitVec.ofNat 4 i)
  cxWords (w 0) (w 1) (w 2) (w 3)
  let mode := field (w 0) 60 4
  must (!cxBlock mode || s.cxBlockOk (w 3)) cBadCopy 0
  let off := 4096 * s.me.blk.toNat + field (w 3) 0 19
  must (!(cxBlock mode && s.sealedHit s.cur off 64)) cNoRight (BitVec.ofNat 64 off)
  let blk := if cxBlock mode then (List.range 8).map fun i => s.rd64 (spad s.cur (off + 8 * i)) else []
  let q : CxReq := ⟨w 0, w 1, w 2, w 3, blk, 0, s.myIdx, s.who, [], none,
    if cxBlock mode then (s.spadPoison off 64).map (BitVec.ofNat 64 ·) else none⟩
  cxBlockWords q
  cxRanges q
  must (q.mode != 6 || (match s.gcmKey s.me.part q with | some k => k.inv != BitVec.allOnes 64 | none => true)) cBadCopy 0
  return q

/-- Would CXQ stall (R193, R195)? A request counts against the FIFO from its issue, also while the two-entry queue carries it. -/
def State.cxFull (s : State) : Bool :=
  decide (2 ≤ s.me.cxq.length) || decide (8 ≤ s.me.cxq.length + s.me.fifo.length) || !s.me.moorRoom 2

/-- The invocation counter of an encrypt-out is taken and written into the block, as a store of the task (R380). -/
def State.cxInvoke (s : State) (q : CxReq) : CxReq × State :=
  if q.mode = 6 then
    match s.gcmKey s.me.part q with
    | some k =>
      let n := field (q.word 0) 0 6
      let t := s.storeWs (4096 * s.me.blk.toNat + field q.w3 0 19 + 16) 8 k.inv.toNat
      ({ q with blk := q.blk.set 2 k.inv }, { t with keys := Tab.set t.keys n { k with inv := k.inv + 1 } })
    | none => (q, s)
  else (q, s)

/-- The request enters the coprocessor queue with its identifier and its two mooring entries (R193, R195, R371). -/
def State.cxEnter (s : State) (o : CxqOp) (q : CxReq) : Try State := do
  let (q, t) := s.cxInvoke q
  let id := s.me.cxNext q.cch
  let (i, t) ← t.moorClaim ⟨true, .cx, false, s.myIdx, s.myEnt.sid, q.src.1.toNat, q.src.2.toNat⟩
  let (j, t) ← t.moorClaim ⟨true, .cx, true, s.myIdx, s.myEnt.sid, q.dst.1.toNat, q.dst.2.toNat⟩
  let t := t.modCore t.cur fun k =>
    { k with cxnext := Tab.set k.cxnext q.cch.toNat (id + 1), cxq := k.cxq ++ [{ q with id := id, moor := [i, j] }] }
  return ((t.setG o.a (id.setWidth 64)).emit (.cxTransferStart s.cur)).advanceEng

/-- CXQ and CXQ.NB (R371); a halo transfer first reads its gate's gen word (R379). -/
def State.cxqHead (s : State) (o : CxqOp) (nb : Bool) : Host.Outcome State Fault Refusal :=
  finish s (s.awaiting 8 (fun ws _ => do
      let q ← s.cxRequest o
      s.cxEnter o { q with gate := some (BitVec.ofNat 50 (ws.getD 1 0).toNat, (ws.getD 0 0).extractLsb' 32 32) })
    (s.guarded o.q do
      let q ← s.cxRequest o
      s.fenced 2
      if s.cxFull then
        if nb then return (s.setG o.a 0x0100000000000000).advanceEng else .error .stall
      else if q.mode = 4 then do
        let p := q.word 4
        let gen := mkPtr (field p 56 8) (ptrVa p + 24)
        let e ← s.translate (ptrVa gen) rRead gen 0
        let t ← s.readBytes gen 8
        return t.holdIn 8 [1, BitVec.ofNat 64 (atcPa e (ptrVa gen) / 64)]
      else s.cxEnter o q))

def execCxq (o : CxqOp) (s : State) : Host.Outcome State Fault Refusal := s.cxqHead o false
def execCxqNb (o : CxqOp) (s : State) : Host.Outcome State Fault Refusal := s.cxqHead o true

/-! ## CXWAIT (R383) -/

/-- The task waits at CXWAIT, switched out with state 3 (R383, R384); in a gang the leader's state is every member's, and a follower stalls. -/
def State.cxSleep (s : State) (n : BitVec 2) (g : BitVec 32) : State :=
  if s.myEnt.g then s.stall
  else
    let h := s.myIdx
    let s := s.modEnt s.cur h fun e => { e with copy := ⟨true, n, g⟩ }
    (s.switchOut s.cur h 3 s.me.pc).gangSwitch s.cur h 3

def execCxwait (o : CxwaitOp) (s : State) : Host.Outcome State Fault Refusal :=
  finish s (s.guarded o.q do
    s.touchG o.b
    let g : BitVec 32 := (s.g o.b).setWidth 32
    let k := s.me
    let d := (g - k.cxDone o.n).toNat
    let ahead := (k.cxNext o.n - k.cxDone o.n).toNat
    if d < ahead then .error (.wait (s.cxSleep o.n g))
    else if d < 2 ^ 31 then .error (.fault cBadXfer g 0)
    else
      match k.cxerr.find? fun r => r.cch == o.n && r.hidx == s.myIdx && decide ((g - r.id).toNat < 2 ^ 31) with
      | some r =>
        let t := s.modCore s.cur fun k => { k with cxerr := k.cxerr.erase r }
        .error (.wait (t.faultHere r.code r.id r.fva s.me.pc))
      | none => .ok s.advance)

/-! ## Transfers (R375, R376) -/

def Core.xfer (k : Core) (cch : BitVec 2) (id : BitVec 32) : Option CxXfer := k.xfers.find? fun x => x.req.cch == cch && x.req.id == id

def Core.setXfer (k : Core) (x : CxXfer) : Core :=
  { k with xfers := k.xfers.map fun y => if y.req.cch = x.req.cch ∧ y.req.id = x.req.id then x else y }

def State.setXfer (s : State) (c : CoreId) (x : CxXfer) : State := s.modCore c fun k => k.setXfer x

/-- The next round of a transfer. -/
def State.cxNextRound (s : State) (c : CoreId) (x : CxXfer) : State := (s.setXfer c x).emit (.cxUnitWrite c x.req.cch x.req.id)

/-- May the request at the FIFO's head start (R375, R379)? -/
def Core.cxReady (k : Core) (q : CxReq) : Bool := decide (k.xfers.length < 4) && q.gate.isNone && (!q.ord || k.cxDone q.cch == q.id)

/-- The round keys and the IV of a GCM transfer (R380). -/
def CxReq.iv (q : CxReq) : List Byte := beBytes 4 (field (q.word 1) 0 32) ++ beBytes 8 (q.word 2).toNat

def keyBytes (k : KeySlot) : List Byte := (List.range 32).map fun i => k.key.extractLsb' (8 * i) 8

/-- The additional data: the first bytes of words 5 and 6, the lowest address first (R374). -/
def CxReq.aad (q : CxReq) : List Byte :=
  (List.range (q.word 4).toNat).map fun i => ((q.word (5 + i / 8)).extractLsb' (8 * (i % 8)) 8)

def CxReq.gcm (q : CxReq) : Bool := q.mode == 5 || q.mode == 6

/-- A transfer as it starts. -/
def CxXfer.new (q : CxReq) : CxXfer where
  req := q
  stage := if q.barPtr = 0 then 1 else 0
  nokey := false
  row := 0
  pos := 0
  next := 0
  flight := []
  stop := false
  pend := []
  post := false
  await := none
  stuck := false
  code := q.bad.map fun a => (cPoison, a)
  bar := none
  sealed := []
  gh := 0
  ct := []

/-- CX_TRANSFER_START (R193, R195, R375): the queue hands its requests to the FIFO, and the head of the FIFO starts when it may. -/
def execCxTransferStart (s : State) : Host.Outcome State Fault Refusal :=
  match s.ev with
  | some (.cxTransferStart c) =>
    let s := s.modCore c fun k => { k with fifo := k.fifo ++ k.cxq, cxq := [] }
    match (s.core c).fifo with
    | [] => .next s
    | q :: rest =>
      if (s.core c).cxReady q then
        let t := s.modCore c fun k => { k with fifo := rest, xfers := k.xfers ++ [CxXfer.new q] }
        .next ((t.emit (.cxUnitWrite c q.cch q.id)).emit (.cxTransferStart c))
      else .next s
  | _ => .next s

/-- A wake for the gate's line with another gen opens the gate of a request (R379). -/
def openGate (ln : BitVec 50) (gen : BitVec 32) (q : CxReq) : CxReq :=
  match q.gate with
  | some (l, g) => if l = ln ∧ g ≠ gen then { q with gate := none } else q
  | none => q

/-- HALO_START (R379). -/
def execHaloStart (s : State) : Host.Outcome State Fault Refusal :=
  match s.ev with
  | some (.haloStart c ln gen) =>
    .next ((s.modCore c fun k => { k with fifo := k.fifo.map (openGate ln gen), cxq := k.cxq.map (openGate ln gen) }).emit (.cxTransferStart c))
  | _ => .next s

/-- The first fault of a transfer is its code (R376). -/
def CxXfer.note (x : CxXfer) (code : Code) (fva : Word) : CxXfer := if x.code.isSome then x else { x with code := some (code, fva) }

/-- Zero the destination of a decrypt-in, but for register images (R119, R381); the granules that are written whole lose their poison (R158). -/
def State.cxZero (s : State) (c : CoreId) (x : CxXfer) : State :=
  (if 2 ≤ x.stage then x.sealed else s.destRanges c x.req).foldl (fun s r =>
    let free (i : Nat) : Bool := !(s.core c).imageHit none i 1
    let s := (List.range r.2).foldl (fun (s : State) i => if free (r.1 + i) then { s with mem := Mem.write s.mem (spad c (r.1 + i)) 0 } else s) s
    { s with poison := s.poison.filter fun g =>
        !(decide (spad c r.1 ≤ 32 * g) && decide (32 * g + 32 ≤ spad c r.1 + r.2) && (List.range 32).all fun i => free (32 * g + i - spad c 0)) }) s

/-- Something of the transfer is left to post (R377). -/
def CxXfer.unposted (x : CxXfer) : Bool := x.bar.isSome && x.pend.any (· != 0)

/-- No unit is left: what is left to post is posted, and then the transfer completes (R376, R377, R381). -/
def State.cxEnd (s : State) (c : CoreId) (x : CxXfer) : State :=
  let t := s.setXfer c { x with stage := 4, flight := [] }
  if x.unposted then t.emit (.cxBytesPost c x.req.cch x.req.id)
  else if x.post then t
  else t.emit (.cxTransferComplete c x.req.cch x.req.id)

/-- The transfer has stopped, and no unit of it is in flight (R376, R381). -/
def State.cxStopped (s : State) (c : CoreId) (x : CxXfer) : State :=
  if x.req.mode = 5 then (s.cxZero c x).cxEnd c { x with pend := [] } else s.cxEnd c x

/-- A fault that stops the transfer outside its units (R376, R381). -/
def State.cxStop (s : State) (c : CoreId) (x : CxXfer) (code : Code) (fva : Word) : State :=
  s.cxStopped c { x.note code fva with await := none, stop := true }

/-- CX needs a translation: it waits for the step, then for the answer (R375); `fva` is the byte that a failure names. -/
def State.cxMiss (s : State) (c : CoreId) (x : CxXfer) (tag va right : Nat) (fva : Word) : State :=
  let w := x.req.who
  let b : BuoyId := BitVec.ofNat 7 (s.home w.pid w.sid va)
  if ((s.core c).buoy b).val = 0 then s.setXfer c { x with stuck := true }
  else
    let ret : Ret := .cx x.req.cch x.req.id .look
    let t := (s.takeStep c (some b) (.space x.req.hidx ret (mkPtr tag va))).modCore c fun k => (k.count 7).setXfer { x with await := some fva }
    t.emit (.translationMiss ⟨w, mkPtr tag va, BitVec.ofNat 4 (2 ^ right), 2, some (s.stepOf c (some b)), ret⟩)

/-- Translate some bytes: go on with the entries, fail, or wait. -/
def State.cxLook (s : State) (c : CoreId) (x : CxXfer) (tag right : Nat) (fva : Word) (bs : List Nat) (fail : Code → State)
    (go : List (Piece × AtcEntry) → State) : State :=
  match s.engPieces c x.req.who.sid right (pieces 64 bs) with
  | (_, some (_, some code)) => fail code
  | (_, some (va, none)) => s.cxMiss c x tag va right fva
  | (l, none) => go l

/-- Translate one byte of a destination. -/
def State.cxLookOne (s : State) (c : CoreId) (x : CxXfer) (p : Word) (fail : Code → State) (go : AtcEntry → State) : State :=
  s.cxLook c x (field p 56 8) rWrite p [ptrVa p] fail fun l =>
    match l with
    | [] => s
    | d :: _ => go d.2

/-- The source bytes that destination bytes `pos` to `pos + n - 1` of a row need. -/
def CxReq.srcBytes (q : CxReq) (row pos n : Nat) : List Nat :=
  if cxConv q.mode then
    let size := fmtWidth (ptrFmt q.w2) / 8
    let (e0, e1) := if ptrBlog q.w2 ≠ 0 then
        let bl := 2 ^ ptrBlog q.w2 * fmtWidth (ptrFmt q.w2) / 8 + 1
        (pos / bl * 2 ^ ptrBlog q.w2, ((pos + n - 1) / bl + 1) * 2 ^ ptrBlog q.w2 - 1)
      else (pos / size, (pos + n - 1) / size)
    let (lo, hi) := spanBytes (ptrFmt q.w1) (ptrBlog q.w1) (pstepVa q.w1 e0) (pstepVa q.w1 e1)
    (List.range (hi + 1 - lo).toNat).map (lo.toNat + ·)
  else
    let n := if q.mode = 6 then min n (q.len - pos) else n
    (List.range n).map fun i => ((ptrVa q.w1 : Int) + row * q.sSrc).toNat + pos + i

/-- Source element `e` as an exact value (R378). -/
def CxReq.elem (q : CxReq) (k : Core) (rd : Nat → Byte) (e : Nat) : Val :=
  let f := ptrFmt q.w1
  let b := ptrBlog q.w1
  let v := if b ≠ 0 then ptrVa q.w1 + e else ptrVa q.w1 + fmtWidth f / 8 * e
  if b ≠ 0 then scaledVal k f (rd (scaleByte f b v)).toNat (codeOf f v (rd (codeByte f b v)).toNat)
  else codeVal k f (((List.range (fmtWidth f / 8)).map fun i => (rd (v + i)).toNat * 256 ^ i).sum)

/-- The destination code of an element of an unscaled format (R105, R378). -/
def convCode (k : Core) (f : Nat) (sat : Bool) (v : Val) : Nat :=
  match f with
  | 8 => k.t0.enc false sat v
  | 9 => k.t1.enc false sat v
  | f => tyEnc (fmtTy f) sat v

/-- Byte `o` of a converted destination (R378); a scaled one has the encoding of R343, whose T codes are those of ENC. -/
def CxReq.convByte (q : CxReq) (k : Core) (rd : Nat → Byte) (o : Nat) : Byte :=
  let f := ptrFmt q.w2
  if ptrBlog q.w2 ≠ 0 then
    let n := 2 ^ ptrBlog q.w2
    let bl := n * fmtWidth f / 8 + 1
    let vs := (List.range n).map fun i => q.elem k rd (o / bl * n + i)
    BitVec.ofNat 8 ((blockBytes f (blockCodes k f false vs)).getD (o % bl) 0)
  else
    let size := fmtWidth f / 8
    BitVec.ofNat 8 (convCode k f (q.mode == 3) (q.elem k rd (o / size)) / 256 ^ (o % size) % 256)

/-- The bytes that a unit writes, with the transfer's hash after them. -/
def CxXfer.unitBytes (x : CxXfer) (k : Core) (key : Option KeySlot) (u : CxUnit) : List Byte × CxXfer :=
  let q := x.req
  let rd (b : Nat) : Byte := Tab.get 0 u.got b
  if cxConv q.mode then ((List.range u.size).map fun i => q.convByte k rd (u.pos + i), x)
  else
    let src := (q.srcBytes u.row u.pos u.size).map rd
    match key with
    | none => (src, x)
    | some ks =>
      let rks := roundKeys (keyBytes ks)
      let h := gcmH rks
      if q.mode = 5 then
        let (gh, ct) := gcmMore h 8 (x.gh, x.ct ++ src)
        (gcmXor rks q.iv u.pos src, { x with gh := gh, ct := ct })
      else
        let c := gcmXor rks q.iv u.pos src
        let (gh, ct) := gcmMore h 8 (x.gh, x.ct ++ c)
        let tag := gcmTag rks q.iv q.aad.length q.len (gh, ct)
        let rest := (List.range (u.size - src.length)).map fun i => tag.getD (u.pos + src.length + i - q.len) 0
        (c ++ rest, { x with gh := gh, ct := ct })

/-- Destination address and size of the unit at a place of a row (R375). -/
def CxReq.unitAt (q : CxReq) (row pos : Nat) : Nat × Nat :=
  let a := (q.dst0 row).toNat + pos
  (a, min (q.dlen - pos) (64 - a % 64))

/-- The destination pointer of a unit, at its first byte. -/
def CxReq.dstPtr (q : CxReq) (row pos : Nat) : Word := mkPtr (field q.w2 56 8) (q.unitAt row pos).1

/-- The sizes of the units of a transfer of one row. -/
def CxReq.unitSizes (q : CxReq) : List Nat :=
  let a := (q.dst0 0).toNat
  let n := (a % 64 + q.len + 63) / 64
  (List.range n).map fun i => min (a % 64 + q.len) (64 * (i + 1)) - max (a % 64) (64 * i)

/-- The source byte at which a unit begins, which the record of a failure names (R382). R100 has an engine name the lowest failing byte of a scaled block,
R382 the lowest byte of the stopping unit: the model takes R382's for every source (DESIGN CHOICE, log 60). -/
def CxReq.srcAt (q : CxReq) (bs : List Nat) : Word := mkPtr (field q.w1 56 8) (bs.headD 0)

/-- The source bytes of a unit; stage 3 reads the tag. -/
def CxXfer.want (x : CxXfer) (u : CxUnit) : List Nat :=
  if x.stage = 3 then (List.range 16).map (ptrVa x.req.w1 + x.req.len + ·) else x.req.srcBytes u.row u.pos u.size

/-- The faults of a write that stop a transfer (R376). -/
def cxStops (code : Code) : Bool := code != cWpoison && code != cWsprot && code != cPoison

/-- Account for the oldest unit in flight, when nothing more is to come for it (R376, R377): its faults become the transfer's, and its bytes are to be
posted; none when it has to stay. A unit whose write stops the
transfer has read nothing. Once the transfer has stopped, a write that had left before counts no more (log 59). -/
def CxXfer.settle (x : CxXfer) (u : CxUnit) : Option CxXfer :=
  if u.sent then
    match u.res with
    | none => none
    | some r =>
      if x.stop then some x
      else
        let stops : Bool := match r with | some code => cxStops code | none => false
        let y := if u.poi.isEmpty || stops then x else x.note cPoison (x.req.srcAt (x.want u))
        let y := match r with | some code => y.note code (x.req.dstPtr u.row u.pos) | none => y
        let counts : Bool := match r with | some code => code == cWpoison | none => true
        if stops then some { y with stop := true }
        else some (if x.bar.isSome && x.req.mode != 5 then { y with pend := y.pend ++ [if counts then u.size else 0] } else y)
  else if 0 < u.reads then none
  else match u.bad with
    | some (code, a) => some (if x.stop then x else { x.note code a with stop := true })
    | none => if x.stop then some x else none

/-- Account for units in their order. -/
def CxXfer.settleAll (x : CxXfer) : List CxUnit → CxXfer
  | [] => { x with flight := [] }
  | u :: r => match x.settle u with | some y => y.settleAll r | none => { x with flight := u :: r }

/-- Send a unit's source requests while their buoys have steps and their paths are free (R228, R273, R375); says whether one waits. -/
def State.cxPump (s : State) (c : CoreId) (u : CxUnit) : List MemReq → State × CxUnit × Bool
  | [] => (s, { u with reqs := [] }, false)
  | r :: rest =>
    if (s.core c).hasStep r.buoy && s.pathOk c (s.pathOf c r) then
      let (r, s) := s.withStep c r
      (s.dispatch r).cxPump c { u with reads := u.reads + 1 } rest
    else (s, { u with reqs := r :: rest }, true)

/-- The same for the units in flight, in order: nothing is read for a unit after one that has failed. -/
def State.cxPumps (s : State) (c : CoreId) : List CxUnit → State × List CxUnit × Bool
  | [] => (s, [], false)
  | u :: r =>
    if u.bad.isSome then (s, u :: r, false)
    else
      let (s, u, b) := s.cxPump c u u.reqs
      if b then (s, u :: r, true)
      else
        let (s, r, b) := s.cxPumps c r
        (s, u :: r, b)

/-- The write of a unit whose source has been read (R158, R375, R376): a granule is written poisoned when a source byte that it needs is. -/
def State.cxWriteReq (s : State) (c : CoreId) (q : CxReq) (u : CxUnit) (out : List Byte) : MemReq :=
  let a := (q.unitAt u.row u.pos).1
  let pa := atcPa u.dst a
  let bad (g : Nat) : Bool := !u.poi.isEmpty && (List.range u.size).any fun i =>
    (pa % 64 + i) / 32 == g && (q.srcBytes u.row (u.pos + i) 1).any u.poi.contains
  let data := (List.range u.size).foldr (fun i (v : Nat) => (out.getD i 0).toNat + 256 * v) 0
  ⟨q.who, .copy (BitVec.ofNat 2 ((if bad 0 then 1 else 0) + (if bad 1 then 2 else 0))), BitVec.ofNat 56 pa, u.size,
    BitVec.ofNat 512 data, BitVec.ofNat 64 (2 ^ u.size - 1), q.dstPtr u.row u.pos, u.dst.key, false, 0, 0,
    some ⟨receiverBuoy pa (s.receiver c q.who.pid pa false false), 0⟩, .cx q.cch q.id (.write u.n), none, 0⟩

/-- Send the writes that may leave, in unit order (R375); a GCM transfer whose key is gone stops at the unit it would begin (R426). Says whether a write
waits for its step or its path. -/
def State.cxWrites (s : State) (c : CoreId) (x : CxXfer) : List CxUnit → State × CxXfer × List CxUnit × Bool
  | [] => (s, x, [], false)
  | u :: r =>
    if u.sent then
      let (s, x, l, b) := s.cxWrites c x r
      (s, x, u :: l, b)
    else if x.stop || u.bad.isSome || !u.reqs.isEmpty || decide (0 < u.reads) then (s, x, u :: r, false)
    else
      let q := x.req
      let key := if q.gcm && !x.nokey then s.gcmKey (s.core c).part q else none
      if q.gcm && key.isNone then (s, x, { u with bad := some (cKeyEmpty, q.srcAt (x.want u)) } :: r, false)
      else
        let w := s.cxWriteReq c q u []
        if (s.core c).hasStep w.buoy && s.pathOk c (s.pathOf c w) then
          let (out, x) := x.unitBytes (s.core c) key u
          let (w, s) := s.withStep c (s.cxWriteReq c q u out)
          let (s, x, l, b) := (s.dispatch w).cxWrites c x r
          (s, x, { u with sent := true, got := [] } :: l, b)
        else (s, x, u :: r, true)

/-- The requests that read a unit's translated source (R375): a DET page is read without overlay. -/
def State.cxReadReqs (s : State) (c : CoreId) (q : CxReq) (n : Nat) (l : List (Piece × AtcEntry)) : List MemReq :=
  l.map fun y =>
    let a := atcPa y.2 y.1.a
    asCommitted ⟨q.who, .load, BitVec.ofNat 56 a, y.1.n, 0, y.1.bm, mkPtr (field q.w1 56 8) y.1.a, y.2.key, y.2.det, 0, 0,
      some ⟨receiverBuoy a (s.receiver c q.who.pid a true y.2.det), 0⟩, .cx q.cch q.id (.read n), none, 0⟩

/-- The unit at the transfer's place, with its failure, or with what it has to read. -/
def CxXfer.unit (x : CxXfer) (dst : AtcEntry) (reqs : List MemReq) (bad : Option (Code × Word)) (log : List (Nat × Nat)) : CxUnit :=
  ⟨x.next, x.row, x.pos, (x.req.unitAt x.row x.pos).2, dst, reqs, 0, [], [], bad, false, none, log⟩

/-- The transfer with one more unit in flight. -/
def CxXfer.push (x : CxXfer) (u : CxUnit) : CxXfer :=
  let last : Bool := decide (x.req.dlen ≤ x.pos + u.size)
  { x with flight := x.flight ++ [u], next := x.next + 1, row := if last then x.row + 1 else x.row, pos := if last then 0 else x.pos + u.size }

/-- A destination that may not be written: a DET page (R375), or for a decrypt-in a place outside the core's own scratchpad (R381). -/
def cxRefused (c : CoreId) (q : CxReq) (d : AtcEntry) (pa : Nat) : Bool :=
  d.det || (q.mode == 5 && !(paRegion pa == 1 && pa / 2 ^ 19 % 2048 == c.toNat))

/-- What stands for the destination of a unit that is not written. -/
def noDst : AtcEntry := ⟨false, 0, 0, false, 0, false, 0, 0, 0, 0⟩

/-- What a unit's source adds to range-log read counters (R223). -/
def cxLog (l : List (Piece × AtcEntry)) : List (Nat × Nat) := l.flatMap fun y => logBytes y.2 y.1.n

/-- The failure that a destination has from the moment it is translated (R376): no such memory, a lost line, a key slot that may not be used. -/
def State.cxDstFault (s : State) (p : Pid) (d : AtcEntry) (pa : Nat) : Option Code :=
  if s.paBad pa then some cPaFault
  else if s.isLost pa then some cHosthomeLost
  else if paRegion pa == 0 && !s.keyOk d.key p then some cKeyEmpty
  else none

/-- Translate the next unit (R375): its source, then its destination. A failure is a unit that stops the transfer when its turn comes. -/
def State.cxTranslate (s : State) (c : CoreId) (x : CxXfer) : State :=
  let q := x.req
  let n := (q.unitAt x.row x.pos).2
  let bs := q.srcBytes x.row x.pos n
  let fail (a : Word) (code : Code) : State := s.cxNextRound c (x.push (x.unit noDst [] (some (code, a)) []))
  s.cxLook c x (field q.w1 56 8) rRead (q.srcAt bs) bs (fail (q.srcAt bs)) fun l =>
    let p := q.dstPtr x.row x.pos
    s.cxLookOne c x p (fail p) fun d =>
      if cxRefused c q d (atcPa d (ptrVa p)) then fail p cNoRight
      else match s.cxDstFault q.who.pid d (atcPa d (ptrVa p)) with
      | some code => fail p code
      | none => s.cxNextRound c (x.push (x.unit d (s.cxReadReqs c q x.next l) none (cxLog l)))

/-- Stage 2 (R375 to R377): account for what is acknowledged, read, write, and translate one more unit, of at most 16 in flight. -/
def State.cxUnits (s : State) (c : CoreId) (x : CxXfer) : State :=
  let x := x.settleAll x.flight
  let all : Bool := decide (x.req.rows ≤ x.row)
  if x.flight.isEmpty && x.stop then s.cxStopped c x
  else if x.flight.isEmpty && all && x.await.isNone then
    if x.req.mode = 5 then (s.setXfer c { x with stage := 3 }).emit (.gcmTagCheck c x.req.cch x.req.id) else s.cxEnd c x
  else
    let (s, l, b) := if x.stop then (s, x.flight, false) else s.cxPumps c x.flight
    let (s, x, l, b') := s.cxWrites c x l
    let gone : Bool := l.any fun u => u.bad.isSome
    let again : Bool := gone && !(x.flight.any fun u => u.bad.isSome)
    let x := { x with flight := l, stuck := b || b' }
    let s := if decide (16 ≤ x.pend.length) && !x.post then s.emit (.cxBytesPost c x.req.cch x.req.id) else s
    if x.stop || gone || x.await.isSome || all || decide (16 ≤ l.length) then
      (if again then s.cxNextRound c x else s.setXfer c x)
    else s.cxTranslate c x

/-- Stage 1: a GCM transfer's key, and the sealed range of a decrypt-in, page by page (R380, R381). -/
def State.cxSettle (s : State) (c : CoreId) (x : CxXfer) : State :=
  let q := x.req
  let go (x : CxXfer) : State := s.cxNextRound c { x with stage := 2 }
  if q.gcm then
    match s.gcmKey (s.core c).part q with
    | none => s.cxStop c x cKeyEmpty q.w1
    | some ks =>
      let x := if x.sealed.isEmpty then { x with gh := gcmStart (roundKeys (keyBytes ks)) q.aad } else x
      let done := (x.sealed.map (·.2)).sum
      if q.mode = 6 ∨ q.len ≤ done then go x
      else
        let a := ptrVa q.w2 + done
        let n := min (q.len - done) (4096 - a % 4096)
        let p := mkPtr (field q.w2 56 8) a
        s.cxLookOne c x p (fun code => s.cxStop c x code p) fun d =>
          if cxRefused c q d (atcPa d a) then s.cxStop c x cNoRight p
          else s.cxNextRound c { x with sealed := x.sealed ++ [(atcPa d a % 2 ^ 19, n)] }
  else go x

/-- Stage 0: the barrier's line is translated with the write right (R377). -/
def State.cxBarrier (s : State) (c : CoreId) (x : CxXfer) : State :=
  let p := x.req.barPtr
  s.cxLookOne c x p (fun code => s.cxStop c x code p) fun d =>
    s.cxNextRound c { x with stage := 1, bar := some (BitVec.ofNat 56 (atcPa d (ptrVa p)), d.key) }

/-- CX_UNIT_WRITE (R375): one round of a transfer. -/
def execCxUnitWrite (s : State) : Host.Outcome State Fault Refusal :=
  match s.ev with
  | some (.cxUnitWrite c cch id) =>
    match (s.core c).xfer cch id with
    | none => .next s
    | some x =>
      let y := { x with stuck := false }
      match x.stage with
      | 0 => .next (if x.await.isSome then s else s.cxBarrier c y)
      | 1 => .next (if x.await.isSome then s else s.cxSettle c y)
      | 2 => .next (s.cxUnits c y)
      | _ => .next s
  | _ => .next s

/-- CX_BYTES_POST (R377): one update of the bytes of at most 16 consecutive units. -/
def execCxBytesPost (s : State) : Host.Outcome State Fault Refusal :=
  match s.ev with
  | some (.cxBytesPost c cch id) =>
    match (s.core c).xfer cch id with
    | none => .next s
    | some x =>
      match x.bar with
      | none => .next s
      | some (pa, key) =>
        let n := (x.pend.take 16).sum
        let rest := x.pend.drop 16
        let rcv := s.receiver c (s.core c).part pa.toNat false false
        let b := receiverBuoy pa.toNat rcv
        let ret : Ret := .cx cch id .post
        if x.post || !(x.stage == 4 || decide (16 ≤ x.pend.length)) then .next s
        else if n = 0 then .next (if x.stage = 4 then s.cxEnd c { x with pend := rest } else s.setXfer c { x with pend := rest })
        else if !(s.core c).hasStep (some ⟨b, 0⟩) || !s.pathOk c ⟨x.req.who.sid, ptrVa x.req.barPtr, rcv, true⟩ then .next (s.setXfer c { x with stuck := true })
        else
          let t := s.takeStep c b (.mem ⟨x.req.hidx, ret, x.req.barPtr, x.req.who.sid, rcv, true⟩)
          .next ((t.setXfer c { x with pend := rest, post := true }).emit
            (.barrierBytes ⟨x.req.who, pa, key, n, cch, id, some (s.stepOf c b)⟩))
  | _ => .next s

/-- GCM_TAG_CHECK (R380, R381): the tag is read as a unit of its own; a wrong tag zeroes the destination. -/
def execGcmTagCheck (s : State) : Host.Outcome State Fault Refusal :=
  match s.ev with
  | some (.gcmTagCheck c cch id) =>
    match (s.core c).xfer cch id with
    | none => .next s
    | some x =>
      let q := x.req
      let y := { x with stuck := false }
      if x.stage ≠ 3 ∨ x.await.isSome then .next s
      else
        let bs := (List.range 16).map (ptrVa q.w1 + q.len + ·)
        match y.flight with
        | [] =>
          .next (s.cxLook c y (field q.w1 56 8) rRead (q.srcAt bs) bs (fun code => s.cxStop c y code (q.srcAt bs)) fun l =>
            (s.setXfer c { y with flight := [y.unit noDst (s.cxReadReqs c q y.next l) none (cxLog l)] }).emit (.gcmTagCheck c cch id))
        | u :: _ =>
          if !u.reqs.isEmpty && u.bad.isNone then
            let (s, u, b) := s.cxPump c u u.reqs
            .next (s.setXfer c { y with flight := [u], stuck := b })
          else if 0 < u.reads then .next s
          else match u.bad, (if x.nokey then none else s.gcmKey (s.core c).part q) with
            | some (code, a), _ => .next (s.cxStop c y code a)
            | none, none => .next (s.cxStop c y cKeyEmpty q.w1)
            | none, some ks =>
              let tag := gcmTag (roundKeys (keyBytes ks)) q.iv q.aad.length q.len (y.gh, y.ct)
              if tag = bs.map (fun b => Tab.get 0 u.got b) then
                .next (s.cxEnd c { if u.poi.isEmpty then y else y.note cPoison (q.srcAt bs) with pend := q.unitSizes })
              else .next (s.cxStop c y cTagfail q.w2)
  | _ => .next s

/-- A unit takes a reply to one of its reads: bytes with their poison, poison of a whole line, or a failure (R158, R376). -/
def CxXfer.takeRead (x : CxXfer) (b : RepBody) (u : CxUnit) : CxUnit :=
  let u := { u with reads := u.reads - 1 }
  match b with
  | .data f n d p =>
    let as := (List.range n).map (ptrVa f + ·)
    { u with
      got := u.got ++ as.mapIdx fun i a => (a, lineByte d i)
      poi := u.poi ++ as.filter fun a => p.getLsbD (a % 64 / 32) }
  | .fault code a =>
    if code = cPoison then { u with poi := u.poi ++ (x.want u).filter fun y => y / 64 == ptrVa a / 64 }
    else { u with bad := u.bad.or (some (code, x.req.srcAt (x.want u))), reqs := [] }
  | _ => u

/-- An answer reaches a transfer: of a translation, a read, a write or a post (R376, R377). -/
def State.cxReply (s : State) (c : CoreId) (cch : BitVec 2) (id : BitVec 32) (part : CxPart) (b : RepBody) : State :=
  match (s.core c).xfer cch id with
  | none => s
  | some x =>
    let again : Event := if x.stage = 3 then .gcmTagCheck c cch id else .cxUnitWrite c cch id
    let on (n : Nat) (f : CxUnit → CxUnit) : State := (s.setXfer c { x with flight := x.flight.map fun u => if u.n = n then f u else u }).emit again
    match part with
    | .look =>
      match x.await, b with
      | some a, .fault code _ =>
        let y := { x with await := none }
        if x.stage = 2 then s.cxNextRound c (y.push (y.unit noDst [] (some (code, a)) [])) else s.cxStop c y code a
      | _, _ => (s.setXfer c { x with await := none }).emit again
    | .read n =>
      let u := (x.flight.find? fun u => u.n == n).map (x.takeRead b)
      let done : List (Nat × Nat) := match u with | some u => if u.reqs.isEmpty && u.reads == 0 && u.bad.isNone then u.log else [] | none => []
      (on n (x.takeRead b)).addLog c done
    | .write n => on n fun u => { u with res := some (match b with | .fault code _ => some code | _ => none) }
    | .post =>
      let y : CxXfer := { x with post := false }
      let y := match b with | .fault code _ => y.note code y.req.barPtr | _ => y
      if y.stage = 4 then s.cxEnd c y
      else if 16 ≤ y.pend.length then (s.setXfer c y).emit (.cxBytesPost c cch id)
      else s.setXfer c y

/-- Transfers that wait for a buoy's step or for a path go on. -/
def State.kickCx (s : State) (c : CoreId) : State :=
  (s.core c).xfers.foldl (fun s x =>
    if x.stuck then
      (s.emit (if x.stage = 3 then .gcmTagCheck c x.req.cch x.req.id else .cxUnitWrite c x.req.cch x.req.id)).emit (.cxBytesPost c x.req.cch x.req.id)
    else s) s

/-! ## Completion (R138, R382) -/

/-- CXDONE passes every completed identifier (R138). -/
def cxAdvance (cch : BitVec 2) (fin : List (BitVec 2 × BitVec 32)) : Nat → BitVec 32 → BitVec 32 × List (BitVec 2 × BitVec 32)
  | 0, d => (d, fin)
  | n + 1, d => if fin.contains (cch, d) then cxAdvance cch (fin.erase (cch, d)) n (d + 1) else (d, fin)

/-- Wake the tasks whose awaited transfer now lies below CXDONE (R383, R384). -/
def State.cxWake (s : State) (c : CoreId) (cch : BitVec 2) : State :=
  allIdx.foldl (fun s h =>
    let e := s.ent c h
    let d := (e.copy.id - (s.core c).cxDone cch).toNat
    if e.v && e.copy.cw && e.copy.cch == cch && decide (2 ^ 31 ≤ d) then
      let s := s.modEnt c h fun e => { e with copy := { e.copy with cw := false } }
      s.wake c h
    else s) s

/-- CX_TRANSFER_COMPLETE (R138, R191, R382): a fifth error record ends its task. -/
def execCxTransferComplete (s : State) : Host.Outcome State Fault Refusal :=
  match s.ev with
  | some (.cxTransferComplete c cch id) =>
    match (s.core c).xfer cch id with
    | none => .next s
    | some x =>
      if x.stage ≠ 4 ∨ x.post ∨ x.unposted then .next s
      else
        let k := s.core c
        let h := x.req.hidx
        let (d, fin) := cxAdvance cch (k.cxfin ++ [(cch, id)]) (k.cxfin.length + 1) (k.cxDone cch)
        let t := s.modCore c fun k =>
          { k.moorFree x.req.moor with
            xfers := k.xfers.filter fun y => !(y.req.cch == cch && y.req.id == id)
            cxfin := fin, cxdone := Tab.set k.cxdone cch.toNat d }
        let e := t.ent c h
        let gone : Bool := !e.v || e.st == 5
        let t := match x.code with
          | none => t
          | some (code, fva) =>
            let r : CxErr := ⟨cch, h, code, id, fva⟩
            if gone then t.sysRec k.part (cxErrWords r)
            else if (t.core c).cxerr.length < 4 then t.modCore c fun k => { k with cxerr := k.cxerr ++ [r] }
            else (t.sysRec k.part (cxErrWords r)).terminate c h .fault
        .next (((t.cxWake c cch).tryFree c h).emit (.cxTransferStart c))
  | _ => .next s

end Sys2Proof.Machine
end

