-- ==== Sys2Proof/Machine/Select.lean ====
section
/-! DEFINITION. Selection and what else happens at a line boundary (R30, R48, R77 to R81, R166, R173, R174, R198, R287, R305, R313, R314, R396,
R400, R401), the ageing of entries (R135, R166), and the illegal head (R91, R92). -/

namespace Sys2Proof.Machine

/-! ## Selection (R166) -/

/-- Does the class mask keep an entry from selection (R173)? -/
def Core.masked (k : Core) (e : Entry) : Bool :=
  e.trg == 1 && k.cmask.getLsbD (if (k.chan e.chan).kind = 1 then 1 else 0)

def Core.eligible (k : Core) (h : Hidx) : Bool :=
  let e := k.ent h
  e.v && e.st == 1 && !e.g && !k.masked e

/-- The running entry's effective priority, while it is in state 0. -/
def Core.runEff (k : Core) : Option Nat :=
  match k.run with
  | some h => if (k.ent h).st = 0 then some (k.ent h).eff.toNat else none
  | none => none

/-- The entry a selection switches to; none when the running task keeps the core or no entry is eligible. -/
def Core.choose (k : Core) : Option Hidx :=
  let elig := allIdx.filter k.eligible
  let urg := elig.filter fun h => (k.ent h).urg
  let top := elig.foldl (fun m h => max m (k.ent h).eff.toNat) 0
  let cand := if urg.isEmpty then elig.filter fun h => (k.ent h).eff.toNat == top else urg
  let switch : Bool := !urg.isEmpty || (match k.runEff with | some r => decide (r < top) | none => true)
  if switch then ((List.range 64).map fun i => k.last + 1 + BitVec.ofNat 6 i).find? cand.contains else none

/-- The wrap of an age count (R135, R166). -/
def Entry.wrap (e : Entry) : Entry := if e.eff = 7 then { e with age := 0, urg := true } else { e with age := 0, eff := e.eff + 1 }

/-- Age the entries that a selection passed over; those at 255 wrap in a step of their own before anything else happens (R166). -/
def State.ageAll (s : State) (c : CoreId) (l : List Hidx) : State :=
  l.foldl (fun s h =>
    if (s.ent c h).age = 255 then s.emit (.ageWrap c h) else s.modEnt c h fun e => { e with age := e.age + 1 }) s

/-- AGE_WRAP (R166). -/
def execAgeWrap (s : State) : Host.Outcome State Fault Refusal :=
  match s.ev with
  | some (.ageWrap c h) => .next (s.modEnt c h fun e => if e.v && e.age == 255 then e.wrap else e)
  | _ => .next s

/-! ## Gangs (R174) -/

/-- Have the followers of the running leader switched to the gang, and executed what they were given? -/
def State.gangReady (s : State) : Bool :=
  match s.myEnt.gang with
  | some x =>
    !x.formed || s.myEnt.g || (s.joinedOf x).all fun m =>
      let k := s.core (x.coreAt m.1)
      k.run == some m.2 && k.hold.isNone && (match (k.ent m.2).gang with | some y => y.todo.isNone | none => true)
  | none => true

/-- The leader's start goes to its followers (R174). -/
def State.gangCall (s : State) : State :=
  match s.myEnt.gang with
  | some x => if x.formed && !s.myEnt.g then s.emits ((s.joinedOf x).map fun m => .gangStart (x.coreAt m.1) m.2) else s
  | none => s

/-- Switch a task in (R30): WP, and the PC of its word 0. -/
def State.switchIn (s : State) (c : CoreId) (h : Hidx) : State :=
  let w := (s.ent c h).wpb
  let pc : VA := (s.ws c w 0).setWidth 56
  let s := s.setSt c h 0
  s.modCore c fun k => { k.count 5 with run := some h, blk := w, pc := pc, line := none, edge := .enter, ahead := none, hold := none }

/-- Does the leader of an entry's gang still run it? -/
def State.leaderRuns (s : State) (h : Hidx) (g : Gang) : Bool :=
  match (s.core g.lead).run with
  | some r => match (s.ent g.lead r).gang with
    | some x => x.formed && x.joined.contains (g.pos.toNat, h)
    | none => false
  | none => false

/-- Has a gang's start come for a core? -/
def State.called (s : State) (c : CoreId) : Bool :=
  s.net.any fun e => match e with
    | .gangStart c' h =>
      let x := s.ent c h
      c' == c && x.v && x.g && (x.st == 1 || x.st == 2 || x.st == 3) && (match x.gang with | some g => s.leaderRuns h g | none => false)
    | _ => false

/-- GANG_START (R174): at its own line boundary a follower switches to its gang entry without a selection. -/
def execGangStart (s : State) : Host.Outcome State Fault Refusal :=
  match s.ev with
  | some (.gangStart c h) =>
    let e := s.ent c h
    if e.v && e.g && (e.st == 1 || e.st == 2 || e.st == 3) && (match e.gang with | some g => s.leaderRuns h g | none => false) then
      let s := match (s.core c).run with
        | some r => if (s.ent c r).st = 0 then (s.switchOut c r 1 (s.core c).pc).gangSwitch c r 1 else s.leave c
        | none => s
      let s := s.switchIn c h
      .next ((s.modCore c fun k => { k with edge := .bound }).modEnt c h fun e =>
        let e := e.lineOver
        { e with gang := e.gang.map fun x => { x with formed := true, redo := false } })
    else .next s
  | _ => .next s

/-- TSTAT.gang, lead and gpos (R125). -/
def State.setGangBits (s : State) (c : CoreId) (h : Hidx) (gang lead : Bool) (pos : Nat) : State :=
  let w := (s.ent c h).wpb
  let t := putField (putField (putField (s.ws c w offTstat) 41 1 (if gang then 1 else 0)) 40 1 (if lead then 1 else 0)) 36 4 pos
  s.setWs c w offTstat t

/-- GFORM at the end of its line (R313): a follower joins its leader, and the leader sleeps until every join has arrived. The follower's entry waits for
the leader's start in state 3, which the spec does not say (DESIGN CHOICE, log 60). -/
def State.gform (s : State) (pc : VA) (w : Word) : State :=
  let c := s.cur
  let h := s.myIdx
  let pos := (gangPos w c).getD 0
  let g : Gang := ⟨BitVec.ofNat 11 (field w 53 11), bit w 4, BitVec.ofNat 4 (field w 0 4), BitVec.ofNat 4 pos, [], false, pc, none, none, false, none, [], false⟩
  let s := s.modEnt c h fun e => { e with g := pos != 0, gang := some g }
  let s := s.setGangBits c h true (pos == 0) pos
  let who := s.whoAt c h
  let s := s.switchOut c h 3 (s.core c).pc
  if pos = 0 then s else s.emit (.gformJoin g.lead who (BitVec.ofNat 4 pos))

/-- The entry of a core that is a leader waiting for joins, and its gang. -/
def Core.forming (k : Core) : Option (Hidx × Gang) :=
  allIdx.findSome? fun h =>
    match (k.ent h).gang with
    | some g => if (k.ent h).v && !(k.ent h).g && !g.formed then some (h, g) else none
    | none => none

/-- GFORM_JOIN (R313): a join from a task of another launch raises BAD_GANG at the leader's GFORM. -/
def execGformJoin (s : State) : Host.Outcome State Fault Refusal :=
  match s.ev with
  | some (.gformJoin c w pos) =>
    match (s.core c).forming with
    | none => .next s
    | some (h, g) =>
      if w.lref ≠ (s.ent c h).lref ∨ w.core ≠ g.coreAt pos.toNat then
        let t := (s.modEnt c h fun e => { e with gang := none }).setGangBits c h false false 0
        .next (t.deliver c h cBadGang true (pcIdx g.form) (w.core.setWidth 32) 0 g.form g.form)
      else
        let j := (g.joined.filter fun m => decide (m.1 < pos.toNat)) ++ (pos.toNat, w.hidx) :: g.joined.filter fun m => decide (pos.toNat < m.1)
        let full : Bool := decide (g.sm1.toNat ≤ j.length)
        let t := s.modEnt c h fun e => { e with gang := some { g with joined := j, formed := full } }
        .next (if full then t.wake c h else t)
  | _ => .next s

/-! ## The end of a line (R48) -/

/-- SLEEP: does the wake condition of the entry's channel hold (R60)? -/
def State.awake (s : State) (c : CoreId) (e : Entry) : Bool :=
  let x := (s.core c).chan e.chan
  if e.trg != 1 then true
  else if x.kind = 2 then
    (List.range x.fill).any fun i => decide (8 ≤ s.tagOf c x ((x.rd.toNat + i) % (x.sm1.toNat + 1)))
  else decide (x.tm1.toNat + 1 ≤ x.fill)

/-- Every member of the running task's gang; the task alone outside one. -/
def State.myMembers (s : State) : List (Nat × CoreId × Hidx) := if s.myEnt.ganged then s.gangMembers s.cur s.myIdx else [(0, s.cur, s.myIdx)]

/-- Change the entries of some members. -/
def State.modAll (s : State) (l : List (Nat × CoreId × Hidx)) (f : Entry → Entry) : State := l.foldl (fun s m => s.modEnt m.2.1 m.2.2 f) s

/-- The status with which END completes a task (R305). -/
def State.endStatus (s : State) (c : CoreId) (h : Hidx) : MStat :=
  let e := s.ent c h
  let k := s.core c
  if bit (s.ws c e.wpb offFstat) 63 || k.sfq.any (fun r => r.hidx == h) || k.cxerr.any (fun r => r.hidx == h) || !e.engf.isEmpty then .fault else .done

/-- The running task of a core leaves it and takes a new state; a gang goes with its leader (R174). -/
def State.stopAll (s : State) (st : BitVec 3) : State :=
  let c := s.cur
  let h := s.myIdx
  (s.switchOut c h st s.me.pc).gangSwitch c h st

/-- The release wait of a member, seen from its own core. -/
def State.releasedAt (s : State) (c : CoreId) : Bool :=
  let t := { s with cur := c }
  !(t.loadsOut || t.latesOut || t.decrsOut || t.mxvxOut)

/-! ## Faults at a line boundary (R198, R396, R400) -/

/-- What is due to a task at a line boundary: QUANTUM_OVERFLOW, an engine fault, the fault it took in its gang's line, or its oldest store-fault record,
which waits for the end of fault service unless its DRAINST has found it (R198). -/
inductive Due
  | over (q : BitVec 32)
  | eng (f : EngFault)
  | line (f : EngFault)
  | sfq
  deriving DecidableEq, Repr

def State.due (s : State) (c : CoreId) (h : Hidx) : Option Due :=
  let e := s.ent c h
  let drain : Bool := (e.gang.map (·.drain)).getD false
  match e.gang.bind (·.flt), e.qover, s.engDue c h with
  | some f, _, _ => some (.line f)
  | none, some q, _ => some (.over q)
  | none, none, f :: _ => some (.eng f)
  | none, none, [] =>
    if (s.core c).sfq.any (fun r => r.hidx == h) && (drain || !bit (s.ws c e.wpb offFstat) 63) then some .sfq else none

/-- Deliver what is due; `pc` is the PC reached, and a member that had stopped before it resumes where it stopped (R400). -/
def State.deliverDue (s : State) (c : CoreId) (h : Hidx) (pc : VA) (d : Due) : State :=
  let at_ := ((s.ent c h).gang.bind (·.stopAt)).getD pc
  match d with
  | .over q => (s.modEnt c h fun e => { e with qover := none }).deliver c h cQuantum false 0 q 0 at_ 0
  | .eng f => s.deliverEng c h f at_
  | .line f => s.deliver c h f.code true f.head.toNat f.detail f.faddr at_ f.pc
  | .sfq => s.deliverSfq c h at_

/-- Every member of a gang is in fault service together (R400): each with its own fault, and the others with GANG_STOP, which names the lowest
position of a member that has one. -/
def State.gangStop (s : State) (l : List (Nat × CoreId × Hidx)) (pc : VA) : State :=
  let pos := ((l.find? fun m => (s.due m.2.1 m.2.2).isSome).map (·.1)).getD 0
  l.foldl (fun (s : State) m =>
    (match s.due m.2.1 m.2.2 with
      | some d => s.deliverDue m.2.1 m.2.2 pc d
      | none =>
        let at_ := (((s.ent m.2.1 m.2.2).gang.bind (·.stopAt)).getD pc)
        s.deliver m.2.1 m.2.2 cGangStop true (pcIdx at_) (BitVec.ofNat 32 pos) 0 at_ at_).modEnt m.2.1 m.2.2 Entry.lineOver) s

/-- The running task, or its gang as one, takes what is due, with a PC. -/
def State.takeDue (s : State) (l : List (Nat × CoreId × Hidx)) (pc : VA) : State :=
  if s.myEnt.ganged then s.gangStop l pc
  else match s.due s.cur s.myIdx with
    | some d => s.deliverDue s.cur s.myIdx pc d
    | none => s

/-- What the end of a line comes to: it has still to wait, the task has stopped or ended, or it goes on. -/
inductive EndRes
  | waits (t : State)
  | stops (t : State)
  | goes (t : State)
  deriving DecidableEq, Repr

/-- A fault held with a pending register is taken at END, as a fault of the member at that head (R275, R305). -/
def State.heldAt (s : State) (m : Nat × CoreId × Hidx) (pc : VA) : State :=
  match (s.ent m.2.1 m.2.2).held with
  | [] => s
  | f :: _ =>
    let c := m.2.1
    let h := m.2.2
    let s := (s.noteWait c h false).pendG c (s.ent c h).wpb f.reg false
    let s := s.modEnt c h fun e => { e with held := e.held.filter fun x => x.reg != f.reg }
    if s.myEnt.ganged then
      let x : EngFault := ⟨.mx, f.code, BitVec.ofNat 5 (pcIdx pc), BitVec.ofNat 32 f.head.toNat, f.faddr, f.pc, false⟩
      s.modEnt c h fun e => { e with gang := e.gang.map fun y => { y with flt := some x } }
    else s.deliver c h f.code true (pcIdx pc) (BitVec.ofNat 32 f.head.toNat) f.faddr pc f.pc

/-- END, or a follower's GREL, at the PC `pc` for some members (R305, R314): the wait of a release; QUANTUM_OVERFLOW or a held fault instead, before
which the acts of that head and of those after it are forgotten, since they run again; or the completion. -/
def State.endAll (s : State) (l : List (Nat × CoreId × Hidx)) (pc : VA) : EndRes :=
  let all := s.myMembers
  let again (s : State) : State := s.modAll all fun e => { e with ends := e.ends.takeWhile fun a => a.pc != pc }
  if all.any fun m => (s.ent m.2.1 m.2.2).qover.isSome then .stops ((again s).takeDue all pc)
  else if l.all fun m => s.releasedAt m.2.1 then
    if l.any fun m => !(s.ent m.2.1 m.2.2).held.isEmpty then
      let t := l.foldl (fun (t : State) m => t.heldAt m pc) (again s)
      .stops (if s.myEnt.ganged then t.gangStop all pc else t)
    else .goes (l.foldl (fun (s : State) m => s.finishTask m.2.1 m.2.2 (s.endStatus m.2.1 m.2.2)) s)
  else .waits (l.foldl (fun (s : State) m => s.noteWait m.2.1 m.2.2 true) s).stall

/-- The leader goes on alone after GREL (R314). -/
def State.alone (s : State) : State := (s.modEnt s.cur s.myIdx fun e => { e with gang := none }).setGangBits s.cur s.myIdx false false 0

/-- The acts of the running task whose line has ended (R48): all of them where it leaves a line; where it enters one, those of other lines. -/
def State.endsDue (s : State) : List EndAct :=
  match s.me.edge with
  | .bound | .jump => s.myEnt.ends
  | .back | .enter => s.myEnt.ends.filter fun a => pcLine a.pc != pcLine s.me.pc

/-- May the task leave the core here? A PC that is saved for one that yields, sleeps or is pre-empted points at head 1 of a line, or is the one that RFT
restored (R48, R77). After a taken branch into the middle of a line such an act waits for a boundary at which the PC does (DESIGN CHOICE, log 59). -/
def State.mayLeave (s : State) : Bool := pcIdx s.me.pc == 1 || s.me.edge == .back

/-- Does the running task, or a member of its gang, wait at its barrier (R287)? It begins to at the end of BAR's line; woken before the wait is over, it
sleeps again; in fault service it does not (log 59). -/
def State.barWaits (s : State) (acts : List EndAct) (l : List (Nat × CoreId × Hidx)) : Bool :=
  let e := s.myEnt
  let coming : Bool := (e.ends ++ e.kept).any fun a => a.kind == .barWait
  (acts.any (fun a => a.kind == .barWait) || (!coming && !bit (s.wsW offFstat) 63)) && l.any fun m => (s.ent m.2.1 m.2.2).bar.bw

/-- What the task's line ends in when neither END nor GREL does (R48, R287, R305, R313): joining a gang, a barrier's wait, the first YIELD or SLEEP, the
wait of a leader for its followers, a fault that is due, or nothing. Of several such acts in one line the first in this order is taken, and all are over
(DESIGN CHOICE, log 59). -/
def State.restEnd (s : State) (acts : List EndAct) : EndRes :=
  let l := s.myMembers
  let t := s.modAll l fun e => { e with ends := e.ends.filter fun a => !acts.contains a }
  let faults : EndRes := if l.any fun m => (t.due m.2.1 m.2.2).isSome then .stops (t.takeDue l s.me.pc) else .goes t
  match acts.findSome? fun a => match a.kind with | .gform w => some (a.pc, w) | _ => none with
  | some (pc, w) => .stops (t.gform pc w)
  | none =>
    if s.barWaits acts l then
      .stops ((l.foldl (fun (s : State) m => if (s.ent m.2.1 m.2.2).bar.bq then s.noteWait m.2.1 m.2.2 true else s) t).stopAll 3)
    else match acts.find? fun a => a.kind == .yield || a.kind == .sleep with
      | some a => .stops (t.stopAll (if a.kind == .yield || t.awake t.cur t.myEnt then 1 else 3))
      | none => match s.myEnt.gang with
        | some g => if g.formed || bit (s.wsW offFstat) 63 then faults else .stops (t.stopAll 3)
        | none => faults

/-- The acts that a line boundary lets take effect: where the task may not leave the core, those that would make it leave wait. -/
def State.actsNow (s : State) : List EndAct :=
  s.endsDue.filter fun a => s.mayLeave || (match a.kind with | .fin | .grel => true | _ => false)

/-- What takes effect at the end of the running task's line (R36, R48, R400). -/
def State.lineEnd (s : State) : EndRes :=
  let l := s.myMembers
  let acts := s.actsNow
  match l.findSome? fun m => (s.ent m.2.1 m.2.2).kill with
  | some st => .stops (l.foldl (fun (s : State) m => s.finishTask m.2.1 m.2.2 st) s)
  | none =>
    if l.any fun m => match (s.ent m.2.1 m.2.2).gang with | some g => g.flt.isSome || g.drain || g.stopAt.isSome | none => false then .stops (s.gangStop l s.me.pc)
    else match acts.find? fun a => a.kind == .fin with
      | some a => match s.endAll l a.pc with
        | .goes t => .stops t
        | r => r
      | none => match acts.find? fun a => a.kind == .grel with
        | some a => match s.endAll (l.drop 1) a.pc with
          | .goes t => t.alone.restEnd acts
          | r => r
        | none =>
          if s.mayLeave || s.me.edge == .enter then s.restEnd acts
          else if l.any fun m => (s.due m.2.1 m.2.2).isSome then .stops (s.takeDue l s.me.pc) else .goes s

/-! ## Entering a line (R79, R80) -/

/-- Enter the line at the PC, which a transfer has fetched or which is fetched now, under the checks of R79. -/
def State.enterLine (s : State) : State :=
  let pc := s.me.pc
  if !s.gangReady then s.stall
  else match (match s.me.ahead with | some l => .ok (l, s) | none => s.fetch (pcLine pc) : Try (Line × State)) with
    | .error t => trapState s t
    | .ok (l, t) =>
      if !lineOk l then trapState t (.fault cIllegalLine 0 (vaWord (pcLine pc)))
      else if pc.toNat % 2 ≠ 0 ∨ pcIdx pc = 0 ∨ headCount l < pcIdx pc then trapState t (.fault cIllegalTarget 0 (vaWord pc))
      else (t.modCore t.cur fun k => { k with line := some l, edge := .bound, ahead := none, hold := none }).pass

/-- Choose the entry to run (R166, R401): a running task that is passed over is pre-empted. -/
def State.selectNext (s : State) : State :=
  let c := s.cur
  let k := s.me
  let ch := k.choose
  let aged := (allIdx.filter k.eligible).filter fun h => some h != ch
  let s := s.ageAll c aged
  match ch with
  | some h =>
    let s := match k.run with
      | some r => if (k.ent r).st = 0 then s.stopAll 1 else s.leave c
      | none => s
    let s := s.modCore c fun k => { k with last := h }
    let s := s.modEnt c h fun e => { e with age := 0, eff := e.base, urg := false }
    (s.switchIn c h).gangCall
  | none =>
    if k.runEff.isSome then s.modCore c fun k => { k with edge := .enter }
    else s.leave c

/-- The follower cores of the running task's gang. -/
def State.followers (s : State) : List CoreId := if s.myEnt.ganged then (s.myMembers.drop 1).map (·.2.1) else []

/-- A gang's line counts as a selection that passes over what is eligible on its follower cores (R174). -/
def State.ageOn (s : State) (l : List CoreId) : State := l.foldl (fun (s : State) c => s.ageAll c (allIdx.filter (s.core c).eligible)) s

/-- A core whose issue is stopped (R402), or that a gang's start has reached (R174), keeps no task running. -/
def State.halt (s : State) : State :=
  match s.me.run with
  | some r => if (s.me.ent r).st = 0 then s.stopAll 1 else s.leave s.cur
  | none => s

/-- The core after the end of a line: it stops, leaves itself to the gang whose start has come (R174), or selects. -/
def State.goOnFrom (s : State) : State :=
  if s.me.stop || s.called s.cur then s.halt.pass
  else
    let u := s.selectNext
    if u.me.run.isSome then u else u.pass

/-- Before the first head of a line that the running task is to enter. -/
def State.entering (s : State) : State :=
  if s.me.stop && s.mayLeave then s.halt.pass
  else if s.me.hold.isSome then s.enterLine
  else match s.lineEnd with
    | .waits t => t
    | .stops t => if t.me.run.isSome then t else t.pass
    | .goes t => t.enterLine

/-- LINE_BOUNDARY_SELECTION (R166): at the end of a line or in an idle core. What acts at the end of the line comes first; then the selection is made, but
not where the task may not leave the core; then the line is entered, and before its first head what is due to a task that runs again is delivered. -/
def execLineBoundarySelection (s : State) : Host.Outcome State Fault Refusal :=
  if s.me.run.isNone then .next s.goOnFrom
  else if s.myEnt.g then .next s.stall
  else if s.me.edge = .enter then .next s.entering
  else if !s.gangReady then .next s.stall
  else match s.lineEnd with
    | .waits t => .next t
    | .stops t => .next ({ t.ageOn s.followers with cur := s.cur } : State).goOnFrom
    | .goes t =>
      let t := t.ageOn s.followers
      .next (if s.mayLeave then t.goOnFrom else t.modCore s.cur fun k => { k with edge := .enter })

/-- ILLEGAL_OP (R91, R92): the head at the PC is no instruction; nothing changes but the fault it takes. -/
def execIllegalOp (s : State) : Host.Outcome State Fault Refusal := finish s (.error (.fault cIllegalOp 0 0))

end Sys2Proof.Machine
end

