-- ==== Sys2Proof/Machine/Install.lean ====
section
/-! DEFINITION. Install (R38, R164, R209, R310): what makes a placed task runnable, in its queue's order, and the line of bindings that it reads first. -/

namespace Sys2Proof.Machine

def State.modLq (s : State) (p : Pid) (q : Nat) (f : LQueue → LQueue) : State :=
  { s with lqs := Tab.set s.lqs (8 * p.toNat + q) (f (Tab.get .reset s.lqs (8 * p.toNat + q))) }

def State.lq (s : State) (p : Pid) (q : Nat) : LQueue := Tab.get .reset s.lqs (8 * p.toNat + q)

/-- The line of bindings that a task names lies in the line before its first (R310). -/
def Entry.bindVa (e : Entry) : VA := pcLine e.inst.pc - 64

/-- The binding line (R310): each non-zero word binds as CBIND does; the first that is refused ends it. -/
def State.bindAll (s : State) (c : CoreId) (h : Hidx) (d : Line) : Bool × State :=
  let e := s.ent c h
  (List.range 8).foldl (fun (x : Bool × State) i =>
    let w := lineWord d i
    if !x.1 || w == 0 then x
    else
      let base := field w 40 13 + 64 * e.wpb.toNat
      if 2 ^ 13 ≤ base then (false, x.2)
      else match x.2.bindChan c h e.wpb e.nblk (BitVec.ofNat 4 (field w 16 4)) (putField (putField w 16 4 0) 40 13 base) with
        | some t => (true, t)
        | none => (false, x.2)) (true, s)

/-- The words of a task's workspace, and its start (R164, R310). -/
def State.installWords (s : State) (c : CoreId) (h : Hidx) : State :=
  let e := s.ent c h
  let o := s.obj e.lref
  let i := e.inst
  let s := s.modEnt c h fun e => { e with
    st := 1, fvec := i.pc, rpc := 0, epc := 0, binding := none, qnum := if o.cl then o.q + 1 else o.q }
  let set (s : State) (off : Nat) (w : Word) : State := s.setWs c e.wpb off w
  let s := set (set (set s 0 (vaWord i.pc)) 8 i.arg1) 16 i.arg2
  let s := set (set s offGeom i.g43) (offGeom + 8) i.g44
  let s := set s offTstat (BitVec.ofNat 64 ((if i.priv then 2 ^ 63 else 0) + (s.core c).part.toNat * 2 ^ 59 + h.toNat * 2 ^ 42 + 1))
  let s := set s offTid (BitVec.ofNat 64 (e.lref.toNat * 2 ^ 32 + e.tix.toNat * 2 ^ 16))
  let s := set (set s offSbrd 0) offFstat 0
  let s := (List.range 16).foldl (fun (s : State) n => s.setHAt c e.wpb (BitVec.ofNat 4 n) 0) s
  s.emit (.memberStartPost e.lref (some c))

/-- A task without bindings is installed; one whose binding line has been read binds first, and completes with FAULT where a word is refused or the line could
not be read (R310; log 21). -/
def State.installWith (s : State) (c : CoreId) (h : Hidx) (d : Option Line) : State :=
  let s := s.installWords c h
  if (s.ent c h).inst.bnd then
    let (ok, s) := match d with | some d => s.bindAll c h d | none => (false, s)
    if ok then s else (s.sysRec (s.core c).part [17, putField 0 0 16 c.toNat, putField 0 0 16 h.toNat]).finishTask c h .fault
  else s

/-- The translation of a task's binding line, by its core's ATC or its home (log 21), where it may be executed. -/
def State.bindAtc (s : State) (c : CoreId) (h : Hidx) : Option AtcEntry :=
  let e := s.ent c h
  let k := s.core c
  (match k.atcFind e.sid e.bindVa.toNat with
  | some x => some x
  | none => match s.recFind (s.home k.part e.sid e.bindVa.toNat) e.sid e.bindVa.toNat with
    | some (_, d) => if d.wd then none else some ⟨true, d.psz, d.rts, d.det, d.key, d.loge, d.logr, d.sid, d.vpn, d.ppn⟩
    | none => none).filter fun x => x.rts.getLsbD rExec

/-- The request for a task's binding line, named as a load. -/
def State.bindReq (s : State) (c : CoreId) (h : Hidx) (x : AtcEntry) : MemReq :=
  let va := (s.ent c h).bindVa
  let a := atcPa x va.toNat
  asCommitted ⟨s.whoAt c h, .load, BitVec.ofNat 56 a, 64, 0, BitVec.allOnes 64, vaWord va, x.key, x.det, 0, 0,
    some ⟨receiverBuoy a (s.receiver c (s.core c).part a true x.det), 0⟩, .load ((s.core c).ids + 1), none, 0⟩

/-- Install a task (R164, R310). One with bindings reads its line through the read-only cache, or by a load that install waits for. -/
def State.install (s : State) (c : CoreId) (h : Hidx) : State :=
  let e := s.ent c h
  if !e.inst.bnd then s.installWith c h none
  else match s.bindAtc c h with
    | none => s.installWith c h none
    | some x =>
      let r := s.bindReq c h x
      let ln := r.pa.toNat / 64
      match (s.core c).roFind ln with
      | some l =>
        let s := (s.addLog c (logBytes x 64)).modCore c fun k => { k with ro := roPut k.ro l }
        s.installWith c h (if l.poi = 0 then some l.data else none)
      | none =>
        let id := (s.core c).ids + 1
        let s := s.modEnt c h fun e => { e with binding := some id }
        let o : Outst := ⟨id, h, e.wpb, false, 0, .i64, vaWord e.bindVa, false, 0, e.inst.pc, [], [r], 0, none, logBytes x 64, [(e.bindVa.toNat, ln)], [], false, true, true⟩
        (s.modCore c fun k => { k with ids := id, loads := k.loads ++ [o] }).pumpReqs c id [r]

/-- The waiting tasks of a queue start in queue order (R38, R164): each that is to start is installed, up to the first that still waits for its counter or for
its bindings. -/
def State.startDue (s : State) (p : Pid) (q : Nat) : Nat → State
  | 0 => s
  | n + 1 =>
    match (s.lq p q).due with
    | [] => s
    | x :: rest =>
      let c : CoreId := BitVec.ofNat 11 x.1
      let e := s.ent c x.2
      if e.zero && e.binding.isNone && (s.obj e.lref).st != 4 then
        let t := s.install c x.2
        if (t.ent c x.2).binding.isSome then t else (t.modLq p q fun y => { y with due := rest }).startDue p q n
      else s

/-- A task that is to start is installed when every task ahead of it in its queue has started (R38, R164); one that SPAWN placed is in no queue (R311). -/
def State.startAt (s : State) (c : CoreId) (h : Hidx) : State :=
  let o := s.obj (s.ent c h).lref
  let q := o.queue.toNat
  if (s.lq o.pid q).due.contains (c.toNat, h) then (s.startDue o.pid q (s.lq o.pid q).due.length).emit (.placement o.pid)
  else if (s.ent c h).binding.isSome then s
  else s.install c h

/-- A task leaves the order of a queue: those behind it need not wait for it. -/
def State.passDue (s : State) (p : Pid) (q : Nat) (x : Nat × Hidx) : State :=
  if (s.lq p q).due.contains x then
    let s := s.modLq p q fun y => { y with due := y.due.filter (· != x) }
    (s.startDue p q (s.lq p q).due.length).emit (.placement p)
  else s

/-- A waiting task goes without having started. -/
def State.dropDue (s : State) (c : CoreId) (h : Hidx) : State :=
  let o := s.obj (s.ent c h).lref
  s.passDue o.pid o.queue.toNat (c.toNat, h)

/-- The load of a binding line has its reply: the task is installed, and those behind it may follow (R38, R310). -/
def State.bindDone (s : State) (c : CoreId) (h : Hidx) (d : Option Line) : State :=
  let o := s.obj (s.ent c h).lref
  (s.installWith c h d).passDue o.pid o.queue.toNat (c.toNat, h)

end Sys2Proof.Machine
end

