-- ==== Sys2Proof/Machine/Gauss.lean ====
section
/-! DEFINITION. Gaussian messages: mailbox slots and their receiver (R204, R362, R363), descriptors (R364, R365), and the heads GMU, GSUM,
GSUB and GRES (R366 to R368). -/

namespace Sys2Proof.Machine

/-! ## Mailbox slots (R362, R363) -/

/-- The scratchpad byte of slot `i`'s live image; `d` is the mailbox's dimension, which its channel entry keeps in `rd` (R168). -/
def mailSlot (e : ChanEnt) (i : Nat) : Nat := 64 * e.base.toNat + i * mailStride e.rd.toNat

/-- The bytes between a live image and its staging image. -/
def mailHalf (e : ChanEnt) : Nat := mailStride e.rd.toNat / 2

/-- A 32-bit word of a core's scratchpad. -/
def State.spad32 (s : State) (c : CoreId) (off : Nat) : Nat := Mem.readN s.mem (spad c off) 4

/-- Write words from a scratchpad byte up, keeping within `n` bytes. -/
def State.putWords (s : State) (c : CoreId) (off n : Nat) (ws : List Word) : State :=
  s.writeRun (spad c off) (8 * min ws.length (n / 8)) (ws.foldr (fun w a => w.toNat + 2 ^ 64 * a) 0)

/-- Copy `n` bytes, which are whole granules, within a scratchpad, with their poison (R158). -/
def State.copySpad (s : State) (c : CoreId) (src dst n : Nat) : State :=
  let g := spad c dst / 32
  { s with
    mem := Mem.writeN s.mem (spad c dst) n (Mem.readN s.mem (spad c src) n)
    poison := s.poison.filter (fun x => decide (x < g) || decide (g + n / 32 ≤ x))
      ++ ((List.range (n / 32)).filter fun i => s.poison.contains (spad c src / 32 + i)).map (g + ·) }

/-- The sequence number, the node and the dimension of an image. -/
def imgSeq (w : Word) : Nat := field w 32 32
def imgDim (w : Word) : Nat := field w 0 4

/-- The final part: the staged image replaces the live one, with the next sequence number, and the slot is dirty (R204, R363). -/
def State.mailCommit (s : State) (c : CoreId) (ch : Chan) (slot : Nat) : State :=
  let e := (s.core c).chan ch
  let live := mailSlot e slot
  let seq := imgSeq (s.rd64 (spad c live))
  let s := s.copySpad c (live + mailHalf e) live (mailHalf e)
  let s := s.wr64 (spad c live) (putField (s.rd64 (spad c live)) 32 32 (seq + 1))
  let was := e.dirty.getLsbD slot
  let n := if was then e.fill else e.fill + 1
  let s := s.modCore c fun k => k.setChan ch { e with dirty := e.dirty ||| BitVec.ofNat 64 (2 ^ slot), fill := n }
  if e.bh && !was && crosses e e.fill n then s.wake c e.hidx else s

/-- GAUSS_PART_RECEIVE (R27, R44, R168, R204, R363). A part for a sealed range or a register image is discarded, and the message with it (R119, R381;
DESIGN CHOICE, log 59). -/
def execGaussPartReceive (s : State) : Host.Outcome State Fault Refusal :=
  match s.ev with
  | some (.gaussPartReceive k) =>
    let c := k.dst
    let e := (s.core c).chan k.chan
    let w := k.ws.headD 0
    let slot := field w 58 6
    let part := field w 55 3
    if k.pid ≠ (s.core c).part ∨ ¬e.v ∨ e.kind ≠ 1 ∨ e.sm1.toNat < slot then .next (s.discardPkt k)
    else
      let prev := Tab.find e.stage slot
      if part ≠ 0 ∧ prev ≠ some (part - 1) then
        .next ((s.modCore c fun x => x.setChan k.chan { e with stage := Tab.del e.stage slot }).discardPkt k)
      else
        let base := mailSlot e slot + mailHalf e
        let n := min (8 * (k.ws.length - 1)) (mailHalf e - 56 * part)
        if s.shut c (base + 56 * part) n || (k.eos && s.shut c (mailSlot e slot) (mailStride e.rd.toNat)) then
          .next ((s.modCore c fun x => x.setChan k.chan { e with stage := Tab.del e.stage slot }).discardPkt k)
        else
        let t := s.putWords c (base + 56 * part) (mailHalf e - 56 * part) (k.ws.drop 1)
        if k.eos then
          let t := t.modCore c fun x => x.setChan k.chan { e with stage := Tab.del e.stage slot }
          if imgDim (t.rd64 (spad c base)) ≠ e.rd.toNat then .next (t.discardPkt k) else .next (t.mailCommit c k.chan slot)
        else .next (t.modCore c fun x => x.setChan k.chan { e with stage := Tab.set e.stage slot part })
  | _ => .next s

/-! ## Descriptors (R364, R365) -/

/-- The descriptor's scratchpad byte. -/
def descAt (b : BitVec 7) (off : Nat) : Nat := 4096 * b.toNat + off

/-- May a descriptor stand at this offset (R364)? -/
def State.descOk (s : State) (off : Nat) : Bool :=
  off % 64 == 0 && decide (2432 ≤ off) && decide (descAt s.me.blk off + 1344 ≤ 4096 * s.me.sblk.toNat)

/-- An entry of a descriptor. -/
structure GEnt where
  start : Nat
  dim   : Nat
  hnd   : Handle
  slot  : Nat
  core  : CoreId
  chan  : Chan
  oslot : Nat
  beta  : Nat
  cv    : Bool
  ok    : Bool
  deriving DecidableEq, Repr

def State.gEnt (s : State) (c : CoreId) (d i : Nat) : GEnt :=
  let w := s.rd64 (spad c (d + 64 + 16 * i))
  let x := s.rd64 (spad c (d + 72 + 16 * i))
  ⟨field w 60 4, field w 57 3 + 1, BitVec.ofNat 4 (field w 53 4), field w 47 6, BitVec.ofNat 11 (field w 36 11),
    BitVec.ofNat 5 (field w 31 5), field w 25 6, field x 32 32, bit x 0, field w 57 3 < 4 && field w 0 25 == 0 && field x 1 31 == 0⟩

/-- The channel of an entry's incoming mailbox. -/
def State.gChan (s : State) (c : CoreId) (b : BitVec 7) (g : GEnt) : Chan := BitVec.ofNat 5 (field (s.hAt c b g.hnd) 52 5)

/-- Is an entry's mailbox as R365 asks? -/
def State.gEntOk (s : State) (c : CoreId) (b : BitVec 7) (g : GEnt) : Bool :=
  let w := s.hAt c b g.hnd
  let e := (s.core c).chan (s.gChan c b g)
  let h := s.rd64 (spad c (mailSlot e g.slot))
  g.ok && bit w 63 && field w 57 2 == 1 && decide (g.slot ≤ e.sm1.toNat) && (imgSeq h == 0 || imgDim h == g.dim)

/-- The place of element (i, j) of a packed upper triangle of dimension `n`, for i up to j (R362). -/
def packed (n i j : Nat) : Nat := i * n - i * (i - 1) / 2 + (j - i)

/-- A Gaussian: an information vector and the upper triangle of its matrix, as F32 patterns. -/
structure Gaus where
  eta : List Nat
  lam : List Nat
  deriving DecidableEq, Repr

def Gaus.zero (n : Nat) : Gaus := ⟨List.replicate n 0, List.replicate (n * (n + 1) / 2) 0⟩

/-- Read a Gaussian of dimension `n` from its η and Λ. -/
def State.gaus (s : State) (c : CoreId) (n eta lam : Nat) : Gaus :=
  ⟨(List.range n).map fun i => s.spad32 c (eta + 4 * i), (List.range (n * (n + 1) / 2)).map fun i => s.spad32 c (lam + 4 * i)⟩

/-- Store F32 patterns from a scratchpad byte up, as a store of the head's task (R119, R159). -/
def State.putF32 (s : State) (w : Who) (b : BitVec 7) (off : Nat) (l : List Nat) : State :=
  s.portStore w b off (4 * l.length) (l.foldr (fun v a => v % 2 ^ 32 + 2 ^ 32 * a) 0)

/-- The message in an entry's incoming slot; one that has received none counts as zero (R365). -/
def State.incoming (s : State) (c : CoreId) (b : BitVec 7) (g : GEnt) : Gaus :=
  let e := (s.core c).chan (s.gChan c b g)
  let a := mailSlot e g.slot
  if imgSeq (s.rd64 (spad c a)) = 0 then .zero g.dim else s.gaus c g.dim (a + 16) (a + 16 + 4 * g.dim)

/-- Mark an entry's slot read (R204). -/
def State.markRead (s : State) (c : CoreId) (b : BitVec 7) (g : GEnt) : State :=
  let ch := s.gChan c b g
  let e := (s.core c).chan ch
  if e.dirty.getLsbD g.slot then
    s.modCore c fun k => k.setChan ch { e with dirty := e.dirty &&& ~~~(BitVec.ofNat 64 (2 ^ g.slot)), fill := e.fill - 1 }
  else s

/-- Component by component. -/
def Gaus.map2 (f : Nat → Nat → Nat) (x y : Gaus) : Gaus := ⟨x.eta.zipWith f y.eta, x.lam.zipWith f y.lam⟩

/-- The largest magnitude of the components, by VMAX (R366). -/
def Gaus.maxAbs (x : Gaus) : Nat :=
  match (x.eta ++ x.lam).map f32Abs with
  | [] => 0
  | v :: r => r.foldl f32Max v

/-! ## Sending (R363) -/

/-- The bytes of a message's image: header, η, Λ. -/
def msgWords (node dim beta : Nat) (g : Gaus) : List Word :=
  let vals := g.eta ++ g.lam
  BitVec.ofNat 64 (node % 2 ^ 16 * 2 ^ 16 + dim) :: BitVec.ofNat 64 (beta % 2 ^ 32)
    :: (List.range ((vals.length + 1) / 2)).map fun i => BitVec.ofNat 64 (vals.getD (2 * i) 0 + 2 ^ 32 * vals.getD (2 * i + 1) 0)

/-- The packets of a message, seven image words each after a routing word. -/
def msgParts (slot : Nat) : Nat → Nat → List Word → List (List Word × Bool)
  | 0, _, _ => []
  | fuel + 1, part, ws =>
    (BitVec.ofNat 64 (slot * 2 ^ 58 + part * 2 ^ 55) :: ws.take 7, decide (ws.length ≤ 7))
      :: (if ws.length ≤ 7 then [] else msgParts slot fuel (part + 1) (ws.drop 7))

/-- Send a message to an entry's destination; it takes no step (R25, R366). -/
def State.sendMsg (s : State) (c : CoreId) (g : GEnt) (node beta : Nat) (m : Gaus) : State :=
  let k := s.core c
  s.emits ((msgParts g.oslot 8 0 (msgWords node g.dim beta m)).map fun x =>
    .gaussPartReceive ⟨k.dev, k.part, false, c, k.dev, false, g.core, x.2, g.chan, 4, x.1⟩)

/-! ## GMU (R366) -/

/-- The working matrix of GMU by row and column, and its vector. -/
structure Work where
  eta : List Nat
  lam : List (List Nat)
  deriving DecidableEq, Repr

def Work.at (w : Work) (i j : Nat) : Nat := (w.lam.getD (min i j) []).getD (max i j) 0

/-- Add an incoming message at the indices of its block: each index and each pair once. -/
def Work.addMsg (w : Work) (start dim : Nat) (m : Gaus) : Work :=
  ⟨w.eta.mapIdx fun i x => if start ≤ i ∧ i < start + dim then f32Add x (m.eta.getD (i - start) 0) else x,
    w.lam.mapIdx fun i r => r.mapIdx fun j x =>
      if start ≤ i ∧ i ≤ j ∧ j < start + dim then f32Add x (m.lam.getD (packed dim (i - start) (j - start)) 0) else x⟩

/-- Is a pivot above 2 ^ -100? -/
def pivotOk (p : Nat) : Bool := (f32v p).cmp (.fin false 1 (-100)) == some .gt

/-- Eliminate index `k`: `left` are the remaining indices but `k`. Every quotient is formed from the values before the updates. -/
def Work.elim (w : Work) (k : Nat) (left : List Nat) : Work :=
  let l (i : Nat) : Nat := f32Neg (f32Div (w.at i k) (w.at k k))
  ⟨w.eta.mapIdx fun i x => if left.contains i then f32Fma (l i) (w.eta.getD k 0) x else x,
    w.lam.mapIdx fun i r => r.mapIdx fun j x => if left.contains i && left.contains j && decide (i ≤ j) then f32Fma (l i) (w.at k j) x else x⟩

/-- Eliminate a list of indices in order; a pivot that is too small answers its index. -/
def Work.elims (w : Work) (left : List Nat) : List Nat → Except Nat Work
  | [] => .ok w
  | k :: ks =>
    if pivotOk (w.at k k) then
      let left := left.filter (· != k)
      (w.elim k left).elims left ks
    else .error k

/-- The result restricted to a block. -/
def Work.block (w : Work) (start dim : Nat) : Gaus :=
  ⟨(List.range dim).map fun i => w.eta.getD (start + i) 0,
    (List.range dim).flatMap fun i => (List.range (dim - i)).map fun j => w.at (start + i) (start + i + j)⟩

/-- What a Gaussian head ends with: an engine fault's code and detail, or the state after it. -/
abbrev GRes := Except (Code × Nat) State

/-- Is a factor descriptor well-formed (R365)? -/
def State.factorOk (s : State) (c : CoreId) (b : BitVec 7) (d n nb : Nat) : Bool :=
  let es := (List.range nb).map (s.gEnt c d)
  field (s.rd64 (spad c d)) 0 40 == 0 && decide (1 ≤ n) && decide (n ≤ 12) && decide (1 ≤ nb) && decide (nb ≤ 12)
    && (es.foldl (fun (a : Nat × Bool) g => (a.1 + g.dim, a.2 && g.start == a.1 && s.gEntOk c b g)) (0, true)) == (n, true)

/-- Is a variable descriptor well-formed (R364, R365)? -/
def State.varOk (s : State) (c : CoreId) (b : BitVec 7) (d n nf : Nat) : Bool :=
  field (s.rd64 (spad c d)) 0 40 == 0 && decide (1 ≤ n) && decide (n ≤ 4) && decide (1 ≤ nf) && decide (nf ≤ 12)
    && (List.range nf).all fun i => let g := s.gEnt c d i; g.start == 0 && g.dim == n && s.gEntOk c b g

/-- The residual of a descriptor, raised to the new one by VMAX. -/
def State.raiseRes (s : State) (w : Who) (b : BitVec 7) (d r : Nat) : State := s.putF32 w b (d + 8) [f32Max (s.spad32 w.core (d + 8)) r]

def State.doGmu (s : State) (o : Who) (b : BitVec 7) (d t : Nat) : GRes :=
  let c := o.core
  let w0 := s.rd64 (spad c d)
  let n := field w0 60 4
  let nb := field w0 56 4
  if !s.factorOk c b d n nb || decide (nb ≤ t) then .error (cBadFactor, 0)
  else
    let es := (List.range nb).map (s.gEnt c d)
    let g := s.gEnt c d t
    let m := s.gaus c n (d + 256) (d + 304)
    let w : Work := ⟨m.eta, (List.range n).map fun i => (List.range n).map fun j => if i ≤ j then m.lam.getD (packed n i j) 0 else 0⟩
    let others := (List.range nb).filter (· != t)
    let w := others.foldl (fun (w : Work) i => let e := es.getD i g; w.addMsg e.start e.dim (s.incoming c b e)) w
    let out := (List.range n).filter fun i => !(decide (g.start ≤ i) && decide (i < g.start + g.dim))
    match w.elims (List.range n) out with
    | .error k => .error (cSingular, k)
    | .ok w =>
      let new := w.block g.start g.dim
      let cache := d + 640 + 56 * t
      let old := s.gaus c g.dim cache (cache + 4 * g.dim)
      let res := if g.cv then Gaus.map2 (fun o x => f32Fma g.beta (f32Sub o x) x) old new else new
      let r := if g.cv then (Gaus.map2 f32Sub res old).maxAbs else res.maxAbs
      let s := s.putF32 o b cache (res.eta ++ res.lam)
      let s := s.portStore o b (d + 72 + 16 * t) 8 (putField (s.rd64 (spad c (d + 72 + 16 * t))) 0 1 1).toNat
      let s := s.raiseRes o b d r
      let s := others.foldl (fun (s : State) i => s.markRead c b (es.getD i g)) s
      .ok (s.sendMsg c g (field w0 40 16) g.beta res)

/-! ## GSUM, GSUB and GRES (R367, R368) -/

def State.doGsum (s : State) (o : Who) (b : BitVec 7) (d : Nat) : GRes :=
  let c := o.core
  let w0 := s.rd64 (spad c d)
  let n := field w0 60 4
  let nf := field w0 56 4
  if !s.varOk c b d n nf then .error (cBadFactor, 0)
  else
    let es := (List.range nf).map (s.gEnt c d)
    let new := es.foldl (fun (x : Gaus) e => Gaus.map2 f32Add x (s.incoming c b e)) (s.gaus c n (d + 256) (d + 304))
    let old := s.gaus c n (d + 640) (d + 688)
    let s := (s.putF32 o b (d + 640) new.eta).putF32 o b (d + 688) new.lam
    let s := s.raiseRes o b d (Gaus.map2 f32Sub new old).maxAbs
    .ok (es.foldl (fun (s : State) e => s.markRead c b e) s)

def State.doGsub (s : State) (c : CoreId) (b : BitVec 7) (d f : Nat) : GRes :=
  let w0 := s.rd64 (spad c d)
  let n := field w0 60 4
  let nf := field w0 56 4
  if !s.varOk c b d n nf || decide (nf ≤ f) then .error (cBadFactor, 0)
  else
    let g := s.gEnt c d f
    let m := Gaus.map2 f32Sub (s.gaus c n (d + 640) (d + 688)) (s.incoming c b g)
    .ok (s.sendMsg c g (field w0 40 16) 0 m)

/-- The level of a residual (R368). -/
def resLevel (r : Nat) : Nat :=
  match f32v r with
  | .fin _ m e => if m = 0 then 0 else (max 0 (min 7 ((m.log2 : Int) + e + 8))).toNat
  | _ => 7

/-- The word GRES writes. -/
def resWord (r : Nat) : Word := BitVec.ofNat 64 (r % 2 ^ 32 * 2 ^ 32 + resLevel r)

/-! ## Issue (R348, R364) -/

/-- A Gaussian head enters the VX queue with its descriptor's offset. -/
def State.gaussIssue (s : State) (i : Instr) (b : GReg) (dst : Option GReg) : Host.Outcome State Fault Refusal :=
  finish s do
    s.touchG b
    (match dst with | some r => s.touchG r | none => .ok () : Try Unit)
    s.takeEng .vx
    (match i with | .gres _ => .ok () | _ => s.fencedBy 0 : Try Unit)
    s.fencedBy 2
    let off := field (s.g b) 0 19
    must (s.descOk off) cBadFactor (BitVec.ofNat 64 (descAt s.me.blk off))
    ready (decide (s.me.vxq.length < 2))
    let t := s.vxPush { s.vxItem i .always with bc := BitVec.ofNat 64 off }
    let t := match dst with
      | some r => t.pendG t.cur t.me.blk r true
      | none => t
    return t.advanceEng

def execGmu (o : GmsgOp) (s : State) : Host.Outcome State Fault Refusal := s.gaussIssue (.gmu o) o.b none
def execGsum (b : GReg) (s : State) : Host.Outcome State Fault Refusal := s.gaussIssue (.gsum b) b none
def execGsub (o : GmsgOp) (s : State) : Host.Outcome State Fault Refusal := s.gaussIssue (.gsub o) o.b none
def execGres (o : RrOp) (s : State) : Host.Outcome State Fault Refusal := s.gaussIssue (.gres o) o.b (some o.a)

/-- Does a descriptor, or a mailbox that its head reads, lie in a sealed range (R381)? -/
def State.gaussSealed (s : State) (c : CoreId) (x : VxItem) : Bool :=
  let d := descAt x.wpb x.bc.toNat
  let boxes (n : Nat) : Bool := (List.range n).any fun i =>
    let g := s.gEnt c d i
    let e := (s.core c).chan (s.gChan c x.wpb g)
    s.sealedHit c (mailSlot e g.slot) (mailHalf e)
  match x.i with
  | .gmu _ | .gsum _ => s.sealedHit c d 1344 || boxes (field (s.rd64 (spad c d)) 56 4)
  | .gsub _ | .gres _ => s.sealedHit c d 1344
  | _ => false

/-- The effect of a Gaussian head at its start; none for the other heads. -/
def State.gaussRun (s : State) (c : CoreId) (x : VxItem) : Option GRes :=
  let d := descAt x.wpb x.bc.toNat
  if s.gaussSealed c x then some (.error (cNoRight, 0))
  else match x.i with
  | .gmu o => some (s.doGmu (s.whoAt c x.hidx) x.wpb d o.t.toNat)
  | .gsum _ => some (s.doGsum (s.whoAt c x.hidx) x.wpb d)
  | .gsub o => some (s.doGsub c x.wpb d o.t.toNat)
  | .gres o =>
    let r := s.spad32 c (d + 8)
    some (.ok (((s.putF32 (s.whoAt c x.hidx) x.wpb (d + 8) [0]).setGAt c x.wpb o.a (resWord r)).pendG c x.wpb o.a false))
  | _ => none

end Sys2Proof.Machine
end

