-- ==== Sys2Proof/Machine/VxEngine.lean ====
section
/-! DEFINITION. The events of the VX engine (R325, R326, R342): the start of a head, its completion, and the sending of a VST. -/

namespace Sys2Proof.Machine

/-- Replace the head at the front of the VX queue. -/
def Core.setVx (k : Core) (x : VxItem) : Core := { k with vxq := x :: k.vxq.drop 1 }

/-- Are the slots filled that the head at the front waits for (R326)? Two handles of one stream take two slots, the second counted after the first. -/
def Core.vxFilled (k : Core) (x : VxItem) : Bool :=
  let ok (p : Handle × Chan × BitVec 4) (used : Nat) : Bool :=
    (k.chan p.2.1).v && (k.chan p.2.1).kind == 2 && decide (max 1 p.2.2.toNat + used ≤ (k.chan p.2.1).fill)
  match x.chans with
  | [p, q] => ok p 0 && ok q (if q.2.1 = p.2.1 then 1 else 0)
  | l => l.all fun p => ok p 0

/-- The head at the front leaves the queue; its mooring entries are free and the next head may start. -/
def State.vxPop (s : State) (c : CoreId) : State :=
  match (s.core c).vxq with
  | x :: r =>
    let s := s.modCore c fun k => { k.moorFree x.moor with vxq := r }
    let s := if r.isEmpty then s else s.emit (.vxHeadStart c)
    let s := if s.core c |>.mxq |>.any (fun y => match y.i with | .rstatE _ => true | _ => false) then s.emit (.mxHeadStart c false) else s
    s.tryFree c x.hidx
  | [] => s

/-- Write the destination of a head that has computed (R323, R331, R338). -/
def State.vxWrite (s : State) (c : CoreId) (x : VxItem) : State :=
  let cmp (o : VcmpOp) : State := (s.setPAt c x.wpb o.p (cmpMerge o.t x.acts (s.pAt c x.wpb o.p) x.bc)).pendP c x.wpb o.p false
  let red (o : VredOp) : State := (s.setGAt c x.wpb o.a x.bc).pendG c x.wpb o.a false
  match x.i with
  | .vcmpEq o | .vcmpNe o | .vcmpLt o | .vcmpLe o | .vcmpGt o | .vcmpGe o => cmp o
  | .vredAdd o | .vredMin o | .vredMax o => red o
  | i => match vxDest i with
    | some r =>
      s.setVBytes c x.wpb r x.data x.bm
    | none => s

/-- Take back what a head in the VX queue holds when it leaves without effect (R194): its pending marks, its mooring entries, and the first
step of a VST. -/
def State.vxUndo (s : State) (c : CoreId) (x : VxItem) : State :=
  let s := s.modCore c fun k => k.moorFree x.moor
  match x.i with
  | .vcmpEq o | .vcmpNe o | .vcmpLt o | .vcmpLe o | .vcmpGt o | .vcmpGe o => s.pendP c x.wpb o.p false
  | .vredAdd o | .vredMin o | .vredMax o => s.pendG c x.wpb o.a false
  | .gres o => s.pendG c x.wpb o.a false
  | .vst _ =>
    match x.reqs.head?.bind (·.buoy) with
    | some b => if x.started then s else s.undoStep c b
    | none => s
  | _ => s

/-- A fault of the head at the front, a Gaussian one or one whose slot or descriptor is sealed (R381): it leaves, and the later heads of its task leave with it (R194, R366). -/
def State.vxFault (s : State) (c : CoreId) (x : VxItem) (code : Code) (detail : BitVec 32) (faddr : Word) : State :=
  let later := ((s.core c).vxq.drop 1).filter fun y => y.hidx == x.hidx
  let s := (x :: later).foldl (fun (s : State) y => s.vxUndo c y) s
  let s := s.modCore c fun k => { k with vxq := x :: (k.vxq.drop 1).filter fun y => y.hidx != x.hidx }
  (s.addEng c x.hidx ⟨.vx, code, x.idx, detail, faddr, x.pc, false⟩).vxPop c

/-- VX_HEAD_START (R325, R326, R381): the head at the front consumes its slots when they are filled, reads its sources and computes. -/
def execVxHeadStart (s : State) : Host.Outcome State Fault Refusal :=
  match s.ev with
  | some (.vxHeadStart c) =>
    match (s.core c).vxq with
    | x :: _ =>
      if x.started then .next s
      else match x.i with
        | .vst _ => .next (s.emit (.vstSend c))
        | _ => match s.gaussRun c x with
        | some (.ok t) => .next ((t.modCore c fun k => k.setVx { x with started := true }).emit (.vxHeadComplete c))
        | some (.error e) => .next (s.vxFault c x e.1 (BitVec.ofNat 32 e.2) (BitVec.ofNat 64 (descAt x.wpb x.bc.toNat)))
        | none =>
          if (s.core c).vxFilled x then
            match x.chans.find? fun p => s.sealedHit c (ringSlot ((s.core c).chan p.2.1) ((s.core c).chan p.2.1).rd.toNat) 64 with
            | some p => .next (s.vxFault c x cNoRight 0 (BitVec.ofNat 64 (ringSlot ((s.core c).chan p.2.1) ((s.core c).chan p.2.1).rd.toNat)))
            | none =>
            let (slots, t) := x.chans.foldl (fun (a : List Line × State) p =>
              let (l, t) := a.2.takeSlot c x.wpb p.1 p.2.1
              (a.1 ++ [l], t)) ([], s)
            let (d, m, w) := vxResult (t.core c) (fun r => t.vAt c x.wpb r) slots x
            .next ((t.modCore c fun k => k.setVx { x with data := d, bm := m, bc := w, started := true }).emit (.vxHeadComplete c))
          else .next s
    | [] => .next s
  | _ => .next s

/-- VX_HEAD_COMPLETE (R325). -/
def execVxHeadComplete (s : State) : Host.Outcome State Fault Refusal :=
  match s.ev with
  | some (.vxHeadComplete c) =>
    match (s.core c).vxq with
    | x :: _ =>
      match x.i with
      | .vst _ => .next s
      | _ => if x.started then .next ((s.vxWrite c x).vxPop c) else .next s
    | [] => .next s
  | _ => .next s

/-- One line of a VST to the workspace (R119, R159, R339). -/
def State.vstWs (s : State) (c : CoreId) (x : VxItem) (r : MemReq) : State :=
  let off := ptrVa r.fptr
  if s.sealedHit c off r.n then s.addSfq r.who 0 cNoRight (BitVec.ofNat 64 off)
  else if (s.core c).imageHit (some x.hidx) off r.n then s.addSfq r.who 0 cWsprot (BitVec.ofNat 64 off)
  else
    let t := (List.range r.n).foldl (fun (t : State) i =>
      if r.bm.getLsbD i then t.storeByte c x.wpb (off + i) (lineByte r.data i) else t) s
    let a := spad c off
    let m := (r.bm &&& BitVec.ofNat 64 (2 ^ r.n - 1)) <<< (a % 64)
    let (_, p, wp) := mergeLine 0 (s.poiAt (a / 64)) 0 m
    let t := t.setPoi (a / 64) p
    if wp then t.addSfq r.who 0 cWpoison (BitVec.ofNat 64 off) else t

/-- Does a request still hold the step that it took at issue? One whose buoy fell silent meanwhile has lost it and takes another (R412). -/
def Core.holdsStep (k : Core) (r : MemReq) : Bool := match r.buoy with | some x => x.n != 0 && k.owed.any (fun o => o.1 == x) | none => false

/-- A request leaves as soon as its buoy has a step, or with the step that it took at issue. -/
def Core.mayLeave (k : Core) (r : MemReq) : Bool := k.holdsStep r || k.hasStep r.buoy

/-- The request with its step, under way. -/
def State.leaving (s : State) (c : CoreId) (r : MemReq) : MemReq × State :=
  if (s.core c).holdsStep r then (r, s.underWay c r) else s.withStep c r

/-- Send a VST's requests in ascending order while their steps last and their paths are free; the first step was taken at issue (R228, R342, R448). -/
def State.vstPump (s : State) (c : CoreId) : List MemReq → State
  | [] => s
  | r :: rest =>
    let k := s.core c
    match k.vxq with
    | x :: _ =>
      if k.mayLeave r && s.pathOk c (s.pathOf c r) then
        let (r, s) := s.leaving c r
        let s := s.modCore c fun k => k.setVx { x with reqs := rest, owed := x.owed + 1, started := true }
        (s.dispatch r).vstPump c rest
      else s
    | [] => s

/-- VST_SEND (R342): at its front VX reads vA, converts it and sends; a VST to the workspace writes at the port. -/
def execVstSend (s : State) : Host.Outcome State Fault Refusal :=
  match s.ev with
  | some (.vstSend c) =>
    match (s.core c).vxq with
    | x :: _ =>
      match x.i with
      | .vst o =>
        let m := heldVmem o x.fptr
        let reqs := if x.started then x.reqs else x.reqs.map (fillReq (vstBytes (s.core c) m (s.vAt c x.wpb o.a)))
        if x.ws then .next ((reqs.foldl (fun (t : State) r => t.vstWs c x r) s).vxPop c)
        else if reqs.isEmpty && x.owed == 0 then .next (s.vxPop c)
        else
          let t := s.modCore c fun k => k.setVx { x with reqs := reqs }
          .next (t.vstPump c reqs)
      | _ => .next s
    | [] => .next s
  | _ => .next s

end Sys2Proof.Machine
end

