-- ==== Sys2Proof/Machine/Replies.lean ====
section
/-! DEFINITION. The replies that reach a core (R26, R274 to R276, R281, R341) and the recovery of its buoys (R220, R412). -/

namespace Sys2Proof.Machine

/-! ## Outstanding loads -/

def Core.setLoad (k : Core) (x : Outst) : Core := { k with loads := k.loads.map fun y => if y.id = x.id then x else y }
def Core.dropLoad (k : Core) (id : Nat) : Core := { k with loads := k.loads.filter fun y => y.id != id }

/-- The phase in which a head of an entry holds the core. -/
def Core.phaseOf (k : Core) (h : Hidx) : Option Nat := if k.run = some h then k.hold.map (·.phase) else none

/-- The words a message or block brings (R295). -/
def Outst.words (x : Outst) (n : Nat) : List Word :=
  (List.range n).map fun i =>
    BitVec.ofNat 64 (((List.range 8).map fun j => (Tab.get 0 x.got (ptrVa x.fptr + 8 * i + j)).toNat * 256 ^ j).sum)

/-- Take the bytes of a reply, or its fault: of several faults the one at the lowest byte stays (R100). -/
def Outst.take (x : Outst) : RepBody → Outst
  | .data f n d p => { x with
      owed := x.owed - 1
      got := x.got ++ (List.range n).map fun i => (ptrVa f + i, lineByte d i)
      poi := x.poi ++ [(ptrVa f / 64 * 64, p)] }
  | .fault c a => { x with
      owed := x.owed - 1
      fault := match x.fault with
        | some (c', a') => if ptrVa a < ptrVa a' then some (c, a) else some (c', a')
        | none => some (c, a) }
  | _ => { x with owed := x.owed - 1 }

/-- The lines that an LDC miss or a fetch installs (R153, R276), unless an RO.INV has come since it was requested (R277). -/
def Outst.install (x : Outst) (ro : List RoLine) : List RoLine :=
  if !x.fresh then ro else x.fills.foldl (fun ro f => 
    let d := lineMk fun i => Tab.get 0 x.got (f.1 + i)
    roPut ro ⟨f.2, d, Tab.get 0 x.poi f.1, lineCheck d⟩) ro

/-- The bytes that an LDC needs of the lines that it fills, lowest first. -/
def Outst.used (x : Outst) : List Nat :=
  if x.fills.isEmpty then []
  else needed (elemTy x.t (ptrFmt x.fptr) (ptrBlog x.fptr)) (ptrFmt x.fptr) (ptrBlog x.fptr) (ptrVa x.fptr)

/-- The lowest poisoned byte that an LDC uses of the lines that it has filled: a line is checked on its use, not when it is filled (R153, R158). -/
def Outst.poisoned (x : Outst) : Option Nat := x.used.find? fun a => (Tab.get 0 x.poi (a / 64 * 64)).getLsbD (a % 64 / 32)

/-- The byte that a failed load names: of a line that could not be filled, the lowest that the LDC needs (R100, R276). -/
def Outst.failing (x : Outst) (a : Word) : Word :=
  match x.used.find? fun b => b / 64 == ptrVa a / 64 with
  | some b => mkPtr (field x.fptr 56 8) b
  | none => a

/-- Of two failures of an access, the one at the lower byte (R272). -/
def lowest (x y : Option (Code × Word)) : Option (Code × Word) :=
  match x, y with
  | some a, some b => some (if ptrVa b.2 < ptrVa a.2 then b else a)
  | a, b => a.or b

/-- A load or atomic has every reply: the value, or the fault (R121, R274, R275). -/
def State.loadDone (s : State) (c : CoreId) (x : Outst) : State :=
  let k := s.core c
  let s := s.modCore c fun k => { k with orc := if x.cnt then k.orc - 1 else k.orc }
  let phase := k.phaseOf x.hidx
  if x.code then
    let s := s.modCore c fun k => k.dropLoad x.id
    if (k.ent x.hidx).v && (k.ent x.hidx).binding == some x.id then
      let va := (k.ent x.hidx).bindVa.toNat
      if x.fault.isNone then
        ((s.addLog c x.log).modCore c fun k => { k with ro := x.install k.ro }).bindDone c x.hidx
          (if Tab.get 0 x.poi va = 0 then some (lineMk fun i => Tab.get 0 x.got (va + i)) else none)
      else s.bindDone c x.hidx none
    else
    let awaited : Bool := phase == some 9 && (k.hold.map (·.words)) == some [BitVec.ofNat 64 x.id]
    match x.fault with
    | some (code, a) => if awaited then s.answer c x.hidx (.fault code a) else s
    | none => s.modCore c fun k => { k with ro := x.install k.ro, hold := if awaited then none else k.hold }
  else
  let s := if x.fault.isNone then s.modCore c fun k => { k with ro := x.install k.ro } else s
  let bad := lowest (x.fault.map fun y => (y.1, x.failing y.2)) (x.poisoned.map fun a => (cPoison, mkPtr (field x.fptr 56 8) a))
  let s := if bad.isNone then s.addLog c x.log else s
  match bad with
  | some (code, a) =>
    let s := s.modCore c fun k => k.dropLoad x.id
    if x.nb then
      if (k.ent x.hidx).st = 5 then s.sysRec k.part [7, putField 0 0 16 code.toNat, a]
      else s.modEnt c x.hidx fun e => { e with held := e.held ++ [⟨x.reg, x.head, x.pc, code, a, x.id⟩] }
    else (s.pendG c x.wpb x.reg false).answer c x.hidx (.fault code a)
  | none =>
    if !x.nb && phase == some 6 then s.answer c x.hidx .ok
    else
      let s := s.modCore c fun k => k.dropLoad x.id
      if !x.nb && (phase == some 3 || phase == some 8) then
        (s.modCore c fun k => { k with hold := k.hold.map fun y => { y with words := x.words (y.words.headD 0).toNat ++ y.words.drop 1 } }).answer
          c x.hidx .ok
      else
        let rd (b : Nat) : Byte := Tab.get 0 x.got b
        let n := tyBits x.t / 8
        let v := if x.atom then putBits x.t ((List.range n).map fun i => (rd (ptrVa x.fptr + i)).toNat * 256 ^ i).sum
          else loadVal (s.core c) x.t (ptrFmt x.fptr) (ptrBlog x.fptr) (ptrVa x.fptr) rd
        let s := (s.setGAt c x.wpb x.reg v).pendG c x.wpb x.reg false
        if x.nb then s else s.answer c x.hidx .ok

/-- A reply of a load reaches its record. -/
def State.loadReply (s : State) (c : CoreId) (id : Nat) (b : RepBody) : State :=
  match (s.core c).loads.find? fun x => x.id == id with
  | none => s
  | some x =>
    let x := x.take b
    let s := s.modCore c fun k => k.setLoad x
    if x.todo.isEmpty && x.owed == 0 then s.loadDone c x else s

/-! ## Translations, late requests, engines -/

/-- Fill an entry of the ATC, which holds 512 (R182): one for the same page is replaced, and a full ATC gives up the entry that its pseudo-LRU chooses,
which the spec does not describe: a free value (log 23). -/
def State.atcFill (s : State) (c : CoreId) (e : AtcEntry) : State :=
  let rest := (s.core c).atc.filter fun x => !(x.sid == e.sid && x.psz == e.psz && x.vpn == e.vpn)
  if rest.length < 512 then s.modCore c fun k => { k with atc := e :: rest }
  else ({ s with free := s.free + 1 } : State).modCore c fun k => { k with atc := e :: rest.eraseIdx (Config.atcVictim s.free % 512) }

/-- An answer for the head that holds the task's core: a translation lets it go on (R182). -/
def State.headReply (s : State) (c : CoreId) (h : Hidx) (b : RepBody) : State :=
  match b with
  | .xlate _ => s.modCore c fun k => if k.phaseOf h = some 0 then { k with hold := none } else k
  | b => s.answer c h b

/-- An answer for the head that holds a task: a task in state 4 runs again, or takes the fault, at the head that missed; a fetch fault names the line that
was fetched (R189, R393). A member of a gang has kept its core. -/
def State.heldReply (s : State) (c : CoreId) (h : Hidx) (b : RepBody) : State :=
  let e := s.ent c h
  let s := match b with
    | .xlate x => s.atcFill c x
    | _ => s
  match e.assist with
  | some fetch =>
    if !e.v || e.st != 4 then s
    else
      let t := s.modEnt c h fun e => { e with assist := none }
      if (s.core c).run = some h then (t.setSt c h 0).headReply c h b
      else match b with
        | .fault code a =>
          let pc : VA := (s.ws c e.wpb 0).setWidth 56
          t.deliver c h code true (pcIdx pc) (if fetch then 0x80000000 else 0) a pc pc
        | _ => t.setSt c h 1
  | none => s.headReply c h b

/-- The kind of a store-fault record: a store that reached a window has its own (R197). -/
def State.sfqKind (s : State) (r : MemReq) : BitVec 3 :=
  match r.op, s.recFind (s.home r.who.pid r.who.sid (ptrVa r.fptr)) r.who.sid (ptrVa r.fptr) with
  | .store, some x => if paRegion (x.2.ppn.toNat * 4096) = 1 then 4 else r.kind
  | _, _ => r.kind

/-- The answer of a retained request (R196, R197). -/
def State.lateReply (s : State) (c : CoreId) (id : Nat) (b : RepBody) : State :=
  match (s.core c).srb.find? fun x => x.id == id with
  | none => s
  | some x =>
    let s := s.modCore c fun k => { k with srb := k.srb.filter fun y => y.id != id }
    let s := match b with
      | .fault code a => s.addSfq x.req.who (s.sfqKind x.req) code a
      | _ => s
    s.refreshWait c x.req.who.hidx

/-- The answer of a line request of the VST at the front of VX (R342). -/
def State.vxReply (s : State) (c : CoreId) (b : RepBody) : State :=
  match (s.core c).vxq with
  | [] => s
  | x :: _ =>
    let y := { x with owed := x.owed - 1 }
    let s := s.modCore c fun k => k.setVx y
    let s := match b with
      | .fault code a => s.addSfq (s.whoAt c x.hidx) 0 code a
      | _ => s
    if y.reqs.isEmpty && y.owed == 0 then s.vxPop c else s

/-- The head of a half of MX that awaits a reply. -/
def Core.mxWaits (k : Core) (rem : Bool) : Option MxItem := (if rem then k.mxrq else k.mxq).find? fun x => x.await || decide (0 < x.owed)

/-- Does an MX head store (R355)? -/
def MxItem.stores (x : MxItem) : Bool := match x.i with | .mxst _ | .mxstSat _ => true | _ => false

/-- Keep the fault at the lowest byte. -/
def MxItem.note (x : MxItem) (code : Code) (a : Word) : MxItem :=
  match x.fault with
  | some (_, a') => if ptrVa a < ptrVa a' then { x with fault := some (code, a) } else x
  | none => { x with fault := some (code, a) }

/-- The answer of a request of MX (R353, R355, R360). -/
def State.mxReply (s : State) (c : CoreId) (rem : Bool) (b : RepBody) : State :=
  match (s.core c).mxWaits rem with
  | none => s
  | some x =>
    let put (y : MxItem) : State := s.modCore c fun k => k.setMx rem y
    if x.await then
      match b with
      | .xlate e => (put { x with await := false }).atcFill c e
      | .fault code a => put ({ x with await := false }.note code a)
      | _ => s
    else
      let y := { x with owed := x.owed - 1 }
      match b with
      | .data f n d _ => put { y with got := y.got ++ (List.range n).map fun i => (ptrVa f + i, lineByte d i) }
      | .fault code a =>
        if x.stores && !rem then (put y).addSfq { x.who with core := c } 0 code a else put (y.note code a)
      | _ => put y

/-- An answer for a CX transfer (R375). -/
def State.copyReply (s : State) (c : CoreId) (cch : BitVec 2) (id : BitVec 32) (part : CxPart) (b : RepBody) : State :=
  match b with
  | .xlate e => (s.atcFill c e).cxReply c cch id part b
  | b => s.cxReply c cch id part b

/-- What the core does with a reply. -/
def State.takeReply (s : State) (c : CoreId) (ret : Ret) (b : RepBody) : State :=
  match ret with
  | .load id => s.loadReply c id b
  | .held h => s.heldReply c h b
  | .retained id => s.lateReply c id b
  | .vxLine => s.vxReply c b
  | .mxLine rem => s.mxReply c rem b
  | .cx cch id part => s.copyReply c cch id part b
  | .step | .host _ => s

/-- What may go on once a reply has come: requests that waited for a step or a place (R448), the engines, and entries that end (R165). -/
def State.afterReply (s : State) (c : CoreId) : State :=
  let s := (s.pumpLate c).pumpLoads c
  let s := match (s.core c).vxq with
    | x :: _ => if !x.reqs.isEmpty then s.emit (.vstSend c) else s
    | [] => s
  let s := ((s.kickMx c false).kickMx c true).kickCx c
  ((s.core c).ents.map (·.1)).foldl (fun (s : State) h => s.tryFree c (BitVec.ofNat 6 h)) s

/-- A step comes back with a reply, unless the request was answered before (R412). -/
def State.returnStep (s : State) (c : CoreId) (b : Step) (marked : Bool) : Option State :=
  match dropOwed b (s.core c).owed with
  | some l =>
    let t := s.modCore c fun k => { k with owed := l }
    some (match b.b with | some y => (t.giveStep c y marked).postWaiting c y | none => t)
  | none => none

/-- Is the reply of a peer marked by the port that receives it (R219)? -/
def State.peerMarked (s : State) (c : CoreId) (b : Step) : Bool :=
  match (s.core c).owed.find? fun x => x.1 == b with
  | some (_, .mem x) | some (_, .arrive _ x) => decide (16384 ≤ x.rcv) && decide (x.rcv < 17408) && s.portMarked (x.rcv - 16384)
  | _ => false

/-- MEMREP_RECEIVE (R26). -/
def execMemrepReceive (s : State) : Host.Outcome State Fault Refusal :=
  match s.ev with
  | some (.memrepReceive r) =>
    let c := r.core
    match (match r.buoy with | some b => s.returnStep c b (r.marked || s.peerMarked c b) | none => some s) with
    | none => .next s
    | some t => .next ((t.takeReply c r.ret r.body).afterReply c)
  | _ => .next s

/-- CEILING_RECOVERY (R220). -/
def execCeilingRecovery (s : State) : Host.Outcome State Fault Refusal :=
  match s.ev with
  | some (.ceilingRecovery c b) =>
    let x := (s.core c).buoy b
    .next (if x.unm = 255 then (s.setBuoy c b x.recover).release c b else s)
  | _ => .next s

/-! ## The recovery of a silent buoy (R412) -/

/-- The wait at a barrier ends with a fault: precise at BAR, or in a gang at the gang's next line boundary (R287, R400). -/
def State.barFault (s : State) (c : CoreId) (h : Hidx) (code : Code) (fva : Word) (pc : VA) : State :=
  let s := (s.modEnt c h fun e => { e with bar := { e.bar with bw := false } }).noteWait c h false
  if (s.ent c h).ganged then
    let s := s.modEnt c h fun e => { e with gang := e.gang.map fun x => { x with flt := some ⟨.mx, code, BitVec.ofNat 5 (pcIdx pc), 0, fva, pc, false⟩ } }
    let l := s.gangLead c h
    if (s.gangMembers c h).all fun m => !(s.ent m.2.1 m.2.2).bar.bw then s.wake l.1 l.2 else s
  else s.deliver c h code true (pcIdx pc) 0 fva pc pc

/-- Answer locally what is still owed under a buoy, naming the first byte of the request (R412). -/
def State.answerLocal (s : State) (c : CoreId) (x : Step × Owed) : State :=
  match x.2 with
  | .mem a => s.takeReply c a.ret (.fault cPaFault a.fptr)
  | .space _ r a => s.takeReply c r (.fault cPaFault a)
  | .task h => s.answer c h (.status (statusWord 7 0))
  | .arrive pc a => if (s.ent c a.hidx).bar.bw then s.barFault c a.hidx cPaFault a.fptr pc else s
  | .post l st =>
    if !(s.core c).hasStep (some x.1) then s.modCore c fun k => { k with owed := k.owed ++ [x] }
    else (s.takeStep c x.1.b x.2).emit (.completionPost l st (some (c, s.stepOf c x.1.b)))
  | .other => s

/-- BUOY_SILENCE_TIMEOUT (R412): it acts on a buoy below its ceiling. -/
def execBuoySilenceTimeout (s : State) : Host.Outcome State Fault Refusal :=
  match s.ev with
  | some (.buoySilenceTimeout c b) =>
    let k := s.core c
    let x := k.buoy b
    if x.ceil ≤ x.val then .next s
    else
      let mine := k.owed.filter fun o => o.1.b == some b
      let t := (s.setBuoy c b { x with val := x.ceil }).modCore c fun k => { k with owed := k.owed.filter fun o => o.1.b != some b }
      let t := mine.foldl (fun (t : State) o => t.answerLocal c o) t
      let t := (((t.release c b).postWaiting c b).afterReply c).modCore c fun y => { y with evc := countOnce k.evc y.evc }
      .next (t.sysRec k.part [9, putField 0 0 16 c.toNat, putField 0 0 16 b.toNat])
  | _ => .next s

end Sys2Proof.Machine
end

