-- ==== Sys2Proof/Machine/Banks.lean ====
section
/-! DEFINITION. The events of the banks and of what stands before them: requests, fills, write-backs, copies (R146 to R161, R183, R205, R207,
R228, R229, R232), and of the windows (R145). -/

namespace Sys2Proof.Machine

/-! ## Ownership (R44) -/

/-- The partition that owns a slice. -/
def State.sliceOwner (s : State) (sl : Nat) : Option Pid :=
  (s.slices.find? fun x => inForce x && bit (x.2.pdesc.getD 1 0) sl).map fun x => BitVec.ofNat 4 (field (x.2.pdesc.getD 0 0) 59 4)

/-- A packet for a slice of another partition is discarded with a SYS record; it comes from a source, in a class, with the payload words that the spec gives it. -/
def State.ownedOr (s : State) (sl : Nat) (p : Pid) (src : Bool × Nat) (cls : Nat) (words : Option Nat) (go : State) : State :=
  if s.sliceOwner sl = some p then go else s.stray sl p src (true, sl) cls words

/-- A core as the source of a packet. -/
def fromCore (c : CoreId) : Bool × Nat := (false, c.toNat)

/-! ## Answers -/

/-- A store-class request on its way past a port, already answered there (R232). -/
def pastPort (r : MemReq) : Bool := r.ret == .step && r.buoy.isNone

/-- Answer a request: by a MEMREP, or past a port by a remote-completion notice; a late-translated request has landed (R183, R232). -/
def State.answerReq (s : State) (r : MemReq) (b : RepBody) (m : Bool) : State :=
  let s := match r.ret with
    | .host _ =>
      (match b with
      | .fault c _ => s.sysAt (r.pa.toNat / 2 ^ 33 % 64) [19, r.pa.setWidth 64, putField 0 0 16 c.toNat]
      | _ => s)
    | _ =>
      if pastPort r && opWrites r.op then
        s.emit (.remoteCompletionNotice r.who.core (match b with | .fault c a => some (r.kind, r.who, c, a) | _ => none))
      else s.reply r b m
  s.landed r

/-- Does an operation need an answer with data? -/
def opData : BankOp → Bool
  | .load | .atom _ _ _ _ => true
  | _ => false

/-- A request for a peer joins the egress queue of its port (R413). -/
def State.toPort (s : State) (a : Nat) (ev : Event) : State :=
  let n := (Config.portOf (BitVec.ofNat 10 (a / 2 ^ 42))).toNat
  let p : Port := Tab.get .reset s.ports n
  { s with out := s.out ++ [ev], ports := Tab.set s.ports n { p with egress := p.egress + 1 } }

/-- Requests that waited at a bank go on, after those that go on already (R147, R229). -/
def State.goOn (s : State) (l : List Event) : State := { s with back := s.back ++ l }

/-- Is a request a write of region 3 or 4 before its port, which answers it (R232)? -/
def atPort (r : MemReq) : Bool :=
  (paRegion r.pa.toNat == 3 || paRegion r.pa.toNat == 4) && opWrites r.op && !opData r.op && !pastPort r

/-- A port accepts a write of region 3 or 4: its MEMREP comes from the port, and the count of awaited notices rises (R232). The write itself goes on
before anything that came after it. -/
def State.portAccept (s : State) (r : MemReq) : State :=
  let s := s.reply r .ok (paRegion r.pa.toNat == 3 && s.portMarked (r.pa.toNat / 2 ^ 42 % 1024))
  let s := s.modCore r.who.core fun k => { k with rcc := k.rcc + 1 }
  s.goOn [.bankRequest { r with ret := .step, buoy := none }]

/-- REMOTE_COMPLETION_NOTICE (R232). -/
def execRemoteCompletionNotice (s : State) : Host.Outcome State Fault Refusal :=
  match s.ev with
  | some (.remoteCompletionNotice c x) =>
    let s := s.modCore c fun k => { k with rcc := k.rcc - 1 }
    .next (match x with
      | some (kind, w, code, fva) => s.addSfq w kind code fva
      | none => s)
  | _ => .next s

/-! ## Migrated frames (R416, R440) -/

/-- The lines of a frame that a slice does not hold under an E grant. -/
def State.unowned (s : State) (sl frame : Nat) : List Nat :=
  ((List.range 64).map (64 * frame + ·)).filter fun ln => !(match s.cached (placeOf sl ln) with | some x => x.excl | none => false)

/-- The function of a host port that serves a partition's traffic: function 0 is the physical one, and function p + 1 serves partition p (R418). -/
def fnAt (p : Pid) (a : Nat) : Nat := 32 * (a / 2 ^ 51 % 2) + p.toNat + 1

/-- Ask the directory for a grant on a line (R415). The request to a host carries its function's generation, and the port holds a tag for its answer
(R420). -/
def State.askGrant (s : State) (p : Pid) (sl ln : Nat) (g : GrantKind) : State :=
  if paRegion (64 * ln) = 4 then
    let n := fnAt p (64 * ln)
    let x : Fn := Tab.get .reset s.fns n
    { s with
      fns := Tab.set s.fns n { x with tags := x.tags + 1 }
      out := s.out ++ [.directoryGrant (BitVec.ofNat 6 sl) (BitVec.ofNat 50 ln) g x.gen 0] }
  else { s with out := s.out ++ [.directoryGrant (BitVec.ofNat 6 sl) (BitVec.ofNat 50 ln) g 0 0] }

/-- Is a frame of the area free for one more move in? -/
def Slice.areaFree (k : Slice) : Bool := decide (k.migr.countP (fun x => x.2.move && x.2.area.isNone) < k.area.length)

/-- Start a move when the test of R416 holds; a move in asks for the grants that it lacks. -/
def State.moveTest (s : State) (sl frame : Nat) : State :=
  let k := s.slice sl
  match Tab.find k.migr frame with
  | none => s
  | some m =>
    let start : Bool := k.migOn && !m.move && (match m.area with
      | none => decide (256 ≤ m.d) && decide (4 * m.h < m.d) && k.areaFree
      | some _ => decide (256 ≤ m.h) && decide (4 * m.d < m.h))
    if start then
      let ask := if m.area.isNone then s.unowned sl frame else []
      let s := ask.foldl (fun (s : State) ln => s.askGrant ((s.sliceOwner sl).getD 0) sl ln .exclusive) s
      (s.modSlice sl fun k => { k with migr := Tab.set k.migr frame { m with move := true, owed := if m.area.isNone then ask else m.owed } }).emit
        (.moveComplete (BitVec.ofNat 6 sl) (BitVec.ofNat 44 frame))
    else s

/-- Is one entry a better victim than another: lowest d, then lowest h, then lowest PA? -/
def migrBefore (x y : Nat × Migr) : Bool :=
  decide (x.2.d < y.2.d) || (x.2.d == y.2.d && (decide (x.2.h < y.2.h) || (x.2.h == y.2.h && decide (x.1 < y.1))))

/-- Find room in a table of 1,024 entries, or none when every entry is migrated or moves. -/
def migrRoom (t : Tab Migr) : Option (Tab Migr) :=
  if t.length < 1024 then some t
  else
    let free := t.filter fun x => x.2.area.isNone && !x.2.move
    match free with
    | [] => none
    | x :: r => some (Tab.del t (r.foldl (fun a b => if migrBefore b a then b else a) x).1)

/-- Count a line fetched or written over a link, for a request under a key slot (R416). -/
def State.countLine (s : State) (sl frame : Nat) (key : BitVec 6) : State :=
  let k := s.slice sl
  let t : Option (Tab Migr) := match Tab.find k.migr frame with
    | some m => some (Tab.set k.migr frame { m with d := m.d + 1, key := key })
    | none => (migrRoom k.migr).map fun t => Tab.set t frame { Migr.reset with d := 1, key := key }
  match t with
  | some t => s.modSlice sl fun k => { k with migr := t }
  | none => s

/-- Count a line, and test the frame's entry (R440). -/
def State.countLink (s : State) (sl frame : Nat) (key : BitVec 6) : State := (s.countLine sl frame key).moveTest sl frame

/-- Is a frame of a host or a peer moving (R416, R440)? -/
def State.moves (s : State) (p : Pid) (a : Nat) : Bool := (paRegion a == 4 || paRegion a == 3) && (s.migr p a).move

/-- Is a frame held in the device's migration area, so that its lines have their home there (R416)? -/
def State.migrated (s : State) (p : Pid) (a : Nat) : Bool := s.homeAddr p a != a

/-! ## The gate before a line (R147, R150, R229) -/

/-- What an event that waits at a bank is for: its partition, address, key, core and space, whether it writes, the byte it names, where it comes
from, and whether the accesses behind it keep their order to it: not to an engine's and not to a read that fills a read-only cache (R235). -/
structure BankFacts where
  pid  : Pid
  pa   : Nat
  key  : BitVec 6
  core : CoreId
  sid  : Sid
  wr   : Bool
  va   : Nat
  src  : Bool × Nat
  keep : Bool
  deriving DecidableEq, Repr

/-- Does a later access keep its order to a request (R235)? -/
def keepsOrder (r : MemReq) : Bool :=
  match r.ret with
  | .vxLine | .mxLine _ | .cx _ _ _ => false
  | _ => r.who.lref != 0xFFFFFFFF

def State.bankFacts (s : State) : Event → Option BankFacts
  | .bankRequest r => some ⟨r.who.pid, r.pa.toNat, r.key, r.who.core, r.who.sid, opWrites r.op, ptrVa r.fptr, s.sourceOf r, keepsOrder r⟩
  | .barrierArrive m => some ⟨m.who.pid, m.pa.toNat, m.key, m.who.core, m.who.sid, true, ptrVa m.fptr, (false, m.who.core.toNat), true⟩
  | .barrierBytes m => some ⟨m.who.pid, m.pa.toNat, m.key, m.who.core, m.who.sid, true, 0, (false, m.who.core.toNat), false⟩
  | .closeAtBank b l q last => (s.closing b l q last).head?.map fun e => ⟨e.pid, e.pa.toNat, e.key, e.core, 0, true, 2 ^ 60, (true, 0), false⟩
  | _ => none

/-- The line that an event is for: a migrated frame's lines have their home in the migration area. -/
def State.lineFor (s : State) (f : BankFacts) : Nat := s.homeAddr f.pid f.pa / 64

/-- The place of that line (R439). -/
def State.placeFor (s : State) (f : BankFacts) : Nat := s.homePlace f.pid f.pa

/-- Does a request at a bank wait behind an earlier one that is not performed? Two writes of one source do (R229), and a same-bank pair that keeps its
order (R228, R235): of one core at one bank, with one first receiver or one translation unit. -/
def State.pairs (s : State) (x f : BankFacts) : Bool :=
  x.core == f.core && s.bankOf x.pid x.pa == s.bankOf f.pid f.pa
    && ((x.wr && f.wr && x.src == f.src) || (x.keep && (x.src == f.src || (x.sid == f.sid && unitOf x.va == unitOf f.va))))

/-- Does one of some waiting events hold a request? -/
def State.anyPair (s : State) (l : List Event) (f : BankFacts) : Bool :=
  l.any fun e => match s.bankFacts e with | some x => s.pairs x f | none => false

/-- A request that is behind a fill of its line, behind a write of its line that is not visible, or behind an earlier request of its core, waits there
(R147, R229). -/
def State.queueAt (s : State) (f : BankFacts) (ev : Event) : Option State :=
  match s.fills.find? fun x => x.1 == s.placeFor f || s.anyPair x.2 f with
  | some x => some { s with fills := Tab.set s.fills x.1 (x.2 ++ [ev]) }
  | none => (s.invw.findIdx? fun w => w.ln == s.lineFor f || s.anyPair w.reqs f).map fun i =>
      { s with invw := s.invw.modify i fun w => { w with reqs := w.reqs ++ [ev] } }

/-- Is a partition's function in ERROR, so that its host port turns away what goes out through it (R420)? -/
def State.torn (s : State) (p : Pid) (a : Nat) : Bool := paRegion a == 4 && (Tab.get Fn.reset s.fns (fnAt p a)).st == 3

/-- Wait for a fill: from HBM, or for a grant of the switch directory (R147, R415). -/
def State.awaitFill (s : State) (f : BankFacts) (wr : Bool) (ev : Event) : State :=
  let ln := s.lineFor f
  let t := { s with fills := Tab.set s.fills (s.placeFor f) [ev] }
  if paRegion (64 * ln) = 4 then t.askGrant f.pid (s.lineSlice f.pid f.pa) ln (if wr then .exclusive else .shared)
  else t.emit (.bankMissFill (BitVec.ofNat 50 ln))

/-- The dies of a sharer mask. -/
def diesOf (m : BitVec 4) : List Nat := (List.range 4).filter fun d => m.getLsbD d

/-- Invalidate the copies of a line before a write of it, which waits for the acknowledgments (R150). -/
def State.invalidate (s : State) (p : Pid) (l : CLine) (ev : Event) : State :=
  ({ s with invw := s.invw ++ [⟨l.ln, l.shar, [ev]⟩] } : State).emits
    ((diesOf l.shar).map fun d => .copyInvalidate (BitVec.ofNat 6 ((s.copySlice p d).getD 0)) (BitVec.ofNat 50 l.ln))

/-- Reach a line: wait behind what is ahead, fetch it, obtain the right to write it, invalidate its copies, and then act on it. -/
def State.gate (s : State) (f : BankFacts) (ev : Event) (bad : State → Code → State) (go : State → CLine → State) : State :=
  let ln := s.lineFor f
  match s.queueAt f ev with
  | some t => t
  | none =>
    match s.cached (s.placeFor f) with
    | some l =>
      if paRegion (64 * ln) = 4 && f.wr && !l.excl then (if s.torn f.pid f.pa then bad s cPaFault else s.awaitFill f true ev)
      else if f.wr && l.shar != 0 then s.invalidate f.pid l ev
      else go s l
    | none =>
      match s.queued (s.placeFor f) with
      | some l => if l.key = f.key then go s { l with dirty := false, shar := 0 } else bad s cPoison
      | none => if s.torn f.pid (64 * ln) then bad s cPaFault else (s.countSlice (s.lineSlice f.pid (64 * ln)) 65).awaitFill f f.wr ev

/-! ## Requests -/

/-- The die of a core whose copy slice serves its loads of a line (R150). -/
def State.copyFor (s : State) (r : MemReq) : Option Nat :=
  let cs := s.receiver r.who.core r.who.pid r.pa.toNat true r.det
  if (match r.op with | .load => true | _ => false) && decide (2048 ≤ cs) && decide (cs < 4096) then some (cs - 2048) else none

/-- Count a performed request and its mark (R224). -/
def State.countBank (s : State) (sl : Nat) (m : Bool) : State :=
  let s := s.countSlice sl 64
  if m then s.countSlice sl 66 else s

/-- The bank performs a request and answers it, marked by its input queue (R219). -/
def State.bankAnswer (s : State) (bank : Nat) (r : MemReq) (b : RepBody) : State :=
  let m := s.marked bank
  (s.countBank (bank / 16) m).answerReq r b m

/-- Perform a request on its line: a load that a copy slice sent on leaves a copy there (R150). -/
def State.performOn (s : State) (r : MemReq) (l : CLine) : State :=
  let p := r.who.pid
  let bank := s.bankOf p r.pa.toNat
  let m := s.marked bank
  let (l', b) := opLine l r (s.overlay r)
  let s := s.countBank (bank / 16) m
  let s := match s.copyFor r, b with
    | some cs, .data _ _ _ _ =>
      (s.installLine { l' with shar := l'.shar ||| BitVec.ofNat 4 (2 ^ sliceDie cs) }).installLine
        { l' with sl := cs, copy := true, dirty := false, shar := 0, excl := false }
    | _, _ => s.installLine l'
  s.answerReq r b m

/-- DISCARD (R160): the line at a place and its queued write-backs go. -/
def State.discardOn (s : State) (r : MemReq) (pl : Nat) (l : Option CLine) : State :=
  let bank := s.bankOf r.who.pid r.pa.toNat
  match l with
  | some l =>
    if l.key = r.key then ({ s.dropLine pl with wbq := s.wbq.filter fun x => x.place != pl } : State).bankAnswer bank r .ok
    else s.bankAnswer bank r (reqFault cPoison r)
  | none => ({ s with wbq := s.wbq.filter fun x => x.place != pl } : State).bankAnswer bank r .ok

/-- A DET store or BRED enters the quantum buffer, or is refused (R205, R207). -/
def State.detEnter (s : State) (r : MemReq) : State :=
  let bank := s.bankOf r.who.pid r.pa.toNat
  if s.qroom bank then ({ s with qbuf := s.qbuf ++ [qentry bank r] } : State).bankAnswer bank r .ok
  else
    let s := { s with refused := s.refused ++ [(bank, r.who.core.toNat)] }
    (((s.countSlice (bank / 16) 70).landed r).emit (.detRefusal r))

/-- A request at its line: DISCARD of a line that no bank holds does not fetch it. -/
def State.lineDo (s : State) (r : MemReq) (f : BankFacts) : State :=
  let ev : Event := .bankRequest r
  let bad (t : State) (c : Code) : State := t.bankAnswer (t.bankOf r.who.pid r.pa.toNat) r (reqFault c r)
  let pl := s.placeFor f
  match r.op with
  | .discard =>
    if (s.cached pl).isSome then s.gate f ev bad fun t l => t.discardOn r pl (some l)
    else (s.queueAt f ev).getD (s.discardOn r pl none)
  | _ => s.gate f ev bad fun t l => t.performOn r l

/-- BANK_REQUEST at its bank, or at the port of a peer or host. -/
def State.bankDo (s : State) (r : MemReq) : State :=
  let a := r.pa.toNat
  let p := r.who.pid
  let bank := s.bankOf p a
  let home := s.migrated p a
  if s.paBad a then s.bankAnswer bank r (reqFault cPaFault r)
  else if s.isLost a then s.bankAnswer bank r (reqFault cHosthomeLost r)
  else if atPort r && !home && s.torn p a && !(match s.cached (placeOf (s.lineSlice p a) (a / 64)) with | some l => l.excl | none => false) then
    s.bankAnswer bank r (reqFault cPaFault r)
  else if atPort r && !home then s.portAccept r
  else if paRegion a = 3 ∧ !home then
    ((if pastPort r then s.landed r else s).toPort a (.bankRequest { r with rref := none })).countLink (s.lineSlice p a) (a / 4096) r.key
  else s.ownedOr (s.lineSlice p a) p (s.sourceOf r) 0 none (
    if r.det && isDetOp r.op then s.detEnter r
    else if !s.keyOk r.key p then s.bankAnswer bank r (reqFault cKeyEmpty r)
    else match s.bankFacts (.bankRequest r) with
      | some f => s.lineDo r f
      | none => s)

def execBankRequest (s : State) : Host.Outcome State Fault Refusal :=
  match s.ev with
  | some (.bankRequest r) => .next (s.bankDo r)
  | _ => .next s

/-- COPY_SLICE_LOAD (R150): a copy serves the load, or the home does and leaves a copy. -/
def execCopySliceLoad (s : State) : Host.Outcome State Fault Refusal :=
  match s.ev with
  | some (.copySliceLoad sl r) =>
    let bank := 16 * sl.toNat + bankIn r.pa.toNat
    .next (s.ownedOr sl.toNat r.who.pid (fromCore r.who.core) 0 none (
      if !s.keyOk r.key r.who.pid then s.bankAnswer bank r (reqFault cKeyEmpty r)
      else match s.lines.find? fun x => x.copy && x.sl == sl.toNat && x.ln == r.pa.toNat / 64 with
        | some x => (s.putLine x).bankAnswer bank r (opLine x r (s.overlay r)).2
        | none => s.emit (.bankRequest r)))
  | _ => .next s

/-! ## Fills and write-backs -/

/-- A close goes on without its next entry, which has met a fault (R447). -/
def State.closeFails (s : State) (code : Code) (ev : Event) : State :=
  match ev with
  | .closeAtBank b l q last =>
    match (s.closing b l q last).head? with
    | some e => (({ s with qbuf := s.qbuf.erase e } : State).commitBad e code).goOn [ev]
    | none => s.goOn [ev]
  | _ => s

/-- A request meets a fault of its fill: its bank answers it, marked by its queue (R219). -/
def State.failWith (s : State) (code : Code) : Event → State
  | .bankRequest r => s.bankAnswer (s.bankOf r.who.pid r.pa.toNat) r (reqFault code r)
  | .barrierArrive m =>
    let bank := s.bankOf m.who.pid m.pa.toNat
    (s.countBank (bank / 16) (s.marked bank)).emit (.arrivalReply m.who 0 false (some (code, m.fptr)) m.headPc m.buoy (s.marked bank))
  | .barrierBytes m =>
    let bank := s.bankOf m.who.pid m.pa.toNat
    (s.countBank (bank / 16) (s.marked bank)).emit (.memrepReceive ⟨m.who.core, .cx m.cch m.id .post, .fault code 0, m.buoy, s.marked bank⟩)
  | ev => s.closeFails code ev

/-- An error that ECC corrects is corrected in place (R151, R158). -/
def State.correct (s : State) (granule : Nat) : State :=
  if s.soft.contains granule then
    { s with soft := s.soft.filter (· != granule) }.modSlice (32 * granule / 2 ^ 33 % 64) fun k => { k with ecc := k.ecc + 1 }
  else s

/-- A read of granules corrects them, and counts as one event (R224). -/
def State.corrects (s : State) (gs : List Nat) : State :=
  let t := gs.foldl (fun (s : State) g => s.correct g) s
  if gs.any s.soft.contains then t.countSlice (32 * gs.headD 0 / 2 ^ 33 % 64) 71 else t

/-- BANK_MISS_FILL (R147, R156, R157): the line is installed under the first waiting request's key; a failed check fails that request and
leaves a record. A line that a commit has installed meanwhile stands (R206). -/
def execBankMissFill (s : State) : Host.Outcome State Fault Refusal :=
  match s.ev with
  | some (.bankMissFill l) =>
    let ln := l.toNat
    let pl := placeOf (64 * ln / 2 ^ 33 % 64) ln
    match Tab.find s.fills pl with
    | some (e :: rest) =>
      let s := ({ s with fills := Tab.del s.fills pl } : State).corrects [2 * ln, 2 * ln + 1]
      match s.bankFacts e with
      | some f =>
        if (s.cached pl).isSome || s.placeFor f != pl then .next (s.goOn (e :: rest))
        else if !s.keyOk f.key f.pid then .next ((s.failWith cKeyEmpty e).goOn rest)
        else match s.fillFrom pl f.key with
        | .ok x => .next ((s.installLine x).goOn (e :: rest))
        | .error c => .next (((s.failWith c e).checkFailed ln).goOn rest)
      | none => .next (s.goOn rest)
    | _ => .next { s with fills := Tab.del s.fills pl }
  | _ => .next s

/-- WRITE_BACK_ACCEPT (R151): the oldest queued write-back of the line. The port of a host turns it away while the function of the slice's partition is
in ERROR (R420): the line does not reach the host. -/
def execWriteBackAccept (s : State) : Host.Outcome State Fault Refusal :=
  match s.ev with
  | some (.writeBackAccept l) =>
    match s.wbq.find? fun x => x.ln == l.toNat with
    | some x =>
      let t := { s with wbq := s.wbq.erase x }
      let a := 64 * x.ln
      if paRegion a = 4 then
        if s.torn ((s.sliceOwner x.sl).getD 0) a then .next t
        else .next (((t.storeBack x).countSlice x.sl 67).countLink x.sl (a / 4096) x.key)
      else .next ((t.storeBack x).countSlice x.sl 67)
    | none => .next s
  | _ => .next s

/-- PATROL_READ (R151). -/
def execPatrolRead (s : State) : Host.Outcome State Fault Refusal :=
  match s.ev with
  | some (.patrolRead g) => .next (s.corrects [g.toNat])
  | _ => .next s

/-! ## Copies (R150, R229) -/

/-- COPY_INVALIDATE (R150). -/
def execCopyInvalidate (s : State) : Host.Outcome State Fault Refusal :=
  match s.ev with
  | some (.copyInvalidate sl ln) =>
    .next ((s.dropCopies ln.toNat (some sl.toNat)).emit (.invalidateAck ln (BitVec.ofNat 2 (sliceDie sl.toNat))))
  | _ => .next s

/-- INVALIDATE_ACK (R229): with the last acknowledgment the write becomes visible, and what waited behind it goes on. -/
def execInvalidateAck (s : State) : Host.Outcome State Fault Refusal :=
  match s.ev with
  | some (.invalidateAck ln die) =>
    match s.invw.find? fun w => w.ln == ln.toNat with
    | none => .next s
    | some w =>
      let left := w.dies &&& ~~~BitVec.ofNat 4 (2 ^ die.toNat)
      if left ≠ 0 then .next { s with invw := s.invw.map fun x => if x.ln = w.ln then { x with dies := left } else x }
      else
        let s := { s with
          invw := s.invw.filter fun x => x.ln != w.ln
          lines := s.lines.map fun (l : CLine) => if l.ln = w.ln && !l.copy then { l with shar := 0 } else l }
        .next (s.goOn w.reqs)
  | _ => .next s

/-! ## Refused DET requests (R207) -/

/-- Insert a request in seq order. -/
def seqInsert (r : MemReq × Bool) : List (MemReq × Bool) → List (MemReq × Bool)
  | [] => [r]
  | x :: xs => if seqLt r.1.seq x.1.seq then r :: x :: xs else x :: seqInsert r xs

/-- The member that holds a request, as R208 counts: its task, or the task that sent the remote command. -/
def State.refreshHolder (s : State) (c : CoreId) (r : MemReq) : State :=
  match r.ret, (s.core c).mxrq with
  | .mxLine true, x :: _ => s.refreshWait x.who.core x.who.hidx
  | .mxLine true, [] => s
  | _, _ => s.refreshWait c r.who.hidx

/-- DET_REFUSAL (R207): the retained copy, or the engine's request, is marked for resend. -/
def execDetRefusal (s : State) : Host.Outcome State Fault Refusal :=
  match s.ev with
  | some (.detRefusal r) =>
    let c := r.who.core
    let s := s.modCore c fun k => match r.ret with
      | .retained id => { k with srb := k.srb.map fun x => if x.id = id then { x with marked := true } else x }
      | _ => { k with emark := k.emark ++ [r] }
    .next (s.refreshHolder c r)
  | _ => .next s

/-- ROOM_NOTICE (R207): the core resends its marked requests in seq order; a resend takes no new step. -/
def execRoomNotice (s : State) : Host.Outcome State Fault Refusal :=
  match s.ev with
  | some (.roomNotice c _) =>
    let k := s.core c
    let l := ((k.srb.filter fun x => x.marked).map fun x => (x.req, true)) ++ k.emark.map fun r => (r, false)
    let l := l.foldl (fun acc r => seqInsert r acc) []
    let s := s.modCore c fun k => { k with srb := k.srb.map fun x => { x with marked := false }, emark := [] }
    let s := s.emits (l.map fun r => if r.2 then .lateRequestAtHome r.1 else .bankRequest r.1)
    .next (l.foldl (fun (s : State) r => s.refreshHolder c r.1) s)
  | _ => .next s

/-! ## Windows (R145) -/

/-- WINDOW_ACCESS (R44, R145). -/
def execWindowAccess (s : State) : Host.Outcome State Fault Refusal :=
  match s.ev with
  | some (.windowAccess m) =>
    let x := s.core (BitVec.ofNat 11 (m.req.pa.toNat / 2 ^ 19))
    if x.part = m.req.who.pid then .next (s.windowDo m.req)
    else .next (s.stray (s.kernel x.part) m.req.who.pid (s.sourceOf m.req) (false, m.req.pa.toNat / 2 ^ 19 % 2048) 0 none)
  | _ => .next s

end Sys2Proof.Machine
end

