-- ==== Sys2Proof/Machine/Barriers.lean ====
section
/-! DEFINITION. Barrier objects at their bank (R215 to R217, R286) and the barrier waits of the tasks (R287, R288). -/

namespace Sys2Proof.Machine

/-! ## The object -/

/-- What an update makes of a barrier line: the line, whether the phase advanced, gen before it, and the groups to wake. -/
structure BarUpd where
  line : Line
  adv  : Bool
  gen  : BitVec 32
  grps : List Nat
  deriving DecidableEq, Repr

/-- One update (R216): an arrival from a core, or a post of `n` bytes; none while the object is not initialised. -/
def barUpdate (d : Line) (arr : Option CoreId) (n : Nat) : Option BarUpd :=
  let w0 := lineWord d 0
  let w2 := lineWord d 2
  let w3 := lineWord d 3
  if !bit w0 63 then none
  else
    let aarr := match arr with | some _ => min (field w0 16 16 + 1) 65535 | none => field w0 16 16
    let abyt := match arr with | some _ => field w2 0 48 | none => min (field w2 0 48 + n) (2 ^ 48 - 1)
    let grp : BitVec 256 := match arr with | some c => d.extractLsb' 256 256 ||| BitVec.ofNat 256 (2 ^ (c.toNat / 8)) | none => d.extractLsb' 256 256
    let gen := field w3 32 32
    let adv : Bool := decide (field w0 32 16 ≤ aarr) && decide (field (lineWord d 1) 0 48 ≤ abyt)
    let keep (i : Nat) : Word := BitVec.ofNat 64 (grp.toNat / 2 ^ (64 * i))
    some ⟨
      if adv then lineOf [putField (w0 ^^^ BitVec.ofNat 64 (2 ^ 62)) 16 16 0, lineWord d 1, putField w2 0 48 0, putField w3 32 32 (gen + 1), 0, 0, 0, 0]
      else lineOf [putField w0 16 16 aarr, lineWord d 1, putField w2 0 48 abyt, w3, keep 0, keep 1, keep 2, keep 3],
      adv, BitVec.ofNat 32 gen, if adv then (List.range 256).filter fun g => grp.getLsbD g else []⟩

/-- The reply to an arrival, or to a post of bytes. -/
def State.barReply (s : State) (ev : Event) (gen : BitVec 32) (adv : Bool) (code : Option Code) (m : Bool) : State :=
  match ev with
  | .barrierArrive q => s.emit (.arrivalReply q.who gen adv (code.map fun c => (c, q.fptr)) q.headPc q.buoy m)
  | .barrierBytes q => s.emit (.memrepReceive ⟨q.who.core, .cx q.cch q.id .post, (match code with | some c => .fault c 0 | none => .ok), q.buoy, m⟩)
  | _ => s

/-- Wakes to the eight cores of each group (R216). -/
def wakes (ln : Nat) (u : BarUpd) : List Event :=
  u.grps.flatMap fun g => (List.range 8).map fun i => .barrierWake (BitVec.ofNat 11 (8 * g + i)) (BitVec.ofNat 50 ln) (u.gen + 1)

/-- An update on a line that its pipeline holds: a line under another key, or with a poisoned granule, raises POISON. -/
def State.barOn (s : State) (ev : Event) (arr : Option CoreId) (n : Nat) (key : BitVec 6) (pa : Nat) (m : Bool) (l : CLine) : CLine × State :=
  let l := l.checked
  if l.key ≠ key ∨ l.poi ≠ 0 then (l, s.barReply ev 0 false (some cPoison) m)
  else match barUpdate l.data arr n with
    | none => (l, s.barReply ev 0 false (some cBadBarrier) m)
    | some u => ({ l with data := u.line, dirty := true, chk := lineCheck u.line, shar := 0 },
        (s.barReply ev u.gen u.adv none m).emits (wakes (pa / 64) u))

/-- An update at its bank, which answers it, marked by its queue (R219). -/
def State.barBank (s : State) (ev : Event) (arr : Option CoreId) (n : Nat) (f : BankFacts) : State :=
  let bank := s.bankOf f.pid f.pa
  let bad (t : State) (code : Code) : State :=
    let m := t.marked bank
    (t.countBank (bank / 16) m).barReply ev 0 false (some code) m
  if !s.keyOk f.key f.pid then bad s cKeyEmpty
  else s.gate f ev bad fun t l =>
    let m := t.marked bank
    let (l', u) := t.barOn ev arr n f.key f.pa m l
    (u.countBank (bank / 16) m).installLine l'

/-- An arrival or a post at the place of its object: a bank, a scratchpad, or a peer's port. -/
def State.barDo (s : State) (ev : Event) (arr : Option CoreId) (n : Nat) (f : BankFacts) : State :=
  let a := f.pa
  let p := f.pid
  let bank := s.bankOf p a
  let bad (s : State) (code : Code) : State :=
    if paRegion a = 1 then s.barReply ev 0 false (some code) false
    else
      let m := s.marked bank
      (s.countBank (bank / 16) m).barReply ev 0 false (some code) m
  if s.paBad a then bad s cPaFault
  else if s.isLost a then bad s cHosthomeLost
  else match paRegion a with
    | 1 =>
      let c : CoreId := BitVec.ofNat 11 (a / 2 ^ 19)
      let k := s.core c
      if k.part ≠ p then s.stray (s.kernel k.part) p f.src (false, c.toNat) 0 none
      else if s.sealedHit c (a % 2 ^ 19) 64 then bad s cNoRight
      else if k.imageHit none (a % 2 ^ 19) 64 then bad s cWsprot
      else
        let ln := a / 64
        let d := s.memLine ln
        let (l, t) := s.barOn ev arr n f.key a false ⟨ln, d, f.key, false, s.poiAt ln, lineCheck d, 0, false, 0, false⟩
        t.setMemLine ln l.data
    | 2 => bad s cBadBarrier
    | _ =>
      if paRegion a = 3 ∧ !s.migrated p a then (s.toPort a ev).countLink (s.lineSlice p a) (a / 4096) f.key
      else s.ownedOr (s.lineSlice p a) p f.src 0 none (s.barBank ev arr n f)

/-- BARRIER_ARRIVE (R216, R287). -/
def execBarrierArrive (s : State) : Host.Outcome State Fault Refusal :=
  match s.ev with
  | some (.barrierArrive m) => .next (match s.bankFacts (.barrierArrive m) with | some f => s.barDo (.barrierArrive m) (some m.who.core) 0 f | none => s)
  | _ => .next s

/-- BARRIER_BYTES (R216, R377). -/
def execBarrierBytes (s : State) : Host.Outcome State Fault Refusal :=
  match s.ev with
  | some (.barrierBytes m) => .next (match s.bankFacts (.barrierBytes m) with | some f => s.barDo (.barrierBytes m) none m.n f | none => s)
  | _ => .next s

/-! ## The wait (R288) -/

/-- Is the wait of a barrier record over (R287, R288)? -/
def barOver (b : BarWait) : Bool := b.rep && b.adv && (!b.bq || b.qd)

/-- A wait that is over ends; a gang wakes when the waits of all its members have ended. -/
def State.barCheck (s : State) (c : CoreId) (h : Hidx) : State :=
  let e := s.ent c h
  if e.bar.bw && barOver e.bar then
    let s := (s.modEnt c h fun e => { e with bar := { e.bar with bw := false } }).noteWait c h false
    let l := s.gangLead c h
    if (s.gangMembers c h).all fun m => !(s.ent m.2.1 m.2.2).bar.bw then s.wake l.1 l.2 else s
  else s

/-- BARRIER_WAKE (R216, R288, R379). -/
def execBarrierWake (s : State) : Host.Outcome State Fault Refusal :=
  match s.ev with
  | some (.barrierWake c ln gen) =>
    let t := allIdx.foldl (fun (s : State) h =>
      let e := s.ent c h
      if e.v && e.bar.line == ln then
        (s.modEnt c h fun e => { e with bar := { e.bar with wg := gen, wk := true, adv := e.bar.adv || (e.bar.rep && gen != e.bar.gen) } }).barCheck c h
      else s) s
    let opens : Bool := ((s.core c).cxq ++ (s.core c).fifo).any fun q => match q.gate with | some (l, g) => l == ln && g != gen | none => false
    .next (if opens then t.emit (.haloStart c ln gen) else t)
  | _ => .next s

/-- ARRIVAL_REPLY (R288). -/
def execArrivalReply (s : State) : Host.Outcome State Fault Refusal :=
  match s.ev with
  | some (.arrivalReply w gen adv flt pc buoy m) =>
    let c := w.core
    let h := w.hidx
    match (match buoy with | some b => s.returnStep c b (m || s.peerMarked c b) | none => some s) with
    | none => .next s
    | some t =>
      let e := t.ent c h
      if e.v && e.bar.bw && e.lref == w.lref && e.tix == w.tix then
        match flt with
        | some (code, a) => .next ((t.barFault c h code a pc).afterReply c)
        | none =>
          let t := t.modEnt c h fun e =>
            { e with bar := { e.bar with rep := true, gen := gen, adv := adv || (e.bar.wk && e.bar.wg != gen) } }
          .next ((t.barCheck c h).afterReply c)
      else .next (t.afterReply c)
  | _ => .next s

end Sys2Proof.Machine
end

