-- ==== Sys2Proof/Machine/Homes.lean ====
section
/-! DEFINITION. The translation homes: misses and late-translated requests (R182, R183, R186), host-assisted service (R189, R200, R201), MAP,
GRANT, UNMAP and SPQRY with their heads (R180, R181, R386 to R389), and withdrawal (R184 to R188, R441). -/

namespace Sys2Proof.Machine

/-! ## Records (R178) -/

/-- The reference that means none. -/
def noRec : RecRef := 0x1FFFFF

def recSlice (r : RecRef) : Nat := r.toNat / 2 ^ 15

def State.recAt (s : State) (r : RecRef) : Option DRec := Tab.find s.recs r.toNat

def State.modRec (s : State) (r : RecRef) (f : DRec → DRec) : State :=
  match s.recAt r with
  | some d => { s with recs := Tab.set s.recs r.toNat (f d) }
  | none => s

def pageSize (psz : BitVec 3) : Nat := 2 ^ pageShift psz

/-- The VA of a record's page. -/
def recBase (d : DRec) : Nat := d.vpn.toNat * 4096

/-- The records that are on their way to their homes. -/
def State.coming (s : State) : List (Nat × DRec) :=
  s.net.filterMap fun e => match e with | .recordCreation _ r d => some (r.toNat, d) | _ => none

/-- The records that stand or are on their way to their homes. -/
def State.allRecs (s : State) : List (Nat × DRec) := s.recs ++ s.coming

/-- Do two ranges meet? -/
def meet (a n b m : Nat) : Bool := decide (a < b + m) && decide (b < a + n)

/-- The homes of the 2 MiB units of a page, the home of its base first. -/
def State.homesOf (s : State) (p : Pid) (sid : Sid) (va size : Nat) : List Nat :=
  ((List.range ((size + 2 ^ 21 - 1) / 2 ^ 21)).map fun i => s.home p sid (va + 2 ^ 21 * i)).eraseDups

/-- The homes that a record takes a place at: its own, and those of its stubs (R179). -/
def State.placesOf (s : State) (p : Pid) (d : DRec) : List Nat := s.homesOf p d.sid (recBase d) (pageSize d.psz)

/-- How many records a home has or expects, the stubs that creations on their way will make included (R178, R179). -/
def State.recsAt (s : State) (home : Nat) : Nat :=
  (s.recs.filter fun x => x.1 / 2 ^ 15 == home).length
    + (s.coming.filter fun x => x.1 / 2 ^ 15 == home || (s.placesOf (((Tab.find s.spaces x.2.sid.toNat).map (·.pid)).getD 0) x.2).contains home).length

/-- Has a home room for another record? It holds indexes 0 to 32,766. -/
def State.recRoom (s : State) (home : Nat) : Bool := decide (s.recsAt home < 32767)

/-- The lowest free index of a home, which has room. -/
def State.freeRec (s : State) (home : Nat) : RecRef :=
  let l := s.allRecs.map (·.1)
  BitVec.ofNat 21 (2 ^ 15 * home + ((List.range (min (l.length + 1) 32767)).find? fun i => !l.contains (2 ^ 15 * home + i)).getD 0)

def State.modSpace (s : State) (sid : Sid) (f : Space → Space) : State :=
  match Tab.find s.spaces sid.toNat with
  | some x => { s with spaces := Tab.set s.spaces sid.toNat (f x) }
  | none => s

/-- The ATC entry of a record (R182). -/
def recAtc (d : DRec) : AtcEntry := ⟨true, d.psz, d.rts, d.det, d.key, d.loge, d.logr, d.sid, d.vpn, d.ppn⟩

/-! ## Slice fault records (R200, R201) -/

/-- Is there a place for a record in the ring of 256? -/
def State.ringRoom (s : State) (sl : Nat) : Bool := decide ((s.slice sl).tail - (s.slice sl).head < 256)

def State.ringFull (s : State) (sl : Nat) : State :=
  s.modSlice sl fun k => { k with full := if k.full = BitVec.allOnes 32 then k.full else k.full + 1 }

/-- Add a record with the access that it holds. -/
def State.ringAdd (s : State) (sl : Nat) (r : SfRec) (held : Option Event) : State :=
  let r := { r with time := s.time }
  s.modSlice sl fun k => { k with
    ring := Tab.set k.ring (k.tail % 256) r
    holdb := match held with | some e => Tab.set k.holdb k.tail (r, e) | none => k.holdb
    tail := k.tail + 1 }

def sfRec (kind : BitVec 3) (w : Who) (code : Code) (hold : Byte) (fva : Word) (r : RecRef) : SfRec :=
  ⟨kind, w.core, w.hidx, w.sid, code, hold, fva, r, 0⟩

/-- The place that a held store takes in the hold buffer of 64 entries. -/
def State.holdPlace (s : State) (sl : Nat) : Option Nat :=
  let used := (s.slice sl).holdb.filterMap fun x => if x.2.1.kind = 3 then some x.2.1.hold.toNat else none
  (List.range 64).find? fun i => !used.contains i

/-! ## Translation misses (R182) -/

/-- The reply of a home to a SPACE request, marked by its input queue (R219). -/
def State.spaceReply (s : State) (c : CoreId) (ret : Ret) (buoy : Option Step) (home : Nat) (b : RepBody) : State :=
  let n := s.net.countP fun e => match e with
    | .translationMiss m => s.home m.who.pid m.who.sid (ptrVa m.fptr) == home
    | .lateRequestAtHome r => s.home r.who.pid r.who.sid (ptrVa r.fptr) == home
    | .mapAtHome m => s.home m.who.pid m.who.sid m.sva.toNat == home
    | .spqryAtHome m => s.home m.who.pid m.who.sid m.va.toNat == home
    | .unmapAtCoordinator u => s.home u.who.pid u.who.sid u.start.toNat == home
    | _ => false
  let m : Bool := decide (24 ≤ n)
  (if m then s.countSlice home 66 else s).emit (.memrepReceive ⟨c, ret, b, buoy, m⟩)

/-- The fault of a miss, 0 for none: no record covers the byte, or it is being withdrawn, or a right is missing (R182). -/
def State.missCode (s : State) (home : Nat) (m : MissReq) : Code :=
  match s.recFind home m.who.sid (ptrVa m.fptr) with
  | some (_, d) => if d.wd then cNotMapped else if hasRights d.rts m.need then 0 else cNoRight
  | none => cNotMapped

/-- Answer a miss from the record as it stands: the holder bit is set before the reply. A missing right is found at the core's ATC, but under
host-assisted page-fault service the core asked for that very right (log 39). -/
def State.answerMiss (s : State) (home : Nat) (m : MissReq) : State :=
  let code := s.missCode home m
  let s := s.countSlice home 68
  match s.recFind home m.who.sid (ptrVa m.fptr) with
  | some (_, d) =>
    if d.wd || (code != 0 && s.mode m.who.pid 1) then s.spaceReply m.who.core m.ret m.buoy home (.fault code m.fptr)
    else
      let s := s.modSpace m.who.sid fun x => if x.hold.contains m.who.core.toNat then x else { x with hold := m.who.core.toNat :: x.hold }
      s.spaceReply m.who.core m.ret m.buoy home (.xlate (recAtc d))
  | none => s.spaceReply m.who.core m.ret m.buoy home (.fault cNotMapped m.fptr)

/-- The task of a held load or fetch enters state 4 (R189). A member of a gang, which stops only at a line boundary, stays at its head with its core (R33,
log 39). -/
def State.assistTask (s : State) (m : MissReq) : State :=
  let c := m.who.core
  let k := s.core c
  match m.ret with
  | .held h =>
    if k.run = some h then
      let t := s.modEnt c h fun e => { e with assist := some (m.kind == 1) }
      if (k.ent h).ganged then t.setSt c h 4 else t.switchOut c h 4 k.pc
    else s
  | _ => s

/-- A miss whose translation is settled: under host-assisted page-fault service a fault is recorded and its access held (R189). -/
def State.pageDo (s : State) (home : Nat) (m : MissReq) : State :=
  let code := s.missCode home m
  if s.mode m.who.pid 1 && code != 0 then
    if s.ringRoom home then (s.ringAdd home (sfRec m.kind m.who code 255 m.fptr noRec) (some (.translationMiss m))).assistTask m
    else (s.ringFull home).answerMiss home m
  else s.answerMiss home m

/-- TRANSLATION_MISS (R182, R189). -/
def execTranslationMiss (s : State) : Host.Outcome State Fault Refusal :=
  match s.ev with
  | some (.translationMiss m) =>
    let p := m.who.pid
    let home := s.home p m.who.sid (ptrVa m.fptr)
    let rref : RecRef := match s.recFind home m.who.sid (ptrVa m.fptr) with | some (i, _) => BitVec.ofNat 21 i | none => noRec
    .next (s.ownedOr home p (fromCore m.who.core) 6 none (
      if s.mode p 0 then
        if s.ringRoom home then s.ringAdd home (sfRec 4 m.who (s.missCode home m) 255 m.fptr rref) (some (.translationMiss m))
        else (s.ringFull home).answerMiss home m
      else s.pageDo home m))
  | _ => .next s

/-! ## Late-translated requests (R183) -/

/-- Refuse a late-translated request. -/
def State.refuseLate (s : State) (home : Nat) (r : MemReq) (code : Code) : State :=
  s.spaceReply r.who.core r.ret r.buoy home (.fault code r.fptr)

/-- Add to a home's write counter, which saturates, while its descriptor is defined (R223, R427). -/
def State.addWrite (s : State) (p : Pid) (home : Nat) (d : DRec) (n : Nat) : State :=
  if d.loge && bit ((Tab.get [] (s.slice (s.kernel p)).rdesc d.logr.toNat : List Word).getD 0 0) 63 then
    s.modSlice home fun k =>
      { k with wlog := Tab.set k.wlog d.logr.toNat (BitVec.ofNat 32 (min (2 ^ 32 - 1) ((Tab.get 0 k.wlog d.logr.toNat).toNat + n))) }
  else s

/-- Bytes that a late-translated request writes. -/
def lateBytes (r : MemReq) : Nat := ((List.range r.n).filter fun i => r.bm.getLsbD i).length

/-- Forward an accepted request to what it reaches; region 2 keeps nothing that a task writes. -/
def State.forward (s : State) (r : MemReq) : State :=
  match paRegion r.pa.toNat with
  | 1 => s.emit (.windowAccess ⟨r⟩)
  | 2 => s.answerReq r .ok false
  | _ => s.emit (.bankRequest r)

/-- LATE_REQUEST_AT_HOME (R183, R186, R189). -/
def execLateRequestAtHome (s : State) : Host.Outcome State Fault Refusal :=
  match s.ev with
  | some (.lateRequestAtHome r) =>
    let p := r.who.pid
    let va := ptrVa r.fptr
    let home := s.home p r.who.sid va
    let refuse (code : Code) : State :=
      if s.mode p 1 then
        match s.ringRoom home, s.holdPlace home with
        | true, some i => s.ringAdd home (sfRec 3 r.who code (BitVec.ofNat 8 i) r.fptr noRec) (some (.lateRequestAtHome r))
        | true, none => s.refuseLate home r code
        | false, _ => (s.ringFull home).refuseLate home r code
      else s.refuseLate home r code
    .next (s.ownedOr home p (fromCore r.who.core) 0 none (
      match s.recFind home r.who.sid va with
      | none => refuse cNotMapped
      | some (i, d) =>
        if d.wd then refuse cNotMapped
        else if !d.rts.getLsbD rWrite then refuse cNoRight
        else
          let s := { s with recs := Tab.set s.recs i { d with infl := d.infl + 1 } }
          (s.addWrite p home d (lateBytes r)).forward
            { r with
              pa := BitVec.ofNat 56 (atcPa (recAtc d) va), key := d.key, det := d.det && isDetOp r.op
              rref := some (BitVec.ofNat 21 i) }))
  | _ => .next s

/-- LANDED_NOTICE (R183). -/
def execLandedNotice (s : State) : Host.Outcome State Fault Refusal :=
  match s.ev with
  | some (.landedNotice _ r) => .next (s.modRec r fun d => { d with infl := d.infl - 1 })
  | _ => .next s

/-! ## MAP and GRANT (R180, R181, R387) -/

/-- The status codes of the space heads (R386). -/
def stOk : Nat := 0
def stBadmsg : Nat := 2
def stNospace : Nat := 3
def stBadsid : Nat := 4
def stBadref : Nat := 7
def stRevoked : Nat := 12
def stBadrange : Nat := 13
def stNoright : Nat := 14
def stDepth : Nat := 15
def stExists : Nat := 16
def stBadpa : Nat := 17
def stNotmapped : Nat := 18

/-- The VA of page `done` of a MAP, in its source and in its target. -/
def mapSrc (m : MapReq) : Nat := m.sva.toNat + m.done * pageSize m.psz
def mapDst (m : MapReq) : Nat := m.tva.toNat + m.done * pageSize m.psz

/-- The home that acts on the page: of the source, or for the root space of the target. -/
def State.mapHome (s : State) (m : MapReq) : Nat :=
  match m.root with
  | none => s.home m.who.pid m.who.sid (mapSrc m)
  | some _ => s.home (match Tab.find s.spaces m.tsid.toNat with | some x => x.pid | none => m.who.pid) m.tsid (mapDst m)

/-- Does a PA that the root space maps stand the test of R143? -/
def State.paMappable (s : State) (p : Pid) (a size : Nat) : Bool :=
  a % size == 0 && (match paRegion a with
    | 0 => a / 2 ^ 39 % 2 ^ 14 == 0 && (s.partSlices p).contains (a / 2 ^ 33 % 64)
    | 1 => a / 2 ^ 30 % 2 ^ 23 == 0 && s.inPart p (a / 2 ^ 19 % 2048)
      && decide (a % 2 ^ 19 + size ≤ 4096 * (s.core (BitVec.ofNat 11 (a / 2 ^ 19))).sblk.toNat)
    | 2 => a / 2 ^ 30 % 2 ^ 23 == 0 && (s.partSlices p).contains (a / 2 ^ 24 % 64)
    | 3 => a / 2 ^ 52 % 2 == 0
    | 4 => a / 2 ^ 52 % 2 == 0
    | _ => false)

/-- The partition of a target space, if it exists. -/
def State.spacePart (s : State) (sid : Sid) : Option Pid := (Tab.find s.spaces sid.toNat).map (·.pid)

/-- Conditions 4 to 7 of R180 and the test of R143, or the status of the first that fails; `dep` is the source's depth. -/
def State.mapTarget (s : State) (m : MapReq) (dep : Option Nat) (pa : Nat) : Nat :=
  let size := pageSize m.psz
  match s.spacePart m.tsid with
  | none => stBadsid
  | some p =>
    let homes := s.homesOf p m.tsid (mapDst m) size
    if m.root.isNone && p != m.who.pid then stBadsid
    else if m.root.isSome && !s.paMappable p pa size then stBadpa
    else if (match dep with | some d => decide (15 ≤ d) | none => false) then stDepth
    else if !(homes.all s.recRoom && s.recRoom (s.mapHome m)) then stNospace
    else if s.allRecs.any fun x => x.2.sid == m.tsid && meet (recBase x.2) (pageSize x.2.psz) (mapDst m) size then stExists
    else stOk

/-- The status of the page that a MAP or GRANT has reached, in the order of R180. A target page that runs past VA 2^56 fails with the alignment of the
target, which R180 does not say (DEDUCED, log 40). -/
def State.mapCheck (s : State) (m : MapReq) : Nat :=
  let size := pageSize m.psz
  let dst : Bool := mapDst m % size == 0 && decide (mapDst m + size ≤ 2 ^ 56)
  match m.root with
  | some r => if dst then s.mapTarget m none (r.pa.toNat + m.done * size) else stBadrange
  | none =>
    match s.recFind (s.mapHome m) m.who.sid (mapSrc m) with
    | none => stBadrange
    | some (_, d) =>
      if d.wd then stRevoked
      else if !d.rts.getLsbD 0 || (m.r &&& ~~~d.rts) != 0 then stNoright
      else if !dst || decide (d.psz.toNat < m.psz.toNat) then stBadrange
      else if m.grant && !(d.psz == m.psz && recBase d == mapSrc m && !d.stub) then stBadrange
      else s.mapTarget m (some d.dep.toNat) 0

/-- The primary record behind a stub. -/
def State.primary (s : State) (i : Nat) (d : DRec) : Nat × DRec :=
  if d.stub then (match s.recAt d.par with | some x => (d.par.toNat, x) | none => (i, d)) else (i, d)

/-- The children of a record, those whose creation is on its way included (R187). -/
def State.kidsOf (s : State) (r : RecRef) : List RecRef := (s.allRecs.filter fun x => x.2.par == r && !x.2.stub).map fun x => BitVec.ofNat 21 x.1

/-- The withdraw mark of a record and of its stubs (R179, R185). -/
def State.markRec (s : State) (r : RecRef) : State :=
  { s with recs := s.recs.map fun (x : Nat × DRec) => if x.1 = r.toNat ∨ (x.2.stub ∧ x.2.par = r) then (x.1, { x.2 with wd := true }) else x }

/-- Start the withdrawal of one root record (R185): with its record marked, or with its children alone. -/
def State.withdraw (s : State) (part : Option (Nat × SliceId)) (r : RecRef) (self kids : Bool) : State :=
  match s.recAt r with
  | none => s
  | some d =>
    let id := s.names
    let owed := if kids then s.kidsOf r else []
    let lo := d.ppn.toNat * 4096
    let w : Withdraw := ⟨id, part, if self then [r] else [], owed.map (·, r), [], lo, lo + pageSize d.psz⟩
    let s := { s with names := id + 1, wds := s.wds ++ [w] }
    let s := if self then s.markRec r else s
    s.emits (owed.map fun c => .withdrawMessage id c)

/-- Step 2: shootdowns to the holders of the subtree's spaces; without a holder step 3 follows at once. -/
def State.shootAll (s : State) (w : Withdraw) : State :=
  let sids := (w.recs.filterMap fun r => (s.recAt r).map (·.sid)).eraseDups
  let cores := (sids.flatMap fun sid => match Tab.find s.spaces sid.toNat with | some x => x.hold | none => []).eraseDups
  let s := { s with wds := s.wds.map fun (x : Withdraw) => if x.id = w.id then { x with shoot := cores } else x }
  if cores.isEmpty then s.emit (.recordRemoval w.id)
  else s.emits (cores.map fun c => .shootdown (BitVec.ofNat 11 c) w.id (BitVec.ofNat 56 w.lo) (BitVec.ofNat 56 w.hi))

/-- The walk of a withdrawal is over when nothing is owed. -/
def State.walkDone (s : State) (id : Nat) : State :=
  match s.wds.find? fun w => w.id == id with
  | some w => if w.owed.isEmpty then s.shootAll w else s
  | none => s

/-- A page that passes commits: the child is linked at the head of the source's list and its creation goes to the target home; a granted
record gives its place to the new one, to which a withdraw message on its way follows it, and is withdrawn alone (R180, R181, R187). -/
def State.mapCommit (s : State) (m : MapReq) : State :=
  let size := pageSize m.psz
  let p := (s.spacePart m.tsid).getD 0
  let ref := s.freeRec (s.home p m.tsid (mapDst m))
  let vpn := BitVec.ofNat 44 (mapDst m / 4096)
  let at_ : SliceId := BitVec.ofNat 6 (s.mapHome m)
  match m.root with
  | some r =>
    let d : DRec := ⟨false, false, m.psz, m.r, r.det, r.key, r.loge, r.logr, 0, m.tsid, vpn, 0,
      BitVec.ofNat 44 ((r.pa.toNat + m.done * size) / 4096), noRec, noRec, noRec⟩
    s.emit (.recordCreation at_ ref d)
  | none =>
    match s.recFind (s.mapHome m) m.who.sid (mapSrc m) with
    | none => s
    | some (i, d) =>
      let (i, d) := s.primary i d
      let src : RecRef := BitVec.ofNat 21 i
      let ppn := BitVec.ofNat 44 ((d.ppn.toNat * 4096 + (mapSrc m - recBase d)) / 4096)
      if m.grant then
        let new : DRec := { d with
          sid := m.tsid, vpn := vpn, rts := m.r, infl := 0, wd := false }
        let swap (x : RecRef) : RecRef := if x = src then ref else x
        let fix (x : DRec) : DRec := if x.stub then x else { x with chd := swap x.chd, sib := swap x.sib, par := swap x.par }
        let s := { s with
          recs := s.recs.map fun (x : Nat × DRec) => if x.1 = i then x else (x.1, fix x.2)
          net := s.net.map fun (e : Event) => match e with
            | .recordCreation z x y => Event.recordCreation z x (fix y)
            | .withdrawMessage i x => Event.withdrawMessage i (swap x)
            | e => e
          wds := s.wds.map fun (w : Withdraw) => { w with owed := w.owed.map fun (x : RecRef × RecRef) => (swap x.1, x.2) } }
        let s := s.modRec src fun d => { d with par := noRec, chd := noRec, sib := noRec }
        let id := s.names
        let s := (s.emit (.recordCreation at_ ref new)).withdraw none src true false
        s.walkDone id
      else
        let new : DRec := ⟨false, false, m.psz, m.r, d.det, d.key, d.loge, d.logr, d.dep + 1, m.tsid, vpn, 0, ppn, src, noRec, d.chd⟩
        (s.modRec src fun d => { d with chd := ref }).emit (.recordCreation at_ ref new)

/-- The reply of a MAP or GRANT: a status and the pages committed. -/
def State.mapReply (s : State) (home : Nat) (m : MapReq) (code : Nat) : State :=
  s.spaceReply m.who.core m.ret m.buoy home (.status (statusWord code m.done))

/-- Commit page after page while they belong to this home. -/
def State.mapPages (s : State) (home : Nat) (m : MapReq) : Nat → State
  | 0 => s.mapReply home m stOk
  | n + 1 =>
    if s.mapHome m ≠ home then s.emit (.mapForward m)
    else
      let code := s.mapCheck m
      if code ≠ stOk then s.mapReply home m code
      else (s.mapCommit m).mapPages home { m with done := m.done + 1 } n

/-- MAP or GRANT at its first home: the operands of R387, then the pages. -/
def State.mapStart (s : State) (m : MapReq) : State :=
  let home := s.mapHome m
  s.ownedOr home (match m.root with | none => m.who.pid | some _ => (s.spacePart m.tsid).getD m.who.pid) (fromCore m.who.core) 6 none (
    if m.bad || decide (5 ≤ m.psz.toNat) || m.n == 0 || decide (256 < m.n) then s.mapReply home m stBadmsg
    else if m.root.isNone && m.sva.toNat % pageSize m.psz != 0 then s.mapReply home m stBadrange
    else s.mapPages home m (m.n - m.done))

/-- MAP_AT_HOME (R180). -/
def execMapAtHome (s : State) : Host.Outcome State Fault Refusal :=
  match s.ev with
  | some (.mapAtHome m) => .next (s.mapStart m)
  | _ => .next s

/-- MAP_FORWARD (R180). -/
def execMapForward (s : State) : Host.Outcome State Fault Refusal :=
  match s.ev with
  | some (.mapForward m) => .next (s.mapPages (s.mapHome m) m (m.n - m.done))
  | _ => .next s

/-- RECORD_CREATION (R179, R180): the record, and a stub at each other home that its page spans. -/
def execRecordCreation (s : State) : Host.Outcome State Fault Refusal :=
  match s.ev with
  | some (.recordCreation _ ref d) =>
    let p := (s.spacePart d.sid).getD 0
    let s := { s with recs := Tab.set s.recs ref.toNat d }
    let homes := (s.placesOf p d).filter (· != recSlice ref)
    let s := homes.foldl (fun (s : State) h =>
      { s with recs := Tab.set s.recs (s.freeRec h).toNat { d with stub := true, par := ref, chd := noRec, sib := noRec } }) s
    .next (s.modSpace d.sid fun x => { x with count := x.count + 1 + homes.length })
  | _ => .next s

/-- SPACE heads hold the task until the reply, and then write its status word (R386). -/
def State.spaceHead (s : State) (a : GReg) (q : Guard) (ops : List GReg) (a0 : Word) (ev : Step → Event) :
    Host.Outcome State Fault Refusal :=
  finish s (s.awaiting 4 (fun _ b => match b with
      | .status w => .ok (s.setG a w).advance
      | _ => .ok s.advance)
    (s.guarded q do
      s.touchG a
      ops.forM s.touchG
      let (t, b) ← s.needStep (BitVec.ofNat 7 (s.home s.me.part s.myEnt.sid (ptrVa a0))) (.space s.myIdx (.held s.myIdx) a0)
      return (t.emit (ev b)).holdIn 4 []))

/-- The packet of MAP and GRANT (R387). -/
def State.mapReq (s : State) (o : SpaceOp) (grant : Bool) (b : Step) : MapReq :=
  let d := s.g o.d
  ⟨s.who, grant, (s.g o.b).setWidth 56, (s.g o.c).setWidth 56, BitVec.ofNat 12 (field d 52 12), BitVec.ofNat 4 (field d 48 4),
    BitVec.ofNat 3 (field d 45 3), field d 0 32, 0, none, field d 32 13 != 0, some b, .held s.myIdx⟩

def execMap (o : SpaceOp) (s : State) : Host.Outcome State Fault Refusal :=
  s.spaceHead o.a o.q [o.b, o.c, o.d] (s.g o.b) fun b => .mapAtHome (s.mapReq o false b)

def execGrant (o : SpaceOp) (s : State) : Host.Outcome State Fault Refusal :=
  s.spaceHead o.a o.q [o.b, o.c, o.d] (s.g o.b) fun b => .mapAtHome (s.mapReq o true b)

/-! ## UNMAP (R388) -/

def execUnmap (o : SpaceOp) (s : State) : Host.Outcome State Fault Refusal :=
  s.spaceHead o.a o.q [o.b, o.c, o.d] (s.g o.b) fun b =>
    let c := s.g o.c
    .unmapAtCoordinator ⟨s.who, (s.g o.b).setWidth 56, bit c 63, field c 0 32, (s.g o.d).setWidth 32, field c 32 31 != 0, some b, .held s.myIdx⟩

/-- A task reference whose reserved bits are 0 (R306). -/
def refOk (r : BitVec 32) : Bool := r.toNat / 2 ^ 27 == 0 && r.toNat % 2 ^ 10 == 0

/-- The check of an UNMAP's operands. -/
def unmapCheck (u : UnmapReq) : Nat :=
  if u.bad || u.len == 0 || decide (2097152 < u.len) || u.start.toNat % 4096 != 0 then stBadmsg
  else if 2 ^ 56 < u.start.toNat + 4096 * u.len then stBadrange
  else if u.dref != BitVec.allOnes 32 && !refOk u.dref then stBadref
  else stOk

/-- UNMAP_AT_COORDINATOR (R388): the check, one part to the home of every unit, and the answer. -/
def execUnmapAtCoordinator (s : State) : Host.Outcome State Fault Refusal :=
  match s.ev with
  | some (.unmapAtCoordinator u) =>
    let p := u.who.pid
    let home := s.home p u.who.sid u.start.toNat
    let code := unmapCheck u
    .next (s.ownedOr home p (fromCore u.who.core) 6 none (
      if code ≠ stOk then s.spaceReply u.who.core u.ret u.buoy home (.status (statusWord code 0))
      else
        let first := u.start.toNat / 2 ^ 21
        let last := (u.start.toNat + 4096 * u.len - 1) / 2 ^ 21
        let homes := ((List.range (last - first + 1)).map fun i => s.home p u.who.sid ((first + i) * 2 ^ 21)).eraseDups
        let parts : List SliceId := homes.map (BitVec.ofNat 6)
        let id := s.names
        let s := { s with names := id + 1, unmaps := s.unmaps ++ [(⟨id, u, parts⟩ : Unmap)] }
        (s.emits (parts.map fun x => .unmapPart id x)).spaceReply u.who.core u.ret u.buoy home (.status (statusWord stOk 0))))
  | _ => .next s

/-- The roots of a part: the issuer's records of this home whose page base lies in the range (R185). -/
def State.unmapRoots (s : State) (sl : Nat) (u : UnmapReq) : List (Nat × DRec) :=
  s.recs.filter fun x => x.1 / 2 ^ 15 == sl && x.2.sid == u.who.sid && !x.2.stub
    && decide (u.start.toNat ≤ recBase x.2) && decide (recBase x.2 < u.start.toNat + 4096 * u.len)

/-- Wait for the walk that has marked a root record (R187). -/
def State.awaitWalk (s : State) (part : Option (Nat × SliceId)) (r : RecRef) (d : DRec) : State :=
  let id := s.names
  let lo := d.ppn.toNat * 4096
  { s with names := id + 1, wds := s.wds ++ [(⟨id, part, [], [(r, r)], [], lo, lo + pageSize d.psz⟩ : Withdraw)] }.emit
    (.withdrawMessage id r)

/-- Begin the withdrawal of the roots of a part; a root that another walk has marked is waited for and not walked again (R187). -/
def State.unmapWalk (s : State) (id : Nat) (sl : SliceId) (u : UnmapReq) : State :=
  let roots := s.unmapRoots sl.toNat u
  let t := roots.foldl (fun (s : State) x =>
    let r := BitVec.ofNat 21 x.1
    if x.2.wd then s.awaitWalk (some (id, sl)) r x.2 else let n := s.names; (s.withdraw (some (id, sl)) r u.self true).walkDone n) s
  if roots.isEmpty then t.emit (.withdrawCompletionPost id sl) else t

/-- UNMAP_PART (R185, R189). -/
def execUnmapPart (s : State) : Host.Outcome State Fault Refusal :=
  match s.ev with
  | some (.unmapPart id sl) =>
    match s.unmaps.find? fun u => u.id == id with
    | none => .next s
    | some u =>
      let p := u.req.who.pid
      if s.mode p 2 then
        if s.ringRoom sl.toNat then .next (s.ringAdd sl.toNat (sfRec 5 u.req.who 0 255 (vaWord u.req.start) (match s.unmapRoots sl.toNat u.req with | x :: _ => BitVec.ofNat 21 x.1 | [] => noRec)) (some (.unmapPart id sl)))
        else .next ((s.ringFull sl.toNat).unmapWalk id sl u.req)
      else .next (s.unmapWalk id sl u.req)
  | _ => .next s

/-! ## Withdrawal (R185 to R187) -/

/-- Has the walk that marked a record not yet acknowledged for it (R187)? -/
def State.walkOpen (s : State) (r : RecRef) : Bool := s.wds.any fun w => w.recs.contains r && w.owed.any fun x => x.1 == r || x.2 == r

/-- A record and its descendants, to the depth that a record can have (R180). -/
def State.subtree (s : State) (r : RecRef) : Nat → List RecRef
  | 0 => [r]
  | n + 1 => r :: (s.kidsOf r).flatMap fun c => s.subtree c n

/-- WITHDRAW_MESSAGE (R185): mark, and walk the children. A record that another walk has marked is not walked again: it is acknowledged once that walk is
done (R187), and what that walk marked is part of this withdrawal too. -/
def execWithdrawMessage (s : State) : Host.Outcome State Fault Refusal :=
  match s.ev with
  | some (.withdrawMessage id r) =>
    match s.recAt r with
    | none => .next (s.emit (.withdrawAck id r))
    | some d =>
      if d.wd then
        if s.walkOpen r then .next (s.emit (.withdrawMessage id r))
        else
          let l := s.subtree r 16
          .next (({ s with wds := s.wds.map fun (w : Withdraw) => if w.id = id then { w with recs := (w.recs ++ l).eraseDups } else w } : State).emit
            (.withdrawAck id r))
      else
        let kids := s.kidsOf r
        let s := s.markRec r
        let s := { s with wds := s.wds.map fun (w : Withdraw) => if w.id = id then { w with recs := w.recs ++ [r], owed := w.owed ++ kids.map (·, r) } else w }
        if kids.isEmpty then .next (s.emit (.withdrawAck id r)) else .next (s.emits (kids.map fun c => .withdrawMessage id c))
  | _ => .next s

/-- WITHDRAW_ACK (R185): a home whose record's children have all acknowledged acknowledges in its turn. -/
def execWithdrawAck (s : State) : Host.Outcome State Fault Refusal :=
  match s.ev with
  | some (.withdrawAck id r) =>
    match s.wds.find? fun w => w.id == id with
    | none => .next s
    | some w =>
      match w.owed.find? fun x => x.1 == r with
      | none => .next s
      | some x =>
        let owed := w.owed.erase x
        let s := { s with wds := s.wds.map fun (y : Withdraw) => if y.id = id then { y with owed := owed } else y }
        if !owed.any (·.2 == x.2) && owed.any (·.1 == x.2) then .next (s.emit (.withdrawAck id x.2)) else .next (s.walkDone id)
  | _ => .next s

/-- SHOOTDOWN (R185): every ATC entry whose page overlaps the PA range. -/
def execShootdown (s : State) : Host.Outcome State Fault Refusal :=
  match s.ev with
  | some (.shootdown c id lo hi) =>
    .next ((s.modCore c fun k => { k with
      atc := k.atc.filter fun e => !meet (e.ppn.toNat * 4096) (pageSize e.psz) lo.toNat (hi.toNat - lo.toNat) }).emit (.shootdownAck c id))
  | _ => .next s

/-- SHOOTDOWN_ACK (R184): the holder bits of a core without a task of the space are cleared. -/
def execShootdownAck (s : State) : Host.Outcome State Fault Refusal :=
  match s.ev with
  | some (.shootdownAck c id) =>
    match s.wds.find? fun w => w.id == id with
    | none => .next s
    | some w =>
      let sids := (w.recs.filterMap fun r => (s.recAt r).map (·.sid)).eraseDups
      let bound (sid : Sid) : Bool := (s.core c).ents.any fun e => e.2.v && e.2.sid == sid
      let s := sids.foldl (fun (s : State) sid =>
        if bound sid then s else s.modSpace sid fun x => { x with hold := x.hold.filter (· != c.toNat) }) s
      let shoot := w.shoot.filter (· != c.toNat)
      let s := { s with wds := s.wds.map fun (x : Withdraw) => if x.id = id then { x with shoot := shoot } else x }
      .next (if shoot.isEmpty then s.emit (.recordRemoval id) else s)
  | _ => .next s

/-- Does step 3 of R185 hold for a withdrawal: nothing in flight through its records or their stubs, and, where it removes a record, no DET entry of its
range uncommitted (R441)? -/
def State.drained (s : State) (w : Withdraw) : Bool :=
  w.recs.all (fun r => match s.recAt r with
    | some d => d.infl == 0 && !(s.recs.any fun x => x.2.stub && x.2.par == r && x.2.infl != 0)
    | none => true) && (w.recs.isEmpty || !(s.qbuf.any fun e => meet w.lo (w.hi - w.lo) e.pa.toNat 1))

/-- May a withdrawal remove its records: no part of its UNMAP is still to begin, on its way or held for a kernel's walk, the walks and shootdowns of all of
them are over, and step 3 holds for every record (R189, R441)? -/
def State.removable (s : State) (w : Withdraw) : Bool :=
  let done (x : Withdraw) : Bool := x.owed.isEmpty && x.shoot.isEmpty && s.drained x
  match w.part with
  | none => done w
  | some (u, _) =>
    s.wds.all (fun x => x.part.map (·.1) != some u || done x) && !(s.net ++ s.slices.flatMap fun x => x.2.holdb.map (·.2.2)).any fun e => match e with
      | .unmapPart v _ => v == u
      | _ => false

/-- Remove a record with its stubs and unlink it, also from records that are on their way. -/
def State.removeRec (s : State) (r : RecRef) : State :=
  match s.recAt r with
  | none => s
  | some d =>
    let stubs := s.recs.filter fun x => x.2.stub && x.2.par == r
    let fix (x : DRec) : DRec := if x.stub then x else { x with
      chd := if x.chd = r then d.sib else x.chd, sib := if x.sib = r then d.sib else x.sib }
    let s := { s with
      recs := (s.recs.filter fun (x : Nat × DRec) => x.1 != r.toNat && !(x.2.stub && x.2.par == r)).map fun (x : Nat × DRec) => (x.1, fix x.2)
      net := s.net.map fun (e : Event) => match e with | .recordCreation z x y => Event.recordCreation z x (fix y) | e => e }
    ((s.modSpace d.sid fun x => { x with count := x.count - 1 - stubs.length })).countSlice (recSlice r) 69

/-- RECORD_REMOVAL (R185 steps 3 to 5, R441). -/
def execRecordRemoval (s : State) : Host.Outcome State Fault Refusal :=
  match s.ev with
  | some (.recordRemoval id) =>
    match s.wds.find? fun w => w.id == id with
    | none => .next s
    | some w =>
      if s.removable w then
        let s := w.recs.foldl (fun (s : State) r => s.removeRec r) s
        let s := { s with wds := s.wds.filter fun x => x.id != id }
        match w.part with
        | some (uid, sl) =>
          if s.wds.any fun x => x.part == w.part then .next s else .next (s.emit (.withdrawCompletionPost uid sl))
        | none => .next s
      else .next (s.emit (.recordRemoval id))
  | _ => .next s

/-- WITHDRAW_COMPLETION_POST (R388): with the last part the DECR is sent. -/
def execWithdrawCompletionPost (s : State) : Host.Outcome State Fault Refusal :=
  match s.ev with
  | some (.withdrawCompletionPost id sl) =>
    match s.unmaps.find? fun u => u.id == id with
    | none => .next s
    | some u =>
      let parts := u.parts.erase sl
      if parts.isEmpty then
        let s := { s with unmaps := s.unmaps.filter fun x => x.id != id }
        let d := u.req.dref
        .next (if d = BitVec.allOnes 32 then s
          else s.emit (.decrApply u.req.who.pid (d.extractLsb' 16 11) (d.extractLsb' 10 6) 1 none))
      else .next { s with unmaps := s.unmaps.map fun (x : Unmap) => if x.id = id then { x with parts := parts } else x }
  | _ => .next s

/-! ## SPQRY (R389) -/

def execSpqry (o : SpqryOp) (s : State) : Host.Outcome State Fault Refusal :=
  let sel : Word := match o.c with | .reg r => BitVec.ofNat 64 (field (s.g r) 0 3) | .imm v => v
  let ops : List GReg := match o.c with | .reg r => [o.b, r] | .imm _ => [o.b]
  let go := s.spaceHead o.a o.q ops (s.g o.b) fun b =>
    .spqryAtHome ⟨s.who, (s.g o.b).setWidth 56, sel.setWidth 1, some b, .held s.myIdx⟩
  match o.c with
  | .imm _ => go
  | .reg r =>
    if s.guardOn o.q ∧ (s.touchGuard o.q).isOk ∧ (s.touchG r).isOk ∧ 1 < sel.toNat then finish s (.error (.fault cIllegalOp 0 0)) else go

/-- The value of a query (R389). -/
def spqryValue (sel : BitVec 1) (d : DRec) : Nat :=
  if sel = 0 then
    d.psz.toNat * 2 ^ 53 + d.rts.toNat * 2 ^ 49 + (if d.det then 2 ^ 48 else 0) + d.key.toNat * 2 ^ 42 + (if d.loge then 2 ^ 41 else 0)
      + d.logr.toNat * 2 ^ 36 + d.dep.toNat * 2 ^ 32
  else recBase d

/-- SPQRY_AT_HOME (R389). -/
def execSpqryAtHome (s : State) : Host.Outcome State Fault Refusal :=
  match s.ev with
  | some (.spqryAtHome m) =>
    let home := s.home m.who.pid m.who.sid m.va.toNat
    let w : Word := match s.recFind home m.who.sid m.va.toNat with
      | none => BitVec.ofNat 64 (stNotmapped * 2 ^ 56)
      | some (_, d) => if d.wd then BitVec.ofNat 64 (stRevoked * 2 ^ 56) else BitVec.ofNat 64 (spqryValue m.sel d)
    .next (s.ownedOr home m.who.pid (fromCore m.who.core) 6 none (s.spaceReply m.who.core m.ret m.buoy home (.status w)))
  | _ => .next s

/-! ## Spaces (R175, R184) -/

/-- SID_ALLOCATION (R184): the service kernel makes or zeroes a descriptor; sid 0 is the root space. -/
def execSidAllocation (s : State) : Host.Outcome State Fault Refusal :=
  match s.ev with
  | some (.sidAllocation p sid create) =>
    if sid = 0 then .next s
    else if create then
      .next (if (Tab.find s.spaces sid.toNat).isSome then s else { s with spaces := Tab.set s.spaces sid.toNat ⟨p, 0, []⟩ })
    else .next { s with spaces := Tab.del s.spaces sid.toNat }
  | _ => .next s

/-! ## The answers of a service kernel (R189) -/

/-- The oldest access held with a record at an index of the ring: its number, its record and the access. -/
def State.heldWith (s : State) (sl : SliceId) (i : Byte) : Option (Nat × SfRec × Event) := (s.slice sl.toNat).holdb.find? fun x => x.1 % 256 == i.toNat

def State.unhold (s : State) (sl : SliceId) (n : Nat) : State := s.modSlice sl.toNat fun k => { k with holdb := Tab.del k.holdb n }

/-- An access that was held goes on before what came after it (R189, R229). -/
def State.putFirst (s : State) (e : Event) : State := { s with net := e :: s.net }

/-- SERVICE_RETRY (R189): the access is translated again; a walk is begun. -/
def execServiceRetry (s : State) : Host.Outcome State Fault Refusal :=
  match s.ev with
  | some (.serviceRetry sl i) =>
    match s.heldWith sl i with
    | some (n, _, .unmapPart id x) =>
      match s.unmaps.find? fun u => u.id == id with
      | some u => .next ((s.unhold sl n).unmapWalk id x u.req)
      | none => .next (s.unhold sl n)
    | some (n, _, e) => .next ((s.unhold sl n).putFirst e)
    | none => .next s
  | _ => .next s

/-- SERVICE_FAIL (R189): the fault that hardware mode would deliver. -/
def execServiceFail (s : State) : Host.Outcome State Fault Refusal :=
  match s.ev with
  | some (.serviceFail sl i) =>
    match s.heldWith sl i with
    | some (n, r, .translationMiss m) =>
      .next ((s.unhold sl n).spaceReply m.who.core m.ret m.buoy sl.toNat (.fault (if r.code = 0 then cNotMapped else r.code) m.fptr))
    | some (n, r, .lateRequestAtHome x) => .next ((s.unhold sl n).refuseLate sl.toNat x r.code)
    | _ => .next s
  | _ => .next s

/-- SERVICE_TRANSLATION_ANSWER (R189): the kernel answers a miss, as the record stands. -/
def execServiceTranslationAnswer (s : State) : Host.Outcome State Fault Refusal :=
  match s.ev with
  | some (.serviceTranslationAnswer sl i) =>
    match s.heldWith sl i with
    | some (n, _, .translationMiss m) => .next ((s.unhold sl n).pageDo sl.toNat m)
    | _ => .next s
  | _ => .next s

end Sys2Proof.Machine
end

