-- ==== Sys2Proof/Machine/Queues.lean ====
section
/-! DEFINITION. The work hierarchy: completion counter objects (R34, R36, R211 to R214), quantum closes and overflow (R206 to R208, R289, R396,
R447), launch queues and the control window (R37 to R41, R202, R203, R308, R309), placement (R164, R310), SPAWN and CANCEL at
their objects (R311, R312), DECR (R210, R307) and the arrival of channel packets (R28, R168, R169). -/

namespace Sys2Proof.Machine

/-! ## Objects (R211, R212) -/

/-- Is an object complete? -/
def Obj.over (o : Obj) : Bool := o.st == 1 || o.st == 2 || o.st == 3

def State.win (s : State) (p : Pid) : Window := Tab.get .reset s.wins p.toNat
def State.modWin (s : State) (p : Pid) (f : Window → Window) : State := { s with wins := Tab.set s.wins p.toNat (f (s.win p)) }

/-- The word that the host reads at an offset of a partition's control window (R41): the counts and the last answer of each queue, and the
creation status. The ports are written only, and every other place reads 0. -/
def State.windowWord (s : State) (p : Pid) (off : Nat) : Word :=
  let w := s.win p
  let q := off % 64 / 8
  if off / 64 = 8 then
    putField (putField (putField 0 32 32 (Tab.get 0 w.refused q).toNat) 16 16 (min 65535 (s.lq p q).out.length)) 0 7 (64 - (s.lq p q).msgs.length)
  else if off / 64 = 9 then putField (putField 0 56 8 (Tab.get 0 w.code q).toNat) 0 32 (Tab.get 0 w.ref q).toNat
  else if off / 8 = 104 then w.cstat
  else if off / 8 = 105 then w.answered.setWidth 64
  else 0

/-- The banks of a partition. -/
def State.partBanks (s : State) (p : Pid) : List Nat := (s.partSlices p).flatMap fun sl => (List.range 16).map (16 * sl + ·)

/-- The next phase of a job opens when one completes (R214). -/
def State.openPhase (s : State) (job : ObjRef) : State :=
  match (s.obj job).mems.find? fun m => let x := s.obj m; x.lvl == 2 && x.st == 5 with
  | some m => s.modObj m fun x => { x with st := 0 }
  | none => s

/-- An object completes (R212): st and time, the post to its parent, behind its start if that was never posted, and for a launch the DECR that
its message names; its queue has one launch fewer outstanding, and its parent's list one member fewer. -/
def State.objDone (s : State) (l : ObjRef) : State :=
  let o := s.obj l
  let ms : MStat := if o.st = 4 then .cancelled else if o.flt then .fault else .done
  let st : BitVec 3 := match ms with | .done => 1 | .fault => 2 | .cancelled => 3
  let s := s.modObj l fun o => { o with st := st, time := s.time, last := false }
  let s := if o.par = noObj then s
    else
      let s := if o.posted then s else (s.modObj l fun o => { o with posted := true }).emit (.memberStartPost o.par none)
      (s.modObj o.par fun x => { x with mems := x.mems.erase l }).emit (.completionPost o.par ms none)
  let s := if o.lvl = 2 then s.openPhase o.par else s
  let s := if o.lvl = 0 then
      let s := s.modLq o.pid o.queue.toNat fun q => { q with out := q.out.erase l }
      if o.dd = 0 then s else s.emit (.decrApply o.pid (o.dref.extractLsb' 16 11) (o.dref.extractLsb' 10 6) o.dd none)
    else s
  s.emit (.placement o.pid)

/-- The test after every update of an object: its completion, which at a launch begins with the final close, or the close of a launch's open
quantum (R212, R289). -/
def State.objTest (s : State) (l : ObjRef) : State :=
  let o := s.obj l
  if !o.v || o.over || o.cl || o.last then s
  else if o.fin = o.exp then
    if o.lvl = 0 then
      let banks := s.partBanks o.pid
      (s.modObj l fun o => { o with last := true, acks := banks.length }).emits
        (banks.map fun b => .closeAtBank (BitVec.ofNat 10 b) l (o.q.setWidth 2) true)
    else s.objDone l
  else if o.lvl = 0 ∧ 1 ≤ o.ncl ∧ o.ncl = o.run then
    let banks := s.partBanks o.pid
    (s.modObj l fun o => { o with cl := true, acks := banks.length }).emits
      (banks.map fun b => .closeAtBank (BitVec.ofNat 10 b) l (o.q.setWidth 2) false)
  else s

/-- QUANTUM_OVERFLOW of a launch when its running members all wait and one of them holds a marked request (R208): its uncommitted entries go,
and with them a close in progress. -/
def State.overTest (s : State) (l : ObjRef) : State :=
  let o := s.obj l
  if o.v && o.lvl == 0 && !o.over && decide (1 ≤ o.hm) && o.wait == o.run then
    let s := s.modObj l fun o => { o with cl := false, ncl := 0, nx := 0 }
    let other (e : Event) : Bool := match e with
      | .closeAtBank _ x _ false => x != l
      | .closeAck _ x false => x != l
      | _ => true
    let s := { s with
      qbuf := s.qbuf.filter fun e => e.lref != l
      net := s.net.filter other
      back := s.back.filter other
      fills := s.fills.map fun (x : Nat × List Event) => (x.1, x.2.filter other)
      invw := s.invw.map fun (w : InvWait) => { w with reqs := w.reqs.filter other } }
    s.emits ((s.partCores o.pid).map fun c => .quantumOverflowNotice (BitVec.ofNat 11 c) l o.q)
  else s

/-- MEMBER_START_POST (R212): the first start is posted on to the parent. -/
def execMemberStartPost (s : State) : Host.Outcome State Fault Refusal :=
  match s.ev with
  | some (.memberStartPost l _) =>
    let o := s.obj l
    if !o.v then .next s
    else
      let t := s.modObj l fun o => { o with run := o.run + 1 }
      let t := if o.posted then t
        else
          let t := t.modObj l fun o => { o with posted := true }
          if o.par = noObj then t else t.emit (.memberStartPost o.par none)
      .next (t.objTest l)
  | _ => .next s

/-- The bank pipeline's answer to a core's TASK packet, counted and marked as a bank's (R219, R224). -/
def State.taskReply (s : State) (c : CoreId) (ret : Ret) (buoy : Option Step) (l : ObjRef) (b : RepBody) : State :=
  let bank := l.toNat / 2 ^ 22
  let m := s.marked bank
  (s.countBank (bank / 16) m).emit (.memrepReceive ⟨c, ret, b, buoy, m⟩)

/-- COMPLETION_POST (R212): one too many is reported and changes nothing. -/
def execCompletionPost (s : State) : Host.Outcome State Fault Refusal :=
  match s.ev with
  | some (.completionPost l st src) =>
    let o := s.obj l
    let p : Pid := match src with | some x => (s.core x.1).part | none => o.pid
    .next (s.ownedOr (objSlice l) p (match src with | some x => fromCore x.1 | none => (true, objSlice l)) 2 none (
      let s := match src with | some x => s.taskReply x.1 .step (some x.2) l .ok | none => s
      if !o.v || o.over || decide (o.exp ≤ o.fin) then s.sysRec p [15, l.setWidth 64]
      else
        let s := s.modObj l fun o => { o with run := o.run - 1, fin := o.fin + 1, flt := o.flt || st == .fault }
        (s.objTest l).overTest l))
  | _ => .next s

/-- FAULT_MARK (R447). -/
def execFaultMark (s : State) : Host.Outcome State Fault Refusal :=
  match s.ev with
  | some (.faultMark l) => .next (if (s.obj l).v then s.modObj l fun o => { o with flt := true } else s)
  | _ => .next s

/-- A count that goes up or down by one, or stays. -/
def stepCount (n : Nat) : Option Bool → Nat
  | some true => n + 1
  | some false => n - 1
  | none => n

/-- WAITING_REPORT (R208): both changes, and then one test. -/
def execWaitingReport (s : State) : Host.Outcome State Fault Refusal :=
  match s.ev with
  | some (.waitingReport _ l w m) =>
    if !(s.obj l).v then .next s
    else .next ((s.modObj l fun o => { o with wait := stepCount o.wait w, hm := stepCount o.hm m }).overTest l)
  | _ => .next s

/-! ## Quantum closes (R206, R289) -/

/-- CLOSE_REPORT (R289). -/
def execCloseReport (s : State) : Host.Outcome State Fault Refusal :=
  match s.ev with
  | some (.closeReport _ l) =>
    if !(s.obj l).v then .next s
    else .next ((s.modObj l fun o => if o.cl then { o with nx := o.nx + 1 } else { o with ncl := o.ncl + 1 }).objTest l)
  | _ => .next s

/-- What the next commit of a close waits for, as any write does: what is ahead at its line, the grant of a host's line, the invalidation of copies (R150,
R229, R415), the end of a move of its frame (R416). None when it can be made now. -/
def State.commitWaits (s : State) (e : QEnt) (ev : Event) : Option State :=
  if s.paBad e.pa.toNat || s.isLost e.pa.toNat || !s.keyOk e.key e.pid then none
  else match s.bankFacts ev with
    | none => none
    | some f =>
      let ln := s.lineFor f
      let grant := if s.torn e.pid (64 * ln) then s.closeFails cPaFault ev else s.awaitFill f true ev
      if s.moves e.pid e.pa.toNat then some (s.goOn [ev])
      else match s.queueAt f ev with
      | some t => some t
      | none => match s.cached (s.placeFor f) with
        | some l =>
          if paRegion (64 * ln) = 4 && !l.excl then some grant
          else if l.shar != 0 then some (s.invalidate e.pid l ev)
          else none
        | none => if paRegion (64 * ln) = 4 then some grant else none

/-- Commit entries in their order, until one has to wait; true when none had to. -/
def State.commitAll (s : State) (ev : Event) : List QEnt → Bool × State
  | [] => (true, s)
  | e :: rest =>
    match s.commitWaits e ev with
    | some t => (false, t)
    | none => (({ s with qbuf := s.qbuf.erase e } : State).commit e).commitAll ev rest

/-- Is a request one of a launch's that a DET page keeps for a quantum, or for any? -/
def State.detReq (s : State) (l : ObjRef) (q : BitVec 2) (last : Bool) (r : MemReq) : Bool :=
  r.who.lref == l && (last || r.q == q) && isDetOp r.op
    && (r.det || (match s.recFind (s.home r.who.pid r.who.sid (ptrVa r.fptr)) r.who.sid (ptrVa r.fptr) with | some x => x.2.det | none => false))

/-- Has a terminated task a VST or an MXST that has still to send or to hear of a request which no bank has refused? -/
def Core.storesLeft (k : Core) (h : Hidx) : Bool :=
  let refused := k.emark.countP fun r => r.who.hidx == h
  k.vxq.any (fun x => x.hidx == h && (match x.i with | .vst _ => true | _ => false) && (!x.started || !x.reqs.isEmpty || decide (refused < x.owed)))
    || k.mxq.any fun x => x.hidx == h && (match x.i with | .mxst _ | .mxstSat _ => true | _ => false)
      && (!x.started || !x.reqs.isEmpty || decide (refused < x.owed))

/-- Is a DET request of a launch still to be entered for a quantum (R206)? A member that waits for a close has none; one that has been terminated may. -/
def State.detComing (s : State) (l : ObjRef) (q : BitVec 2) (last : Bool) : Bool :=
  s.cores.any fun k => k.2.srb.any (fun x => !x.marked && s.detReq l q last x.req) || k.2.late.any (fun x => x.any (s.detReq l q last))
    || k.2.ents.any fun e => e.2.v && e.2.st == 5 && e.2.lref == l && k.2.storesLeft (BitVec.ofNat 6 e.1)

/-- Is one refused, and marked for resend? -/
def State.detMarked (s : State) (l : ObjRef) (q : BitVec 2) (last : Bool) : Bool :=
  s.cores.any fun k => k.2.srb.any (fun x => x.marked && s.detReq l q last x.req) || k.2.emark.any (s.detReq l q last)

/-- CLOSE_AT_BANK (R206, R207): the quantum's entries are committed, at the launch's end quantum by quantum from its open one; then the cores
that the bank refused hear of room. While a terminated member's request is marked for resend the close goes on, so that it makes the room (log 60). -/
def execCloseAtBank (s : State) : Host.Outcome State Fault Refusal :=
  match s.ev with
  | some (.closeAtBank bank l q last) =>
    match s.commitAll (.closeAtBank bank l q last) (s.closing bank l q last) with
    | (false, t) => .next t
    | (true, t) =>
      let cores := ((t.refused.filter fun x => x.1 == bank.toNat).map (·.2)).eraseDups
      let t := { t with refused := t.refused.filter fun x => x.1 != bank.toNat }
      let t := t.emits (cores.map fun c => .roomNotice (BitVec.ofNat 11 c) bank)
      .next (t.emit (if t.detMarked l q last then .closeAtBank bank l q last else .closeAck bank l last))
  | _ => .next s

/-- CLOSE_ACK (R289). -/
def execCloseAck (s : State) : Host.Outcome State Fault Refusal :=
  match s.ev with
  | some (.closeAck _ l last) =>
    let o := s.obj l
    if o.acks = 0 ∨ (last ∧ ¬o.last) ∨ (¬last ∧ ¬o.cl) then .next s
    else
      let t := s.modObj l fun o => { o with acks := o.acks - 1 }
      if 1 < o.acks then .next t
      else if last then .next (t.objDone l)
      else
        let t := t.modObj l fun o => { o with q := o.q + 1, ncl := o.nx, nx := 0, cl := false }
        let t := t.emits ((t.partCores o.pid).map fun c => .closeNotice (BitVec.ofNat 11 c) l o.q)
        .next (t.objTest l)
  | _ => .next s

/-- CLOSE_NOTICE (R137, R288 to R290). -/
def execCloseNotice (s : State) : Host.Outcome State Fault Refusal :=
  match s.ev with
  | some (.closeNotice c l q) =>
    .next (allIdx.foldl (fun (s : State) h =>
      let e := s.ent c h
      if e.v && e.lref == l then
        let s := s.modEnt c h fun e =>
          { e with qnum := q + 1, bar := { e.bar with qd := e.bar.qd || e.bar.qn == q.setWidth 2 } }
        let k := s.core c
        let s := match k.run, k.hold with
          | some r, some ⟨2, [x], _⟩ => if r = h ∧ x = q.setWidth 64 then s.answer c h .ok else s
          | _, _ => s
        s.barCheck c h
      else s) s)
  | _ => .next s

/-! ## QUANTUM_OVERFLOW at the members (R208, R396) -/

/-- Deliver it to a member at once: its waits end, and it resumes at the PC that it has reached. -/
def State.overflowAt (s : State) (c : CoreId) (h : Hidx) (q : BitVec 32) : State :=
  let k := s.core c
  let pc : VA := if k.run = some h then k.pc else (s.ws c (k.ent h).wpb 0).setWidth 56
  (s.modEnt c h fun e => { e with qover := none }).deliver c h cQuantum false 0 (BitVec.ofNat 32 q.toNat) 0 pc 0

/-- Does a member take the fault at once: parked, asleep, or stalled in a wait of R208? -/
def Entry.overNow (e : Entry) : Bool := e.st == 2 || e.st == 3 || (e.st == 0 && e.wait.1)

/-- One member, with its gang when it leads one (R400). -/
def State.overflowMember (s : State) (c : CoreId) (h : Hidx) (q : BitVec 32) : State :=
  let e := s.ent c h
  let l := if e.ganged then s.gangMembers c h else [(0, c, h)]
  if e.ganged && e.g then s
  else
    let now := e.overNow
    l.foldl (fun (s : State) m =>
      let s := s.modEnt m.2.1 m.2.2 fun e => { e with bar := { e.bar with bw := false }, copy := { e.copy with cw := false } }
      if now then s.overflowAt m.2.1 m.2.2 q else s.modEnt m.2.1 m.2.2 fun e => { e with qover := some q }) s

/-- QUANTUM_OVERFLOW_NOTICE (R208, R396): the members take the fault, and then the launch's marked requests go, each as though answered. -/
def execQuantumOverflowNotice (s : State) : Host.Outcome State Fault Refusal :=
  match s.ev with
  | some (.quantumOverflowNotice c l q) =>
    let k := s.core c
    let hs := allIdx.filter fun h => let e := k.ent h; e.v && e.lref == l && e.st != 5 && e.st != 6
    let t := hs.foldl (fun (s : State) h => s.overflowMember c h q) s
    let reqs := ((k.srb.filter fun x => x.marked && x.req.who.lref == l).map (·.req)) ++ k.emark.filter fun r => r.who.lref == l
    let t := t.modCore c fun k => { k with
      srb := k.srb.map fun x => if x.req.who.lref = l then { x with marked := false } else x
      emark := k.emark.filter fun r => r.who.lref != l }
    let t := t.emits (reqs.map fun r => .memrepReceive ⟨c, r.ret, .ok, r.buoy, false⟩)
    let t := hs.foldl (fun (t : State) h => t.refreshWait c h) t
    .next ((reqs.foldl (fun (t : State) r => t.refreshHolder c r) t).afterReply c)
  | _ => .next s

/-! ## Placement (R202, R310) -/

def Core.freeEntry (k : Core) : Option Hidx := allIdx.find? fun h => !(k.ent h).v

def Core.blockUsed (k : Core) (b : Nat) : Bool := k.ents.any fun x => x.2.v && decide (x.2.wpb.toNat ≤ b) && decide (b < x.2.wpb.toNat + x.2.nblk)

/-- The lowest free run of usable blocks. -/
def Core.freeRun (k : Core) (n : Nat) : Option Nat :=
  (List.range (k.sblk.toNat + 1 - n)).find? fun b => (List.range n).all fun i => !k.blockUsed (b + i)

/-- The entry and the blocks that a core has for a task of `n` blocks. -/
def State.roomAt (s : State) (c n : Nat) : Option (Hidx × Nat) :=
  let k := s.core (BitVec.ofNat 11 c)
  if !k.avail then none
  else match k.freeEntry, k.freeRun n with
    | some h, some b => some (h, b)
    | _, _ => none

def msgBlocks (m : Line) : Nat := field (lineWord m 1) 41 7 + 1
def msgTasks (m : Line) : Nat := field (lineWord m 1) 48 16
def msgAny (m : Line) : Bool := bit (lineWord m 1) 37

/-- Place a task in an entry (R164, R209): waiting for its counter, or, without one, installed as soon as its bindings are read. -/
def State.placeTask (s : State) (c : CoreId) (h : Hidx) (b : Nat) (m : Line) (l : ObjRef) (tix : Nat) (sid : Sid) (priv : Bool) (g43 : Word) : State :=
  let w1 := lineWord m 1
  let dep := bit w1 32
  let prio : BitVec 3 := BitVec.ofNat 3 (field w1 38 3)
  let s := s.modEnt c h fun _ => { Entry.reset with
    v := true, st := 6, eff := prio, base := prio, wpb := BitVec.ofNat 7 b, nblk := msgBlocks m
    trg := if dep then 2 else 0, dco := if dep then BitVec.ofNat 16 (512 * b + 1) else 0
    lref := l, tix := BitVec.ofNat 16 tix, sid := sid, zero := !dep, fvec := (lineWord m 0).setWidth 56
    inst := ⟨(lineWord m 0).setWidth 56, lineWord m 6, lineWord m 7, g43, putField (lineWord m 3) 63 1 0, priv, bit (lineWord m 4) 30⟩ }
  if dep then s.setWs c (BitVec.ofNat 7 b) 8 (BitVec.ofNat 64 (field w1 0 32)) else s.startAt c h

/-- GEOM word 43 (R128). -/
def geom43 (gx gy cx cy tm tn : Nat) : Word :=
  BitVec.ofNat 64 (gx * 2 ^ 52 + gy * 2 ^ 40 + cx * 2 ^ 28 + cy * 2 ^ 16 + tm * 2 ^ 8 + tn)

/-- The place of task `i` of a message in its grid (R310). -/
def msgGeom (m : Line) (i : Nat) : Word :=
  let w2 := lineWord m 2
  let w := field w2 47 6 + 1 - field w2 58 6
  let h := field w2 42 5 + 1 - field w2 53 5
  if msgAny m then geom43 (msgTasks m) 1 i 0 (field w2 22 8) (field w2 14 8)
  else geom43 w h (i % (w * h) % w) (i % (w * h) / w) (field w2 22 8) (field w2 14 8)

/-- The core of task `i` of a rectangle launch. -/
def msgCore (m : Line) (i : Nat) : Nat :=
  let w2 := lineWord m 2
  let w := field w2 47 6 + 1 - field w2 58 6
  let h := field w2 42 5 + 1 - field w2 53 5
  field w2 58 6 + i % (w * h) % w + 64 * (field w2 53 5 + i % (w * h) / w)

/-- The first core with room, from the core after the last one used. -/
def State.anyCore (s : State) (p : Pid) (n : Nat) : Option Nat :=
  let l := s.partCores p
  let last := (s.win p).lastAny.getD (l.getLast?.getD 0)
  ((l.filter fun c => decide (last < c)) ++ l.filter fun c => decide (c ≤ last)).find? fun c => (s.roomAt c n).isSome

/-- A core of the service kernel's choice (R310). -/
def State.kernelCore (s : State) (p : Pid) (n : Nat) : Option Nat :=
  let l := (s.partCores p).filter fun c => (s.roomAt c n).isSome
  l[Config.placeChoice s.free % l.length]?

/-- Does an object, or one above it, keep its tasks from placement (R213, R214)? -/
def State.heldBack (s : State) : Nat → ObjRef → Bool
  | 0, _ => false
  | n + 1, l =>
    if l = noObj then false
    else
      let o := s.obj l
      o.st == 4 || (o.lvl == 2 && o.st == 5) || s.heldBack n o.par

/-- Place the next task of a queue's head launch, if it can be placed now (R39, R202): a task that would start at once waits for the tasks ahead of it
in the queue to start (R38). -/
def State.placeNext (s : State) (p : Pid) (q : Nat) : Option State :=
  match (s.lq p q).msgs with
  | [] => none
  | m :: rest =>
    if (s.slice (s.queueHome p q)).reload || s.heldBack 4 m.obj || (s.obj m.obj).over || (bit (lineWord m.msg 1) 36 && m.next == 0 && !(s.lq p q).out.isEmpty)
        || (!bit (lineWord m.msg 1) 32 && !(s.lq p q).due.isEmpty) then none
    else
      let n := msgBlocks m.msg
      let target := if s.mode p 4 then s.kernelCore p n else if msgAny m.msg then s.anyCore p n else some (msgCore m.msg m.next)
      match target with
      | none => none
      | some c =>
        match s.roomAt c n with
        | none => none
        | some (h, b) =>
          let s := if s.mode p 4 then { s with free := s.free + 1 } else s
          let s := if bit (lineWord m.msg 1) 32 || bit (lineWord m.msg 4) 30 then s.modLq p q fun x => { x with due := x.due ++ [(c, h)] } else s
          let s := s.modLq p q fun x => if m.next + 1 = msgTasks m.msg then { x with msgs := rest, out := x.out ++ [m.obj] }
            else { x with msgs := { m with next := m.next + 1 } :: rest }
          let s := s.modWin p fun w => { w with
            lastAny := if msgAny m.msg then some c else w.lastAny
            turn := if m.next + 1 = msgTasks m.msg then (q + 1) % 8 else q }
          some ((s.placeTask (BitVec.ofNat 11 c) h b m.msg m.obj m.next m.sid (bit (lineWord m.msg 4) 31) (msgGeom m.msg m.next)).emit (.placement p))

/-- PLACEMENT (R39, R310): the queues in their turn, one launch at a time; a launch that cannot go on is passed over. -/
def execPlacement (s : State) : Host.Outcome State Fault Refusal :=
  match s.ev with
  | some (.placement p) => .next (((List.range 8).findSome? fun i => s.placeNext p (((s.win p).turn + i) % 8)).getD s)
  | _ => .next s

/-! ## Launch messages (R308, R309) -/

/-- Is a rectangle well-formed and inside the partition? -/
def State.rectOk (s : State) (p : Pid) (r : Rect) : Bool :=
  decide (r.x0.toNat ≤ r.x1.toNat) && decide (r.y0.toNat ≤ r.y1.toNat)
    && ((List.range 2048).filter fun c => rectHas r c).all fun c => s.inPart p c

/-- The checks of R308 that answer BADMSG; `priv` says that the issuer may make privileged tasks. -/
def State.msgBad (s : State) (p : Pid) (m : Line) (priv : Bool) : Bool :=
  let w1 := lineWord m 1
  let w2 := lineWord m 2
  let n := msgTasks m
  field (lineWord m 0) 56 8 != 0 || field w2 0 14 != 0 || bit (lineWord m 3) 63 || field (lineWord m 4) 0 30 != 0
    || n == 0 || (msgAny m && decide (2048 < n)) || (msgAny m && field w2 42 22 != 0) || (!msgAny m && !s.rectOk p (rectOf w2))
    || bit w1 32 != (field w1 0 32 != 0) || (bit (lineWord m 4) 31 && !priv)

/-- Does a reference name a granule of the object area of its bank (R211)? -/
def inArea (r : ObjRef) : Bool := decide (r.toNat % 2 ^ 22 ≤ (Config.objectArea (r.toNat / 2 ^ 22)).toNat)

/-- The first free object of a slice from a place on, in the order of places with wrap. -/
def State.freeObj (s : State) (sl : Nat) : Nat → Nat → Option ObjRef
  | 0, _ => none
  | n + 1, p =>
    let r : ObjRef := BitVec.ofNat 32 (sl * 2 ^ 26 + p % 2 ^ 26)
    if (s.obj r).v || r == noObj || !inArea r then s.freeObj sl n (p + 1) else some r

/-- The place of a new object in a slice (R309, R214), or none when no object is free. -/
def State.newObj (s : State) (sl : Nat) : Option ObjRef := s.freeObj sl (2 ^ 26) (Config.objectPlace s.names).toNat

/-- The answer to a launch message (R41, R203): a reply to its core, marked by the bank that holds the queue (R219), the window's fields for the host, or
a SYS record to the service core that launched. -/
def State.launchAnswer (s : State) (m : LaunchReq) (code : Nat) (l : ObjRef) : State :=
  let status := statusWord code (if code = 0 then l.toNat else 0)
  match m.issuer with
  | .host _ =>
    let q := m.queue.toNat
    let s := if code = 1 ∨ code = 8 then s.sysRec m.pid [16, m.queue.setWidth 64] else s
    s.modWin m.pid fun w => if code = 0 then { w with ref := Tab.set w.ref q l }
      else { w with refused := Tab.set w.refused q (Tab.get 0 w.refused q + 1), code := Tab.set w.code q (BitVec.ofNat 8 code) }
  | .service sl => s.sysAt sl.toNat [25, status]
  | .core =>
    let bank := 16 * s.queueHome m.pid m.queue.toNat + m.queue.toNat
    let mk := s.marked bank
    (s.countBank (bank / 16) mk).emit (.memrepReceive ⟨m.core, .held m.hidx, .status status, m.buoy, mk⟩)

/-- Where a launch message comes from, as its queue's home sees it. -/
def launchSource (m : LaunchReq) : Bool × Nat :=
  match m.issuer with
  | .core => fromCore m.core
  | .host h => (true, 1000 + h.toNat)
  | .service sl => (true, sl.toNat)

/-- LAUNCH_MESSAGE_AT_HOME (R203, R308, R309). -/
def execLaunchMessageAtHome (s : State) : Host.Outcome State Fault Refusal :=
  match s.ev with
  | some (.launchMessageAtHome m) =>
    let p := m.pid
    let q := m.queue.toNat
    let home := s.queueHome p q
    let sidf : Sid := BitVec.ofNat 12 (field (lineWord m.msg 2) 30 12)
    let parf : ObjRef := BitVec.ofNat 32 (field (lineWord m.msg 4) 32 32)
    let par := if parf = noObj then (s.obj m.par).par else parf
    let o := s.obj par
    let host : Bool := match m.issuer with | .core => false | _ => true
    .next (s.ownedOr home p (launchSource m) 2 (some 8) (
      if s.scrubbing p then s.launchAnswer m 8 0
      else if s.msgBad p m.msg (host || m.priv) || (host && (sidf == 0 || parf == noObj)) then s.launchAnswer m stBadmsg 0
      else if sidf ≠ 0 ∧ (s.spacePart sidf ≠ some p ∨ (!host && !m.priv && sidf != m.sid) = true) then s.launchAnswer m stBadsid 0
      else if !(o.v && par != noObj && o.lvl == 1 && o.pid == p && o.st == 0) then s.launchAnswer m stBadref 0
      else if 64 ≤ (s.lq p q).msgs.length then s.launchAnswer m 1 0
      else match s.newObj home with
        | none => ({ s with names := s.names + 1 }).launchAnswer m stNospace 0
        | some l =>
          let w5 := lineWord m.msg 5
          let s := { s with names := s.names + 1 }.modObj l fun _ => { Obj.reset with
            v := true, pid := p, exp := msgTasks m.msg, par := par, dref := BitVec.ofNat 32 (field w5 0 32)
            dd := BitVec.ofNat 32 (field w5 32 32), queue := m.queue }
          let s := s.modObj par fun o => { o with mems := o.mems ++ [l] }
          let s := s.modLq p q fun x => { x with msgs := x.msgs ++ [⟨m.msg, l, if sidf = 0 then m.sid else sidf, 0⟩] }
          ((s.sysRec p [12, l.setWidth 64, par.setWidth 64]).launchAnswer m 0 l).emit (.placement p)))
  | _ => .next s

/-- The error completion of a write to a window's port that is not one aligned line goes out on the host link (R40). -/
def State.hostError (s : State) (ev : Event) : State := { s with out := s.out ++ [ev] }

/-- Does a write to a partition's window reach it (R418): through physical function 0, or through the partition's function in RUN? -/
def State.windowOpen (s : State) (h : BitVec 1) (pf : Bool) (p : Pid) : Bool := pf || (Tab.get Fn.reset s.fns (32 * h.toNat + p.toNat + 1)).st == 2

/-- A write that does not reach its partition: a function in ERROR answers with completer abort (R418, R420). -/
def State.windowShut (s : State) (h : BitVec 1) (p : Pid) : State :=
  if (Tab.get Fn.reset s.fns (32 * h.toNat + p.toNat + 1)).st = 3 then { s with out := s.out ++ [.completerAbort ⟨h, BitVec.ofNat 5 (p.toNat + 1)⟩] } else s

/-- HOST_LAUNCH_WRITE (R40, R41). -/
def execHostLaunchWrite (s : State) : Host.Outcome State Fault Refusal :=
  match s.ev with
  | some (.hostLaunchWrite h pf p q whole m) =>
    let r : LaunchReq := ⟨p, q, m, 0, noObj, true, .host h, 0, 0, none⟩
    if !s.windowOpen h pf p then .next (s.windowShut h p)
    else if !whole then .next ((s.launchAnswer r stBadmsg 0).hostError (.hostLaunchWrite h pf p q whole m))
    else if field (lineWord m 1) 33 3 ≠ q.toNat then .next (s.launchAnswer r stBadmsg 0)
    else .next (s.emit (.launchMessageAtHome r))
  | _ => .next s

/-! ## Objects above launch level (R214) -/

/-- Make a graph, phase or job object: its code and reference. -/
def State.makeObj (s : State) (p : Pid) (lvl : BitVec 2) (exp : BitVec 32) (par : ObjRef) : Nat × ObjRef × State :=
  let o := s.obj par
  if lvl = 0 ∨ exp = 0 ∨ (lvl = 3 ∧ par ≠ noObj) then (stBadmsg, 0, s)
  else if lvl ≠ 3 ∧ ¬(o.v ∧ par ≠ noObj ∧ o.pid = p ∧ o.lvl = lvl + 1 ∧ (o.st = 0 ∨ o.st = 5)) then (stBadref, 0, s)
  else
    let t := { s with names := s.names + 1 }
    match s.newObj (s.kernel p) with
    | none => (stNospace, 0, t)
    | some l =>
      let waits : Bool := lvl == 2 && o.mems.any fun m => (s.obj m).lvl == 2 && !(s.obj m).over
      let t := t.modObj l fun _ => { Obj.reset with v := true, lvl := lvl, pid := p, exp := exp.toNat, par := par, st := if waits then 5 else 0 }
      (stOk, l, if lvl = 3 then t else t.modObj par fun o => { o with mems := o.mems ++ [l] })

/-- HOST_CREATION_WRITE (R41, R214). -/
def execHostCreationWrite (s : State) : Host.Outcome State Fault Refusal :=
  match s.ev with
  | some (.hostCreationWrite h pf p whole m) =>
    if !s.windowOpen h pf p then .next (s.windowShut h p)
    else if !whole then .next (s.hostError (.hostCreationWrite h pf p whole m))
    else
      let w0 := lineWord m 0
      let w1 := lineWord m 1
      let bad : Bool := field w0 32 30 != 0 || field w1 0 32 != 0 || (List.range 6).any fun i => lineWord m (2 + i) != 0
      let (code, l, t) := if bad then (stBadmsg, 0, s)
        else s.makeObj p (BitVec.ofNat 2 (field w0 62 2)) (BitVec.ofNat 32 (field w0 0 32)) (BitVec.ofNat 32 (field w1 32 32))
      .next (t.modWin p fun w => { w with cstat := BitVec.ofNat 64 (code * 2 ^ 56 + l.toNat), answered := w.answered + 1 })
  | _ => .next s

/-- KERNEL_OBJECT_CREATION (R214). -/
def execKernelObjectCreation (s : State) : Host.Outcome State Fault Refusal :=
  match s.ev with
  | some (.kernelObjectCreation p lvl exp par) => .next (s.makeObj p lvl exp par).2.2
  | _ => .next s

/-! ## SPAWN (R311) -/

/-- The checks of a SPAWN message. -/
def State.spawnBad (s : State) (p : Pid) (m : Line) (priv : Bool) : Bool :=
  let w1 := lineWord m 1
  let w2 := lineWord m 2
  let r := rectOf w2
  s.msgBad p m priv || msgTasks m != 1 || msgAny m || r.x0 != r.x1 || r.y0 != r.y1 || field w1 33 3 != 0 || bit w1 36
    || field (lineWord m 4) 32 32 != 0xFFFFFFFF || field w2 30 12 != 0

/-- SPAWN_MEMBER_ADD (R311): the answer carries exp before the add. A member that a cancelled launch gains counts as complete at once, for it never
starts (R213). -/
def execSpawnMemberAdd (s : State) : Host.Outcome State Fault Refusal :=
  match s.ev with
  | some (.spawnMemberAdd m) =>
    let l := m.who.lref
    let o := s.obj l
    let rep (s : State) (code value : Nat) : State := s.taskReply m.who.core (.held m.who.hidx) m.buoy l (.status (statusWord code value))
    .next (s.ownedOr (objSlice l) m.who.pid (fromCore m.who.core) 2 (some 8) (
      if s.spawnBad m.who.pid m.msg m.priv then rep s stBadmsg 0
      else if 2 ^ 32 - 1 ≤ o.exp then rep s stNospace 0
      else rep (s.modObj l fun o => { o with exp := o.exp + 1, fin := if o.st = 4 then o.fin + 1 else o.fin }) 0 o.exp))
  | _ => .next s

/-- SPAWN_PLACE (R311): the named core takes the task at once or not at all; under a cancelled level it takes none (R36, R213). -/
def execSpawnPlace (s : State) : Host.Outcome State Fault Refusal :=
  match s.ev with
  | some (.spawnPlace m) =>
    let c : CoreId := BitVec.ofNat 11 (msgCore m.msg 0)
    let rep (s : State) (code value : Nat) : State :=
      s.emit (.memrepReceive ⟨m.who.core, .held m.who.hidx, .status (statusWord code value), none, false⟩)
    if (s.core c).part ≠ m.who.pid then .next (s.stray (s.kernel (s.core c).part) m.who.pid (fromCore m.who.core) (false, c.toNat) 2 (some 8))
    else match (if s.heldBack 4 m.who.lref then none else s.roomAt c.toNat (msgBlocks m.msg)) with
      | none => .next (rep s 5 0)
      | some (h, b) =>
        .next (rep (s.placeTask c h b m.msg m.who.lref m.tix.toNat m.who.sid m.priv (msgGeom m.msg 0)) 0 (c.toNat * 2 ^ 16 + h.toNat * 2 ^ 10))
  | _ => .next s

/-- SPAWN_MEMBER_REMOVE (R311). A member of a cancelled launch had counted as complete (R213). -/
def execSpawnMemberRemove (s : State) : Host.Outcome State Fault Refusal :=
  match s.ev with
  | some (.spawnMemberRemove m) =>
    let l := m.who.lref
    .next (s.ownedOr (objSlice l) m.who.pid (fromCore m.who.core) 2 none
      (((s.modObj l fun o => { o with exp := o.exp - 1, fin := if o.st = 4 then o.fin - 1 else o.fin }).taskReply m.who.core .step m.buoy l .ok).objTest l))
  | _ => .next s

/-! ## CANCEL (R36, R213, R312) -/

/-- A launch leaves its queue without being placed further; it stays outstanding until it completes (R39, R203). -/
def State.unqueue (s : State) (l : ObjRef) : State :=
  let o := s.obj l
  if (s.lq o.pid o.queue.toNat).msgs.any fun m => m.obj == l then
    s.modLq o.pid o.queue.toNat fun q => { q with msgs := q.msgs.filter fun m => m.obj != l, out := q.out ++ [l] }
  else s

/-- Starts posted to an object, and completions posted by its member objects, that have not arrived. -/
def State.startsDue (s : State) (l : ObjRef) : Nat := s.net.countP fun e => match e with | .memberStartPost x _ => x == l | _ => false
def State.postsDue (s : State) (l : ObjRef) : Nat := s.net.countP fun e => match e with | .completionPost x _ none => x == l | _ => false

/-- CANCEL of an object at st 0 or 5 (R213): members never started are complete at once; started tasks are terminated, listed objects are
cancelled by the kernel's walk. -/
def State.cancelObj (s : State) (l : ObjRef) : State :=
  let o := s.obj l
  let s := s.modObj l fun o => { o with st := 4 }
  if o.lvl = 0 then
    let s := (s.unqueue l).modObj l fun o => { o with fin := o.fin + (o.exp - o.fin - o.run - s.startsDue l) }
    (((s.emits ((s.partCores o.pid).map fun c => .terminationNotice (BitVec.ofNat 11 c) l)).emit (.placement o.pid)).objTest l).overTest l
  else
    let s := s.modObj l fun o => { o with fin := o.fin + (o.exp - o.fin - o.mems.length - s.postsDue l) }
    ((s.sysRec o.pid [18, l.setWidth 64]).emit (.cancelWalk l)).objTest l

/-- The number of a level (R211). -/
def levelNo : Level → BitVec 2
  | .launch => 0
  | .graph => 1
  | .phase => 2
  | .job => 3

/-- CANCEL_AT_OBJECT (R36, R213, R312). An object whose last post is applied is complete for CANCEL though its final close still runs (R36). -/
def execCancelAtObject (s : State) : Host.Outcome State Fault Refusal :=
  match s.ev with
  | some (.cancelAtObject m) =>
    let o := s.obj m.ref
    let rep (s : State) (code : Nat) : State :=
      if m.reply then s.taskReply m.core (.held m.hidx) m.buoy m.ref (.status (statusWord code 0)) else s
    .next (s.ownedOr (objSlice m.ref) m.pid (if m.reply then fromCore m.core else (true, s.kernel m.pid)) 2 none (
      if !o.v || o.pid != m.pid || (match m.lvl with | some x => levelNo x != o.lvl | none => false) then rep s stBadref
      else if o.over || (o.last && o.st != 4) then rep s 6
      else if o.st = 4 then rep s stOk
      else (rep s stOk).cancelObj m.ref))
  | _ => .next s

/-- Is an object in the subtree of another? -/
def State.inSubtree (s : State) (top : ObjRef) : Nat → ObjRef → Bool
  | 0, _ => false
  | n + 1, l => l == top || (l != noObj && s.inSubtree top n (s.obj l).par)

/-- CANCEL_WALK (R213): the kernel cancels the members in list order and removes the subtree's messages from the queues. -/
def execCancelWalk (s : State) : Host.Outcome State Fault Refusal :=
  match s.ev with
  | some (.cancelWalk l) =>
    let o := s.obj l
    let queued := (List.range 8).flatMap fun q => ((s.lq o.pid q).msgs.map (·.obj)).filter fun x => s.inSubtree l 4 x
    let t := queued.foldl (fun (s : State) x => s.unqueue x) s
    .next ((t.emits (o.mems.map fun x => .cancelAtObject ⟨o.pid, none, x, 0, 0, none, false⟩)).emit (.placement o.pid))
  | _ => .next s

/-- TERMINATION_NOTICE (R36, R165, R213): a running task ends at its next line boundary, a waiting one was never started. -/
def execTerminationNotice (s : State) : Host.Outcome State Fault Refusal :=
  match s.ev with
  | some (.terminationNotice c l) =>
    .next (allIdx.foldl (fun (s : State) h =>
      let e := s.ent c h
      if !e.v || e.lref != l || e.st == 5 then s
      else if e.st = 6 then ((s.dropDue c h).modEnt c h fun _ => Entry.reset).emit (.placement (s.core c).part)
      else if e.st = 0 then s.modEnt c h fun e => { e with kill := some .cancelled }
      else s.finishTask c h .cancelled) s)
  | _ => .next s

/-! ## DECR (R210, R307) -/

/-- DECR_APPLY (R35, R164, R210): the counter, and the install at zero; a task of a cancelled launch is not started (R36). The core that sent
the packet has its acknowledgment (R307). A counter in a sealed range or in a register image is left as it is, with a store-fault record of kind 0 for the
sender (R119, R381; DESIGN CHOICE, log 59). -/
def execDecrApply (s : State) : Host.Outcome State Fault Refusal :=
  match s.ev with
  | some (.decrApply p c h n src) =>
    let k := s.core c
    let e := k.ent h
    let stray (t : Nat) : State := s.sysRec k.part [BitVec.ofNat 64 t, putField (putField 0 0 16 h.toNat) 16 16 c.toNat, n.setWidth 64]
    if k.part ≠ p then
      .next (s.stray (s.kernel k.part) p (match src with | some x => fromCore x.1.core | none => (true, s.kernel p)) (false, c.toNat) 2 (some 1))
    else
      let t :=
        if !e.v || e.trg != 2 || e.st != 6 then stray 13
        else
          let a := spad c (8 * e.dco.toNat)
          let w := s.rd64 a
          let cnt := field w 0 32
          let refused (code : Code) : State := match src with
            | some x => s.addSfq x.1 0 code (BitVec.ofNat 64 (8 * e.dco.toNat))
            | none => s
          if n = 0 then s
          else if s.sealedHit c (8 * e.dco.toNat) 8 then refused cNoRight
          else if k.imageHit none (8 * e.dco.toNat) 8 then refused cWsprot
          else if cnt ≤ n.toNat then
            let t := if cnt < n.toNat then stray 14 else s
            let t := (t.wr64 a (putField (if cnt < n.toNat then putField w 63 1 1 else w) 0 32 0)).modEnt c h fun e => { e with zero := true }
            if (t.obj e.lref).st = 4 then t else t.startAt c h
          else s.wr64 a (putField w 0 32 (cnt - n.toNat))
      .next (match src with
        | some x => ((t.modCore x.1.core fun k => { k with decrs := k.decrs.erase (x.1.hidx, x.2) }).tryFree x.1.core x.1.hidx)
        | none => t)
  | _ => .next s

/-! ## Channel packets (R28, R44, R168 to R171) -/

/-- A channel packet at its core: into its ring, or into the ingress buffer behind what waits there for the same ring. -/
def State.chanArrive (s : State) (k : Packet) : State :=
  let c := k.dst
  let x := s.core c
  let e := x.chan k.chan
  if x.part ≠ k.pid ∨ ¬e.v ∨ e.kind = 1 then s.discardPkt k
  else if !x.waits k.chan && decide (e.fill ≤ e.sm1.toNat) then s.acceptPacket c k.chan k
  else s.modCore c fun x => { x with inChan := x.inChan ++ [k] }

/-- CHAN_PACKET_RECEIVE. -/
def execChanPacketReceive (s : State) : Host.Outcome State Fault Refusal :=
  match s.ev with
  | some (.chanPacketReceive k) => .next (s.chanArrive k)
  | _ => .next s

end Sys2Proof.Machine
end

