-- ==== Sys2Proof/Machine/Links.lean ====
section
/-! DEFINITION. What reaches the module from its links, and what crosses the mesh to many cores: bad headers (R24), multicast (R409, R410), the
bank-operation window (R284), the switch directory, migration and link loss (R415 to R417, R440), link and IDE keys and flits (R414, R419), and
the functions of the host ports (R143, R418, R420, R423). -/

namespace Sys2Proof.Machine

/-! ## Ports (R24) -/

def State.port (s : State) (n : Nat) : Port := Tab.get .reset s.ports n
def State.modPort (s : State) (n : Nat) (f : Port → Port) : State := { s with ports := Tab.set s.ports n (f (s.port n)) }

/-- The number of a link's port: host port h is number 24 + h. -/
def linkNo : LinkId → Nat
  | .port n => n.toNat
  | .host h => 24 + h.toNat

/-- Does a header have a reserved bit, a slice number above 63 or a device number that is not configured (R23, R24)? -/
def State.headerBad (s : State) (w : Word) : Bool :=
  let dev (n : Nat) : Bool := s.peers.contains n || s.cores.any fun x => x.2.dev.toNat == n
  field w 12 4 != 0 || (bit w 49 && field w 44 5 != 0) || (bit w 27 && field w 22 5 != 0) || !dev (field w 54 10) || !dev (field w 28 10)

/-- PORT_HEADER_DISCARD (R24): the kernel of slice 0 serves the ports. -/
def execPortHeaderDiscard (s : State) : Host.Outcome State Fault Refusal :=
  match s.ev with
  | some (.portHeaderDiscard l w) =>
    .next (if s.headerBad w then (s.modPort (linkNo l) fun p => { p with err := p.err + 1 }).sysAt 0 [20, BitVec.ofNat 64 (linkNo l), w] else s)
  | _ => .next s

/-! ## Multicast (R409, R410) -/

/-- A router does what it can of a multicast: it hands its own core a copy while the core's channel takes one, and it hands the multicast on to every
router that takes it. The answer is what the router still owes (R409, R410). -/
def State.replicate (s : State) (c : CoreId) (m : McPacket) : McPacket × State :=
  let own : Bool := m.own && !s.chanFull c
  let on (r : BitVec 6 × BitVec 5) : Bool := s.mcTakes (BitVec.ofNat 11 (r.1.toNat + 64 * r.2.toNat))
  let t := if own then s.chanArrive { m.pkt with dst := c } else s
  ({ m with own := m.own && s.chanFull c, next := m.next.filter fun r => !on r },
    t.emits ((m.next.filter on).map fun r => mcAt r.1.toNat r.2.toNat m.pkt m.rect))

/-- Does a router owe nothing more of a multicast? -/
def mcServed (m : McPacket) : Bool := !m.own && m.next.isEmpty

/-- Is every branch of a multicast at a router blocked? -/
def State.mcBlocked (s : State) (x : BitVec 6) (y : BitVec 5) (m : McPacket) : Bool :=
  (s.replicate (BitVec.ofNat 11 (x.toNat + 64 * y.toNat)) m).1 == m && !mcServed m

/-- MULTICAST_REPLICATE (R409): the branches that are blocked wait at the router, ahead of what comes after. -/
def execMulticastReplicate (s : State) : Host.Outcome State Fault Refusal :=
  match s.ev with
  | some (.multicastReplicate x y m) =>
    let (m', t) := s.replicate (BitVec.ofNat 11 (x.toNat + 64 * y.toNat)) m
    .next (if mcServed m' then t else t.putFirst (.multicastReplicate x y m'))
  | _ => .next s

/-- The cores that a multicast still reaches from some routers; `n` bounds the hops. -/
def mcReach (m : McPacket) : Nat → List (Nat × Nat) → List Nat
  | 0, _ => []
  | n + 1, rs => (rs.filter fun r => rectHas m.rect (r.1 + 64 * r.2)).map (fun r => r.1 + 64 * r.2)
      ++ (match rs.flatMap fun r => mcNext r.1 r.2 m.pkt.src.toNat m.rect with | [] => [] | l => mcReach m n l)

/-- The cores to which a router owes a multicast still. -/
def mcOwed (c : Nat) (m : McPacket) : List Nat :=
  (if m.own then [c] else []) ++ mcReach m 100 (m.next.map fun r => (r.1.toNat, r.2.toNat))

/-- Inject from the front of a router's retry buffer while the channel at the destination takes packets. -/
def State.injectRetry (s : State) (c : CoreId) : Nat → State
  | 0 => s
  | n + 1 =>
    match (s.core c).retry with
    | [] => s
    | k :: rest =>
      if s.chanFull k.dst then s
      else ((s.modCore c fun x => { x with retry := rest }).emit (.chanPacketReceive k)).injectRetry c n

/-- Put a packet into a list in the order of destinations. -/
def byDst (k : Packet) : List Packet → List Packet
  | [] => [k]
  | x :: xs => if k.dst.toNat < x.dst.toNat then k :: x :: xs else x :: byDst k xs

/-- The first multicast that stands blocked at a router. -/
def State.firstBlocked (s : State) (x : BitVec 6) (y : BitVec 5) : Option McPacket :=
  s.net.findSome? fun e => match e with
    | .multicastReplicate a b m => if a = x ∧ b = y ∧ s.mcBlocked x y m = true then some m else none
    | _ => none

/-- MULTICAST_BLOCK_TIMEOUT (R410): all that a router owes of a blocked multicast becomes unicast packets in its retry buffer of 16, in core-index
order; what does not fit stays owed, one destination at a time. -/
def execMulticastBlockTimeout (s : State) : Host.Outcome State Fault Refusal :=
  match s.ev with
  | some (.multicastBlockTimeout x y) =>
    let c : CoreId := BitVec.ofNat 11 (x.toNat + 64 * y.toNat)
    let t := match s.firstBlocked x y with
      | some m =>
        let dst : List Packet := (mcOwed c.toNat m).foldl (fun l n => byDst { m.pkt with dst := BitVec.ofNat 11 n } l) []
        let room := 16 - (s.core c).retry.length
        let t := { s with net := s.net.erase (.multicastReplicate x y m) }
        let t := t.modCore c fun k => { k with retry := k.retry ++ dst.take room }
        t.emits ((dst.drop room).map fun (k : Packet) => mcAt x.toNat y.toNat m.pkt
          ⟨BitVec.ofNat 6 (coreX k.dst.toNat), BitVec.ofNat 5 (coreY k.dst.toNat), BitVec.ofNat 6 (coreX k.dst.toNat), BitVec.ofNat 5 (coreY k.dst.toNat)⟩)
      | none => s
    let t := t.injectRetry c 16
    .next (if (t.core c).retry.isEmpty then t else t.emit (.multicastBlockTimeout x y))
  | _ => .next s

/-! ## The bank-operation window (R284) -/

/-- A write to a slice's bank-operation window reaches it through the function of the slice's partition, in RUN (R418, R420). -/
def State.windowWrite (s : State) (h : BitVec 1) (sl : SliceId) (go : Pid → State) : State :=
  match s.sliceOwner sl.toNat with
  | some p => if s.windowOpen h false p then go p else s.windowShut h p
  | none => s

/-- BANK_OP_LINE0. -/
def execBankOpLine0 (s : State) : Host.Outcome State Fault Refusal :=
  match s.ev with
  | some (.bankOpLine0 h sl slot d) =>
    let k := (h.toNat, sl.toNat, slot.toNat)
    .next (s.windowWrite h sl fun _ => { s with bops := (k, d) :: s.bops.filter fun x => x.1 != k })
  | _ => .next s

/-- The update that a record asks for; none for a bad record. A non-zero reserved bit makes it bad as a bad field does (DESIGN CHOICE, log 60). -/
def bankOpReq (h : BitVec 1) (p : Pid) (sl : Nat) (d0 d1 : Line) : Option MemReq :=
  let w0 := lineWord d0 0
  let w1 := lineWord d0 1
  let kind : Option UpdKind := match field w0 61 3 with
    | 0 => some .set
    | 1 => some .add
    | 2 => some .mul
    | 3 => some .min
    | 4 => some .max
    | _ => none
  let ty : Option Ty := match field w0 59 2 with
    | 0 => some .i32
    | 1 => some .i64
    | 2 => some .f32
    | _ => none
  let pa := field w1 0 56
  match kind, ty with
  | some k, some t =>
    let mask : BitVec 16 := BitVec.ofNat 16 (field w0 43 16)
    if field w0 0 37 = 0 ∧ field w1 56 8 = 0 ∧ (List.range 6).all (fun i => lineWord d0 (2 + i) == 0)
        ∧ paRegion pa = 0 ∧ pa / 2 ^ 39 % 2 ^ 14 = 0 ∧ pa / 2 ^ 33 % 64 = sl ∧ pa % 64 = 0 then
      some ⟨⟨0, 0, 0, p, noObj, 0⟩, .bupd k t mask, BitVec.ofNat 56 pa, 64, d1, bupdMask t mask, BitVec.ofNat 64 pa,
        BitVec.ofNat 6 (field w0 37 6), false, 0, 0, none, .host h, none, 0⟩
    else none
  | _, _ => none

/-- BANK_OP_LINE1: the update is performed when line 1 follows its line 0 from the same port. -/
def execBankOpLine1 (s : State) : Host.Outcome State Fault Refusal :=
  match s.ev with
  | some (.bankOpLine1 h sl slot d) =>
    let k := (h.toNat, sl.toNat, slot.toNat)
    let t := { s with bops := s.bops.filter fun x => x.1 != k }
    .next (s.windowWrite h sl fun p =>
      match (s.bops.find? fun x => x.1 == k).bind fun x => bankOpReq h p sl.toNat x.2 d with
      | some r => t.emit (.bankRequest r)
      | none => t.sysAt sl.toNat [21, h.setWidth 64, slot.setWidth 64])
  | _ => .next s

/-! ## Lines that move between homes (R415 to R417, R440) -/

/-- The key slot that holds a key. -/
def State.slotWith (s : State) (k : BitVec 512) : Option Nat := (s.keys.find? fun x => x.2.state == 1 && x.2.key == k).map (·.1)

/-- A line as it stands now at its place, in its bank, in a queued write-back, or in its store: its data, its poison, and the key that it is held under.
Its check is verified as it leaves for a link or is read from HBM (R157): it fails too where no slot holds the key any more, and then poisons both
granules. -/
def State.lineNow (s : State) (pl : Nat) : Line × BitVec 2 × Option (BitVec 512) :=
  match (match s.cached pl with | some l => some l | none => s.queued pl) with
  | some l => (l.data, l.checked.poi, some (s.keyIn l.key))
  | none =>
    let ln := placeLine pl
    let k := Tab.find s.hkey ln
    (s.memLine ln, if s.badchk.contains ln || (match k with | some k => (s.slotWith k).isNone | none => false) then 3 else s.poiAt ln, k)

/-- Remove the line at a place from its bank, with its copies and queued write-backs. -/
def State.uncache (s : State) (pl : Nat) : State :=
  { (s.dropLine pl).dropCopies (placeLine pl) none with wbq := s.wbq.filter fun x => x.place != pl }

/-- Bring a line into its place: a peer's goes out over its port, and a line of the module or of a host is stored. Outside region 0 no slot holds it
(R155). -/
def State.sendHome (s : State) (p : Pid) (dst : Nat) (x : Line × BitVec 2 × Option (BitVec 512)) : State :=
  if paRegion (64 * dst) = 3 then
    s.toPort (64 * dst) (.bankRequest ⟨⟨0, 0, 0, p, noObj, 0⟩, .copy x.2.1, BitVec.ofNat 56 (64 * dst), 64, x.1, BitVec.allOnes 64, 0, 0, false, 0, 0,
      none, .step, none, 0⟩)
  else s.storeLine dst x.1 x.2.1 x.2.2 false

/-- Move a line of a frame from one place to another, with its poison and its key: a line that no bank has held moves under the frame's key slot (DESIGN
CHOICE, log 38). The host port turns it away while the function of its partition is in ERROR (R420). -/
def State.moveLine (s : State) (p : Pid) (key : BitVec 6) (src dst : Nat) : State :=
  let x := s.lineNow src
  let t := (s.uncache src).uncache dst
  if s.torn p (64 * placeLine dst) then t else t.sendHome p (placeLine dst) (x.1, x.2.1, some (x.2.2.getD (s.keyIn key)))

/-- DIRECTORY_COUNT_REPORT (R416, R440). -/
def execDirectoryCountReport (s : State) : Host.Outcome State Fault Refusal :=
  match s.ev with
  | some (.directoryCountReport sl frame h) =>
    .next (match Tab.find (s.slice sl.toNat).migr frame.toNat with
      | some m => (s.modSlice sl.toNat fun k => { k with migr := Tab.set k.migr frame.toNat { m with h := h } }).moveTest sl.toNat frame.toNat
      | none => s)
  | _ => .next s

/-- The frames of a slice that wait for room in the area are tested again, in rising order of their numbers (R416; the order is a DESIGN CHOICE, log
38). -/
def State.moveTests (s : State) (sl : Nat) : State := ((s.slice sl).migr.map (·.1)).foldl (fun (s : State) f => s.moveTest sl f) s

/-- MOVE_COMPLETE (R416, R440): the frame's 64 lines go to a free frame of the migration area, or back to their home, but for those that are back
already; then the tests of the slice's other frames are made. -/
def execMoveComplete (s : State) : Host.Outcome State Fault Refusal :=
  match s.ev with
  | some (.moveComplete sl frame) =>
    let n := frame.toNat
    let p := (s.sliceOwner sl.toNat).getD 0
    match Tab.find (s.slice sl.toNat).migr n with
    | none => .next s
    | some m =>
      if !m.move then .next s
      else
        let set (s : State) (a : Option Nat) (l : List Nat) : State :=
          (s.modSlice sl.toNat fun k => { k with migr := Tab.set k.migr n { m with move := false, area := a, owed := [] }, area := l }).moveTests sl.toNat
        let at_ (f i : Nat) : Nat := placeOf sl.toNat (64 * f + i)
        match m.area, (s.slice sl.toNat).area with
        | none, f :: rest => .next (set ((List.range 64).foldl (fun (s : State) i => s.moveLine p m.key (at_ n i) (at_ f i)) s) (some f) rest)
        | none, [] => .next (set s none [])
        | some f, l =>
          let left := (List.range 64).filter fun i => !m.owed.contains (64 * n + i)
          .next (set (left.foldl (fun (s : State) i => s.moveLine p m.key (at_ f i) (at_ n i)) s) none (l ++ [f]))
  | _ => .next s

/-- The entry of a slice that awaits an E grant on a line for a move in. -/
def State.moving (s : State) (sl ln : Nat) : Option Migr :=
  (Tab.find (s.slice sl).migr (ln / 64)).filter fun m => m.move && m.area.isNone && m.owed.contains ln

/-- A move in has its E grant on a line, and the line's data where no bank holds it (R416). -/
def State.grantMove (s : State) (sl : Nat) (m : Migr) (ln : Nat) (d : Line) : State :=
  let s := s.modSlice sl fun k => { k with migr := Tab.set k.migr (ln / 64) { m with owed := m.owed.filter (· != ln) } }
  if (s.cached (placeOf sl ln)).isSome then
    { s with lines := s.lines.map fun (x : CLine) => if x.place = placeOf sl ln then { x with excl := true } else x }
  else s.setMemLine ln d

/-- An answer of the directory frees the tag that the port held for it (R420). -/
def State.freeTag (s : State) (n : Nat) : State :=
  { s with fns := Tab.set s.fns n { (Tab.get Fn.reset s.fns n) with tags := (Tab.get Fn.reset s.fns n).tags - 1 } }

/-- The requests that waited for a grant go on, the line installed for the first of them: they came before the move that the count of their own fetch may
start, and are not held by it (R440). -/
def State.grantFill (s : State) (sl ln : Nat) (g : GrantKind) (d : Line) (l : List Event) : State :=
  match l.head?.bind s.bankFacts with
  | some f =>
    if s.placeFor f ≠ placeOf sl ln then s.goOn l
    else match s.cached (placeOf sl ln) with
      | some x => (s.installLine { x with excl := g == .exclusive }).goOn l
      | none =>
        (((s.setMemLine ln d).installLine ⟨ln, d, f.key, false, s.poiAt ln, lineCheck d, 0, g == .exclusive, sl, false⟩).countLink sl (f.pa / 4096) f.key).goOn l
  | none => s.goOn l

/-- The partition for which a slice asked for a grant on a line: for a move in, or for the first request which waits, or which waited and is given up. -/
def State.grantee (s : State) (sl ln : Nat) : Option Pid :=
  match s.moving sl ln, Tab.find s.fills (placeOf sl ln) with
  | none, some (e :: _) => (s.bankFacts e).map (·.pid)
  | none, none => none
  | _, _ => s.sliceOwner sl

/-- DIRECTORY_GRANT (R415): the grant and its data; the requests that waited go on. A grant that a move in awaits goes to the move, and the answer to
a request of an old generation is discarded (R420). -/
def execDirectoryGrant (s : State) : Host.Outcome State Fault Refusal :=
  match s.ev with
  | some (.directoryGrant sl l g gen d) =>
    let ln := l.toNat
    let pl := placeOf sl.toNat ln
    match s.grantee sl.toNat ln with
    | none => .next s
    | some p =>
      let n := fnAt p (64 * ln)
      if paRegion (64 * ln) = 4 ∧ (Tab.get Fn.reset s.fns n).gen ≠ gen then .next s
      else
        let s := if paRegion (64 * ln) = 4 then s.freeTag n else s
        match (if g = .exclusive then s.moving sl.toNat ln else none), Tab.find s.fills pl with
        | some m, _ => .next (s.grantMove sl.toNat m ln d)
        | none, some l => .next (({ s with fills := Tab.del s.fills pl } : State).grantFill sl.toNat ln g d l)
        | none, none => .next s
  | _ => .next s

/-- The entries of migrated frames that hold a line for the module: their slice, the frame of the area, and the entry. -/
def State.heldFor (s : State) (ln : Nat) : List (Nat × Nat × Migr) :=
  s.slices.filterMap fun k => match Tab.find k.2.migr (ln / 64) with
    | some m => if m.owed.contains ln then none else m.area.map fun f => (k.1, f, m)
    | none => none

/-- A snoop of a line of a migrated frame: it goes back to the host with its data, and its frame holds it no longer (DESIGN CHOICE, log 38); lowered, its
bank keeps it under S (R415). -/
def State.snoopMoved (s : State) (ln : Nat) (k : SnoopKind) (x : Nat × Nat × Migr) : State :=
  let pl := placeOf x.1 (64 * x.2.1 + ln % 64)
  let d := s.lineNow pl
  let t := (s.uncache pl).storeLine ln d.1 d.2.1 none false
  let t := t.modSlice x.1 fun k => { k with migr := Tab.set k.migr (ln / 64) { x.2.2 with owed := ln :: x.2.2.owed } }
  match k with
  | .downgrade =>
    t.installLine ⟨ln, d.1, BitVec.ofNat 6 ((d.2.2.bind s.slotWith).getD x.2.2.key.toNat), false, d.2.1, lineCheck d.1, 0, false, x.1, false⟩
  | .invalidate => t

/-- A snoop of a line that banks hold: the dirty data reaches the host, and the grant is given up or lowered, in each slice that has the line (R415,
R439). The check of what leaves is verified (R157). -/
def State.snoopBanks (s : State) (ln : Nat) (k : SnoopKind) : State :=
  let dirty := (s.wbq.filter fun x => x.ln == ln) ++ s.lines.filter fun x => x.ln == ln && !x.copy && x.dirty
  let t := dirty.foldl (fun (t : State) x => t.storeLine ln x.data x.checked.poi none false) s
  let t := { t with wbq := t.wbq.filter fun x => x.ln != ln }
  match k with
  | .invalidate => { t with lines := t.lines.filter fun x => x.ln != ln }
  | .downgrade => { t with lines := t.lines.map fun (x : CLine) => if x.ln = ln then { x.checked with dirty := false, excl := false } else x }

/-- SNOOP (R415). -/
def execSnoop (s : State) : Host.Outcome State Fault Refusal :=
  match s.ev with
  | some (.snoop l k) => .next (((s.heldFor l.toNat).foldl (fun (t : State) x => t.snoopMoved l.toNat k x) s).snoopBanks l.toNat k)
  | _ => .next s

/-! ## The loss of a link (R417) -/

/-- Is a line homed across a link? -/
def acrossLink (l : LinkId) (ln : Nat) : Bool :=
  let a := 64 * ln
  match l with
  | .host h => paRegion a == 4 && a / 2 ^ 51 % 2 == h.toNat
  | .port n => paRegion a == 3 && Config.portOf (BitVec.ofNat 10 (a / 2 ^ 42)) == n

/-- What has to be kept when a link is lost: where the line stands, its own number, and the slice that holds it. -/
structure LossLine where
  at_ : Nat
  ln  : Nat
  sl  : Nat
  deriving DecidableEq, Repr

/-- Take a line off the banks into the quarantine. -/
def State.quarantine (s : State) (x : LossLine) : State :=
  let (d, p, _) := s.lineNow x.at_
  { ((s.uncache x.at_).setPoi x.ln p) with
    quar := Tab.set s.quar (placeOf x.sl x.ln) d
    lost := if s.lost.contains (x.ln / 64) then s.lost else (x.ln / 64) :: s.lost }

/-- Give a line up that the quarantine has no room for: the directory poisons it. -/
def State.giveUp (s : State) (x : LossLine) : State := (s.uncache x.at_).setPoi x.ln 3

/-- The record that a slice writes of a lost link, with the list of its quarantined lines (R417). A slice with none writes one too, which names no line. -/
def State.lossRecord (s : State) (sl : Nat) (lns : List Nat) : State :=
  let s := if (s.slice sl).tail - (s.slice sl).head < 256 then
      s.ringAdd sl ⟨3, 0, 0, 0, cHosthomeLost, 255, BitVec.ofNat 64 (64 * lns.headD 0), noRec, 0⟩ none
    else s.ringFull sl
  s.sysAt sl (22 :: lns.map fun n => BitVec.ofNat 64 (64 * n))

/-- What goes into the quarantine when a link is lost, slice by slice in no order that the spec gives: the dirty lines, then those of migrated frames. -/
def State.lossList (s : State) (l : LinkId) : List LossLine :=
  let dirty := (((s.lines.filter fun x => x.dirty && acrossLink l x.ln) ++ s.wbq.filter fun x => acrossLink l x.ln).map fun x =>
    (⟨x.place, x.ln, x.sl⟩ : LossLine)).eraseDups
  let moved := s.slices.flatMap fun k => k.2.migr.flatMap fun m => match m.2.area with
    | some f =>
      if acrossLink l (64 * m.1) then ((List.range 64).filter fun i => !m.2.owed.contains (64 * m.1 + i)).map fun i =>
        (⟨placeOf k.1 (64 * f + i), 64 * m.1 + i, k.1⟩ : LossLine)
      else []
    | none => []
  dirty ++ moved

/-- LINK_DOWN (R417): dirty lines and migrated frames enter the quarantine while it has room, clean lines are dropped, every slice writes its record, and
requests that wait for the link are answered. -/
def State.loseLink (s : State) (l : LinkId) : State :=
  let room := 65536 - s.quar.length
  let kept := (s.lossList l).take room
  let gone := (s.lossList l).drop room
  let s := s.modPort (linkNo l) fun p => { p with up := false }
  let s := { s with downs := if s.downs.contains l then s.downs else s.downs ++ [l] }
  let s := gone.foldl (fun (s : State) x => s.giveUp x) (kept.foldl (fun (s : State) x => s.quarantine x) s)
  let s := { s with
    lines := s.lines.filter fun x => !acrossLink l x.ln
    slices := s.slices.map fun (k : Nat × Slice) => (k.1, { k.2 with
      area := k.2.area ++ k.2.migr.filterMap fun m => if acrossLink l (64 * m.1) then m.2.area else none
      migr := k.2.migr.filter fun m => !acrossLink l (64 * m.1) }) }
  let s := (List.range 64).foldl (fun (s : State) sl => s.lossRecord sl ((kept.filter fun x => x.sl == sl).map (·.ln))) s
  let waits := s.fills.filter fun f => acrossLink l (placeLine f.1)
  { s with fills := s.fills.filter fun f => !acrossLink l (placeLine f.1) }.goOn (waits.flatMap fun (f : Nat × List Event) => f.2)

def execLinkDown (s : State) : Host.Outcome State Fault Refusal :=
  match s.ev with
  | some (.linkDown l) => .next (s.loseLink l)
  | _ => .next s

/-- Frames without a quarantined line are accessible again. -/
def State.unlose (s : State) : State := { s with lost := s.lost.filter fun f => s.quar.any fun x => placeLine x.1 / 64 == f }

/-- Take the quarantined lines that a test names out of the quarantine, each written back to its home. -/
def State.unquarantine (s : State) (f : Nat → Bool) : State :=
  let t := (s.quar.filter fun x => f x.1).foldl (fun (t : State) x => t.sendHome ((t.sliceOwner (placeSlice x.1)).getD 0) (placeLine x.1) (x.2, s.poiAt (placeLine x.1), none)) s
  { t with quar := t.quar.filter fun x => !f x.1 }.unlose

/-- Does the kernel write back the quarantined lines of a place's slice (R435)? -/
def State.kernelQuar (s : State) (pl : Nat) : Bool := match s.sliceOwner (placeSlice pl) with | some p => s.mode p 5 | none => false

/-- LINK_RECOVER (R417, R435): the slices write their quarantined lines back; in host-assisted mode the kernel does, whose act is the same event once more,
with the link up. A port whose key is gone waits for a new one (R414). -/
def execLinkRecover (s : State) : Host.Outcome State Fault Refusal :=
  match s.ev with
  | some (.linkRecover l) =>
    let lost : Bool := match l with | .port n => (s.port n.toNat).key.isNone | .host _ => false
    if lost then .next s
    else
      let mine (pl : Nat) : Bool := acrossLink l (placeLine pl)
      let t := s.modPort (linkNo l) fun p => { p with up := true }
      let t := { t with downs := t.downs.filter (· != l) }
      if !s.downs.contains l then .next (t.unquarantine mine)
      else
        let t := t.unquarantine fun pl => mine pl && !s.kernelQuar pl
        .next (if t.quar.any fun x => mine x.1 then t.emit (.linkRecover l) else t)
  | _ => .next s

/-- QUARANTINE_TIMEOUT (R417): the directory poisons the lines of a link that is still down. -/
def execQuarantineTimeout (s : State) : Host.Outcome State Fault Refusal :=
  match s.ev with
  | some (.quarantineTimeout l) =>
    if s.downs.contains l then
      let t := (s.quar.filter fun x => acrossLink l (placeLine x.1)).foldl (fun (t : State) x => t.setPoi (placeLine x.1) 3) s
      .next ({ t with quar := t.quar.filter fun x => !acrossLink l (placeLine x.1) }.unlose)
    else .next s
  | _ => .next s

/-! ## Flits and keys (R414, R419) -/

def State.fn (s : State) (f : FnId) : Fn := Tab.get .reset s.fns (32 * f.h.toNat + f.n.toNat)
def State.modFn (s : State) (f : FnId) (g : Fn → Fn) : State := { s with fns := Tab.set s.fns (32 * f.h.toNat + f.n.toNat) (g (s.fn f)) }

/-- A bank of a direction of an IDE stream, by its bit. -/
def IdeDir.bank (d : IdeDir) (b : Bool) : Option (BitVec 256) := if b then d.bank1 else d.bank0

/-- Load the idle bank of a direction. -/
def IdeDir.load (d : IdeDir) (k : BitVec 256) : IdeDir := if d.sel then { d with bank0 := some k } else { d with bank1 := some k }

/-- Erase the idle bank of a direction. -/
def IdeDir.erase (d : IdeDir) : IdeDir := if d.sel then { d with bank0 := none } else { d with bank1 := none }

/-- A failing port, or one whose counter has reached 2^63, brings its link down (R414). -/
def State.portFails (s : State) (n : Fin 24) : State :=
  let p := s.port n.toNat
  if 16 ≤ p.bad ∨ 2 ^ 63 ≤ p.tx.toNat ∨ 2 ^ 63 ≤ p.rx.toNat then
    (s.modPort n.toNat fun p => { p with up := false, key := none }).emit (.linkDown (.port n))
  else s

/-- The IV of a slot: the port's salt, then the counter, each most significant byte first (DESIGN CHOICE, log 60: the spec gives no byte order). -/
def slotIv (p : Port) (n : Word) : List Byte := beBytes 4 p.salt.toNat ++ beBytes 8 n.toNat

/-- The bytes of a link key in the order of a key slot's. -/
def linkKeyBytes (k : BitVec 256) : List Byte := (List.range 32).map fun i => k.extractLsb' (8 * i) 8

/-- The 12-byte tag of a sealed slot (R414). -/
def slotTag (k : BitVec 256) (iv ct : List Byte) : List Byte :=
  let rks := roundKeys (linkKeyBytes k)
  (gcmTag rks iv 0 ct.length (gcmMore (gcmH rks) (ct.length / 16) (0, ct))).take 12

/-- FLIT_SEND (R414, R419): every slot that is sent is sealed under the counter, which it raises; a flit of an IDE stream carries the bit of the bank
under which it is sealed. -/
def execFlitSend (s : State) : Host.Outcome State Fault Refusal :=
  match s.ev with
  | some (.flitSend (.slot n bs)) =>
    let p := s.port n.toNat
    match (if p.up then p.key else none) with
    | some k =>
      let ct := gcmXor (roundKeys (linkKeyBytes k)) (slotIv p p.tx) 0 bs
      .next (({ s with out := s.out ++ [Event.slotOut n ct (slotTag k (slotIv p p.tx) ct)] }.modPort n.toNat fun p =>
        { p with tx := p.tx + 1, egress := p.egress - 1 }).portFails n)
    | none => .next s
  | some (.flitSend (.ide f)) =>
    let d := (s.fn f).tx
    .next (if (d.bank d.sel).isSome then { s with out := s.out ++ [.ideOut f d.sel] } else s)
  | _ => .next s

/-- A flit of an IDE stream arrives with its bit (R419): a bit that names an empty bank fails IDE, and the function goes to ERROR; the old bank goes with
the 1,024th flit under the new bit. -/
def State.ideFlit (s : State) (f : FnId) (gen : Bool) : State :=
  let d := (s.fn f).rx
  if (d.bank gen).isNone then s.modFn f fun x => { x with st := 3 }
  else if gen ≠ d.sel then s.modFn f fun x => { x with rx := { d with sel := gen, count := 1 } }
  else
    let t := if d.count < 1024 then s.modFn f fun x => { x with rx := { d with count := d.count + 1 } } else s
    if d.count = 1023 then t.emit (.ideOldBankErase f) else t

/-- FLIT_RECEIVE (R414, R419): every slot that is received raises the counter; sixteen failed tags in a row bring the link down. -/
def execFlitReceive (s : State) : Host.Outcome State Fault Refusal :=
  match s.ev with
  | some (.flitReceive (.slot n crc bs tag)) =>
    let p := s.port n.toNat
    match (if p.up then p.key else none) with
    | some k =>
      let bad := if !crc then p.bad else if slotTag k (slotIv p p.rx) bs = tag then 0 else p.bad + 1
      .next ((s.modPort n.toNat fun p => { p with rx := p.rx + 1, bad := bad }).portFails n)
    | none => .next s
  | some (.flitReceive (.ide f gen)) => .next (s.ideFlit f gen)
  | _ => .next s

/-- Is a session open in which a link or IDE key can travel (R423): with function 0 of a host port for a port's key, with the stream's function for its own? -/
def State.keySession (s : State) : KeyDest → Bool
  | .port _ => (Tab.get Fn.reset s.fns 0).sess.isSome || (Tab.get Fn.reset s.fns 32).sess.isSome
  | .ide f => (s.fn f).sess.isSome

/-- LINK_KEY_LOAD (R414, R419, R423): inside an open session a port's key, salt and counters are set, or the idle banks of a stream's two directions are
loaded; what the idle bank of the receiver held is gone with that. -/
def execLinkKeyLoad (s : State) : Host.Outcome State Fault Refusal :=
  match s.ev with
  | some (.linkKeyLoad d) =>
    let key := Config.sessionKey s.free
    let t := s
    let s := { s with free := s.free + 2 }
    .next (if !t.keySession d then t else match d with
      | .port n => s.modPort n.toNat fun p => { p with
          up := true, key := some key, salt := (Config.sessionKey (s.free - 1)).setWidth 32, tx := 0, rx := 0, bad := 0 }
      | .ide f => s.modFn f fun x => { x with tx := { (x.tx.load key) with count := 1 }, rx := { (x.rx.load key) with count := 1025 } })
  | _ => .next s

/-- IDE_KEY_SWITCH (R419): the transmitter changes its bit once after a load is acknowledged, and not without one. -/
def execIdeKeySwitch (s : State) : Host.Outcome State Fault Refusal :=
  match s.ev with
  | some (.ideKeySwitch f) =>
    .next (if (s.fn f).tx.count = 1 then s.modFn f fun x => { x with tx := { x.tx with sel := !x.tx.sel, count := 0 } } else s)
  | _ => .next s

/-- IDE_OLD_BANK_ERASE (R419): the receiver's old bank goes once, after 1,024 flits under the new bit. -/
def execIdeOldBankErase (s : State) : Host.Outcome State Fault Refusal :=
  match s.ev with
  | some (.ideOldBankErase f) =>
    .next (if (s.fn f).rx.count = 1024 then s.modFn f fun x => { x with rx := { (x.rx.erase) with count := 1025 } } else s)
  | _ => .next s

/-! ## Functions of the host ports (R418, R420, R423) -/

/-- VF_CONFIG_CHANGE (R418). -/
def execVfConfigChange (s : State) : Host.Outcome State Fault Refusal :=
  match s.ev with
  | some (.vfConfigChange n) => .next (if (s.fn n).st = 1 ∨ (s.fn n).st = 2 then s.modFn n fun x => { x with st := 3 } else s)
  | _ => .next s

/-- TDISP_LOCK (R418). -/
def execTdispLock (s : State) : Host.Outcome State Fault Refusal :=
  match s.ev with
  | some (.tdispLock n) => .next (if (s.fn n).st = 0 then s.modFn n fun x => { x with st := 1 } else s)
  | _ => .next s

/-- TDISP_START (R418). -/
def execTdispStart (s : State) : Host.Outcome State Fault Refusal :=
  match s.ev with
  | some (.tdispStart n) => .next (if (s.fn n).st = 1 then s.modFn n fun x => { x with st := 2 } else s)
  | _ => .next s

/-- TDISP_STOP (R418): a function that drains is used again only after the raise of its generation (R420). -/
def execTdispStop (s : State) : Host.Outcome State Fault Refusal :=
  match s.ev with
  | some (.tdispStop n) => .next (if (s.fn n).drain then s else s.modFn n fun x => { x with st := 0 })
  | _ => .next s

/-- A request waits for the host through a function (R420). -/
def State.through (s : State) (f : FnId) (e : Event) : Bool :=
  match s.bankFacts e with
  | some x => fnAt x.pid x.pa == 32 * f.h.toNat + f.n.toNat
  | none => false

/-- VF_TEARDOWN (R420): the function goes to ERROR; what waits for the host through it is answered with PA_FAULT, what waited behind that for another
function goes on, and a move in that awaits grants through it ends. -/
def execVfTeardown (s : State) : Host.Outcome State Fault Refusal :=
  match s.ev with
  | some (.vfTeardown f) =>
    let hit (x : Nat × List Event) : Bool := paRegion (64 * placeLine x.1) == 4 && (x.2.take 1).any (s.through f)
    let gone := (s.fills.filter hit).flatMap (·.2)
    let t := { s with
      fills := s.fills.filter fun x => !hit x
      slices := s.slices.map fun (k : Nat × Slice) => (k.1, if s.sliceOwner k.1 = some (BitVec.ofNat 4 (f.n.toNat - 1)) ∧ f.n ≠ 0 then { k.2 with
          migr := k.2.migr.map fun (m : Nat × Migr) =>
            if m.2.move && m.2.area.isNone && paRegion (4096 * m.1) == 4 && m.1 / 2 ^ 39 % 2 == f.h.toNat then (m.1, { m.2 with move := false, owed := [] }) else m }
        else k.2) }
    let t := (gone.filter (s.through f)).foldl (fun (t : State) e => t.failWith cPaFault e) t
    let t := t.goOn (gone.filter fun e => !s.through f e)
    let t := { t with slices := t.slices.map fun (k : Nat × Slice) => (k.1, { k.2 with sevc := countOnce (s.slice k.1).sevc k.2.sevc }) }
    .next ((t.modFn f fun x => { x with st := 3, drain := true }).emit (.vfDrainExpiry f))
  | _ => .next s

/-- VF_DRAIN_EXPIRY (R420): the port reclaims what it holds for the function, and the generation rises. -/
def execVfDrainExpiry (s : State) : Host.Outcome State Fault Refusal :=
  match s.ev with
  | some (.vfDrainExpiry f) => .next (if (s.fn f).drain then s.modFn f fun x => { x with gen := x.gen + 1, drain := false, tags := 0 } else s)
  | _ => .next s

/-- The slice whose kernel answers a function (R423): slice 0's the physical one, the lowest of its partition that of a partition. -/
def State.fnKernel (s : State) (f : FnId) : Option Nat :=
  if f.n = 0 then some 0
  else if 16 < f.n.toNat then none
  else let p : Pid := BitVec.ofNat 4 (f.n.toNat - 1); (s.pdesc p).map fun _ => s.kernel p

/-- KEY_EX (R423): the kernel of a function opens a session bound to it with a requester that speaks SPDM 1.2 or 1.3 and offers the module's algorithms. -/
def execKeyEx (s : State) : Host.Outcome State Fault Refusal :=
  match s.ev with
  | some (.keyEx n v algs) =>
    .next (if (s.fnKernel n).isSome && (v == 0x12 || v == 0x13) && algs then
        { s with free := s.free + 1 }.modFn n fun x => { x with sess := some (Config.sessionKey s.free) }
      else s)
  | _ => .next s

/-- HOST_PORT_REMOVAL (R143). -/
def execHostPortRemoval (s : State) : Host.Outcome State Fault Refusal :=
  match s.ev with
  | some (.hostPortRemoval h) => .next { s with hosts := s.hosts &&& ~~~BitVec.ofNat 2 (2 ^ h.toNat) }
  | _ => .next s

/-- PEER_DEVICE_DECONFIGURE (R143). -/
def execPeerDeviceDeconfigure (s : State) : Host.Outcome State Fault Refusal :=
  match s.ev with
  | some (.peerDeviceDeconfigure d) => .next { s with peers := s.peers.filter (· != d.toNat) }
  | _ => .next s

end Sys2Proof.Machine
end

