-- ==== Sys2Proof/Machine/Scalar.lean ====
section
/-! DEFINITION. The integer, F32, logic, compare, convert and pointer heads (R241 to R261). -/

namespace Sys2Proof.Machine

/-! ## Shared forms -/

/-- A head with two sources that writes a general register (R241). -/
def State.alu (s : State) (q : Guard) (a : GReg) (b : Src) (c : Opd) (f : Word → Word → Word) : Host.Outcome State Fault Refusal :=
  finish s (s.guarded q do
    s.touchG a
    let (x, y, t) ← s.readOpd b c
    return (t.setG a (f x y)).advance)

/-- A head with one source that writes a general register (R241). -/
def State.alu1 (s : State) (q : Guard) (a : GReg) (b : Src) (f : Word → Word) : Host.Outcome State Fault Refusal :=
  finish s (s.guarded q do
    s.touchG a
    let (x, t) ← s.read1 b
    return (t.setG a (f x)).advance)

/-- The result of an arithmetic head: the exact integer form, or the F32 form (R242). -/
def arith (t : Ty) (fi : Int → Int → Int) (ff : Nat → Nat → Nat) (x y : Word) : Word :=
  if t.isFloat then BitVec.ofNat 64 (ff x.toNat y.toNat) else put t (fi (ival t x) (ival t y))

/-! ## Integer and F32 arithmetic (R245 to R248) -/

def execAdd (o : AluOp) (s : State) : Host.Outcome State Fault Refusal := s.alu o.q o.a o.b o.c (arith o.t (· + ·) f32Add)
def execSub (o : AluOp) (s : State) : Host.Outcome State Fault Refusal := s.alu o.q o.a o.b o.c (arith o.t (· - ·) f32Sub)
def execMul (o : AluOp) (s : State) : Host.Outcome State Fault Refusal := s.alu o.q o.a o.b o.c (arith o.t (· * ·) f32Mul)

/-- The high 64 bits of the product (R245). -/
def mulHigh (t : Ty) (x y : Word) : Word := put t (ival t x * ival t y / 2 ^ 64)

def execMulh (o : AluOp) (s : State) : Host.Outcome State Fault Refusal := s.alu o.q o.a o.b o.c (mulHigh o.t)

/-- The quotient of DIV with its edge cases (R246). -/
def divQuot (t : Ty) (x y : Word) : Word :=
  if ival t y = 0 then BitVec.allOnes 64 else put t ((ival t x).tdiv (ival t y))

/-- The remainder of MOD with its edge cases (R246). -/
def divRem (t : Ty) (x y : Word) : Word :=
  if ival t y = 0 then put t (ival t x) else put t ((ival t x).tmod (ival t y))

def execDiv (o : AluOp) (s : State) : Host.Outcome State Fault Refusal := s.alu o.q o.a o.b o.c (divQuot o.t)
def execMod (o : AluOp) (s : State) : Host.Outcome State Fault Refusal := s.alu o.q o.a o.b o.c (divRem o.t)

/-- The absolute value, the minimum mapping to itself (R247). -/
def absVal (t : Ty) (x : Word) : Word :=
  if t.isFloat then BitVec.ofNat 64 (f32Abs x.toNat) else put t ((ival t x).natAbs : Int)

/-- The negation, the minimum mapping to itself (R247). -/
def negVal (t : Ty) (x : Word) : Word := if t.isFloat then BitVec.ofNat 64 (f32Neg x.toNat) else put t (-ival t x)

def execAbs (o : UnOp) (s : State) : Host.Outcome State Fault Refusal := s.alu1 o.q o.a o.b (absVal o.t)
def execNeg (o : UnOp) (s : State) : Host.Outcome State Fault Refusal := s.alu1 o.q o.a o.b (negVal o.t)
def execMin (o : AluOp) (s : State) : Host.Outcome State Fault Refusal := s.alu o.q o.a o.b o.c (arith o.t min f32Min)
def execMax (o : AluOp) (s : State) : Host.Outcome State Fault Refusal := s.alu o.q o.a o.b o.c (arith o.t max f32Max)

/-- The number of leading zeros (R248). -/
def clzVal (x : Word) : Word := BitVec.ofNat 64 (if x = 0 then 64 else 63 - x.toNat.log2)

/-- The number of trailing zeros (R248): the lowest set bit is `x AND -x`. -/
def ctzVal (x : Word) : Word := BitVec.ofNat 64 (if x = 0 then 64 else (x &&& -x).toNat.log2)

/-- The number of ones (R248). -/
def popcVal (x : Word) : Word := BitVec.ofNat 64 ((List.range 64).countP fun i => x.getLsbD i)

def execClz (o : UnOp) (s : State) : Host.Outcome State Fault Refusal := s.alu1 o.q o.a o.b clzVal
def execCtz (o : UnOp) (s : State) : Host.Outcome State Fault Refusal := s.alu1 o.q o.a o.b ctzVal
def execPopc (o : UnOp) (s : State) : Host.Outcome State Fault Refusal := s.alu1 o.q o.a o.b popcVal

/-! ## Logic and shifts (R249 to R252) -/

def execAnd (o : BinOp) (s : State) : Host.Outcome State Fault Refusal := s.alu o.q o.a o.b o.c (· &&& ·)
def execAndn (o : BinOp) (s : State) : Host.Outcome State Fault Refusal := s.alu o.q o.a o.b o.c fun x y => x &&& ~~~y
def execOr (o : BinOp) (s : State) : Host.Outcome State Fault Refusal := s.alu o.q o.a o.b o.c (· ||| ·)
def execXor (o : BinOp) (s : State) : Host.Outcome State Fault Refusal := s.alu o.q o.a o.b o.c (· ^^^ ·)

/-- Any Boolean function of three bits, by the table's bit at index B*4 + C*2 + D (R252). -/
def log3Val (tt : Byte) (x y z : Word) : Word :=
  let m (i : Nat) (w : Word) : Word := if tt.getLsbD i then w else 0
  m 0 (~~~x &&& ~~~y &&& ~~~z) ||| m 1 (~~~x &&& ~~~y &&& z) ||| m 2 (~~~x &&& y &&& ~~~z) ||| m 3 (~~~x &&& y &&& z)
    ||| m 4 (x &&& ~~~y &&& ~~~z) ||| m 5 (x &&& ~~~y &&& z) ||| m 6 (x &&& y &&& ~~~z) ||| m 7 (x &&& y &&& z)

def execLog3 (o : Log3Op) (s : State) : Host.Outcome State Fault Refusal :=
  finish s (s.guarded o.q do
    s.touchG o.a
    s.touchG o.d
    let (x, y, t) ← s.read2 o.b o.c
    return (t.setG o.a (log3Val o.tt x y (s.g o.d))).advance)

def execShl (o : BinOp) (s : State) : Host.Outcome State Fault Refusal := s.alu o.q o.a o.b o.c fun x y => x <<< (y.toNat % 64)
def execShr (o : BinOp) (s : State) : Host.Outcome State Fault Refusal := s.alu o.q o.a o.b o.c fun x y => x >>> (y.toNat % 64)
def execSra (o : BinOp) (s : State) : Host.Outcome State Fault Refusal := s.alu o.q o.a o.b o.c fun x y => x.sshiftRight (y.toNat % 64)

/-- The kept word of the pair B:C shifted left (R251). -/
def fshlVal (x y : Word) (n : Nat) : Word := BitVec.ofNat 64 ((x.toNat * 2 ^ 64 + y.toNat) * 2 ^ n % 2 ^ 128 / 2 ^ 64)

/-- The kept word of the pair B:C shifted right (R251). -/
def fshrVal (x y : Word) (n : Nat) : Word := BitVec.ofNat 64 ((x.toNat * 2 ^ 64 + y.toNat) / 2 ^ n)

/-- The funnel shifts; the count is D mod 64 or the immediate (R251). -/
def State.funnel (s : State) (o : FshOp) (f : Word → Word → Nat → Word) : Host.Outcome State Fault Refusal :=
  finish s (s.guarded o.q do
    s.touchG o.a
    let n ← s.regImm o.n
    let (x, y, t) ← s.read2 o.b o.c
    return (t.setG o.a (f x y (n.toNat % 64))).advance)

def execFshl (o : FshOp) (s : State) : Host.Outcome State Fault Refusal := s.funnel o fshlVal
def execFshr (o : FshOp) (s : State) : Host.Outcome State Fault Refusal := s.funnel o fshrVal

/-! ## Compare, select, convert and move (R253 to R257) -/

/-- CMP writes a predicate (R253). -/
def State.compare (s : State) (o : CmpOp) (cc : Cc) : Host.Outcome State Fault Refusal :=
  finish s (s.guarded o.q do
    s.touchP o.p
    let (x, y, t) ← s.readOpd o.b o.c
    return (t.setP o.p (predWord (ccHolds cc (cmpVals o.t x y)))).advance)

def execCmpEq (o : CmpOp) (s : State) : Host.Outcome State Fault Refusal := s.compare o .eq
def execCmpNe (o : CmpOp) (s : State) : Host.Outcome State Fault Refusal := s.compare o .ne
def execCmpLt (o : CmpOp) (s : State) : Host.Outcome State Fault Refusal := s.compare o .lt
def execCmpLe (o : CmpOp) (s : State) : Host.Outcome State Fault Refusal := s.compare o .le
def execCmpGt (o : CmpOp) (s : State) : Host.Outcome State Fault Refusal := s.compare o .gt
def execCmpGe (o : CmpOp) (s : State) : Host.Outcome State Fault Refusal := s.compare o .ge

/-- SEL (R254): channels in B and C are consumed whichever source is chosen. -/
def execSel (o : SelOp) (s : State) : Host.Outcome State Fault Refusal :=
  finish s (s.guarded o.q do
    s.touchG o.a
    s.touchP o.p
    let (x, y, t) ← s.read2 o.b o.c
    return (t.setG o.a (if bit (s.p o.p) 0 then x else y)).advance)

/-- CVT and CVT.SAT (R255). -/
def cvtVal (t u : Ty) (sat : Bool) (x : Word) : Word := putBits t (convert u t sat (x.toNat % 2 ^ tyBits u))

def execCvt (o : CvtOp) (s : State) : Host.Outcome State Fault Refusal := s.alu1 o.q o.a o.b (cvtVal o.t o.s false)
def execCvtSat (o : CvtOp) (s : State) : Host.Outcome State Fault Refusal := s.alu1 o.q o.a o.b (cvtVal o.t o.s true)

/-- LDI (R256). -/
def execLdi (a : GReg) (v : Word) (s : State) : Host.Outcome State Fault Refusal :=
  finish s do
    s.touchG a
    return (s.setG a v).advance

/-- MOV, N form (R257). -/
def execMov (a b : GReg) (s : State) : Host.Outcome State Fault Refusal := s.alu1 .always a (.g b) id

/-- MOV, X form: a channel source or a predicated copy (R257). -/
def execMovX (o : UnOp) (s : State) : Host.Outcome State Fault Refusal := s.alu1 o.q o.a o.b id

/-! ## Fat pointers (R258 to R261) -/

/-- PSTEP (R258): channel words consumed by a head that faults stay consumed, so the fault is taken in the state after the reads. -/
def execPstep (o : BinOp) (s : State) : Host.Outcome State Fault Refusal :=
  finish s (s.guarded o.q do
    s.touchG o.a
    let (x, y, t) ← s.readOpd o.b o.c
    let va := pstepVa x y.toInt
    if va < 0 ∨ 2 ^ 56 ≤ va then .error (.wait (t.faultHere cPtrOverflow 0 x t.me.pc))
    else .ok (t.setG o.a (mkPtr (field x 56 8) va.toNat)).advance)

/-- A new format and blog over a VA (R259). -/
def ptagVal (x y : Word) : Word := mkPtr (y.toNat % 256) (ptrVa x)

def execPtag (o : BinOp) (s : State) : Host.Outcome State Fault Refusal := s.alu o.q o.a o.b o.c ptagVal

/-- A derived address; none past the VA space or for a pointer that an access rejects (R260). -/
def pgetAddr (p : Word) (a : Nat) : Word := if ptrLegal p && decide (a < 2 ^ 56) then BitVec.ofNat 64 a else BitVec.allOnes 64

/-- A field or a derived address of a pointer (R260). -/
def pgetVal (x y : Word) : Word :=
  match y.toNat % 8 with
  | 0 => BitVec.ofNat 64 (ptrVa x)
  | 1 => BitVec.ofNat 64 (ptrFmt x)
  | 2 => BitVec.ofNat 64 (ptrBlog x)
  | 3 => pgetAddr x (codeByte (ptrFmt x) (ptrBlog x) (ptrVa x))
  | 4 => pgetAddr x (if ptrBlog x = 0 then ptrVa x else scaleByte (ptrFmt x) (ptrBlog x) (ptrVa x))
  | _ => 0

def execPget (o : BinOp) (s : State) : Host.Outcome State Fault Refusal := s.alu o.q o.a o.b o.c pgetVal

/-- The distance in elements from C to B (R261). -/
def pdiffVal (x y : Word) : Word :=
  let d : Int := (ptrVa x : Int) - ptrVa y
  BitVec.ofInt 64 (if ptrBlog x ≠ 0 then d else d * 8 / fmtWidth (ptrFmt x))

def execPdiff (o : BinOp) (s : State) : Host.Outcome State Fault Refusal := s.alu o.q o.a o.b o.c pdiffVal

end Sys2Proof.Machine
end

