-- ==== Sys2Proof/Machine/Sha.lean ====
section
/-! DEFINITION. SHA-384 over bytes, which links the records of an access log and makes the measurements (R428, R432). -/

namespace Sys2Proof.Machine

def shaK : List Word :=
  [0x428a2f98d728ae22, 0x7137449123ef65cd, 0xb5c0fbcfec4d3b2f, 0xe9b5dba58189dbbc] ++
  [0x3956c25bf348b538, 0x59f111f1b605d019, 0x923f82a4af194f9b, 0xab1c5ed5da6d8118] ++
  [0xd807aa98a3030242, 0x12835b0145706fbe, 0x243185be4ee4b28c, 0x550c7dc3d5ffb4e2] ++
  [0x72be5d74f27b896f, 0x80deb1fe3b1696b1, 0x9bdc06a725c71235, 0xc19bf174cf692694] ++
  [0xe49b69c19ef14ad2, 0xefbe4786384f25e3, 0x0fc19dc68b8cd5b5, 0x240ca1cc77ac9c65] ++
  [0x2de92c6f592b0275, 0x4a7484aa6ea6e483, 0x5cb0a9dcbd41fbd4, 0x76f988da831153b5] ++
  [0x983e5152ee66dfab, 0xa831c66d2db43210, 0xb00327c898fb213f, 0xbf597fc7beef0ee4] ++
  [0xc6e00bf33da88fc2, 0xd5a79147930aa725, 0x06ca6351e003826f, 0x142929670a0e6e70] ++
  [0x27b70a8546d22ffc, 0x2e1b21385c26c926, 0x4d2c6dfc5ac42aed, 0x53380d139d95b3df] ++
  [0x650a73548baf63de, 0x766a0abb3c77b2a8, 0x81c2c92e47edaee6, 0x92722c851482353b] ++
  [0xa2bfe8a14cf10364, 0xa81a664bbc423001, 0xc24b8b70d0f89791, 0xc76c51a30654be30] ++
  [0xd192e819d6ef5218, 0xd69906245565a910, 0xf40e35855771202a, 0x106aa07032bbd1b8] ++
  [0x19a4c116b8d2d0c8, 0x1e376c085141ab53, 0x2748774cdf8eeb99, 0x34b0bcb5e19b48a8] ++
  [0x391c0cb3c5c95a63, 0x4ed8aa4ae3418acb, 0x5b9cca4f7763e373, 0x682e6ff3d6b2b8a3] ++
  [0x748f82ee5defb2fc, 0x78a5636f43172f60, 0x84c87814a1f0ab72, 0x8cc702081a6439ec] ++
  [0x90befffa23631e28, 0xa4506cebde82bde9, 0xbef9a3f7b2c67915, 0xc67178f2e372532b] ++
  [0xca273eceea26619c, 0xd186b8c721c0c207, 0xeada7dd6cde0eb1e, 0xf57d4f7fee6ed178] ++
  [0x06f067aa72176fba, 0x0a637dc5a2c898a6, 0x113f9804bef90dae, 0x1b710b35131c471b] ++
  [0x28db77f523047d84, 0x32caab7b40c72493, 0x3c9ebe0a15c9bebc, 0x431d67c49c100d4c] ++
  [0x4cc5d4becb3e42b6, 0x597f299cfc657e2a, 0x5fcb6fab3ad6faec, 0x6c44198c4a475817]

def shaH : List Word :=
  [0xcbbb9d5dc1059ed8, 0x629a292a367cd507, 0x9159015a3070dd17, 0x152fecd8f70e5939, 0x67332667ffc00b31, 0x8eb44a8768581511, 0xdb0c2e0d64f98fa7, 0x47b5481dbefa4fa4]

def rotR (x : Word) (n : Nat) : Word := x.rotateRight n

/-- The message with its padding: a 1 bit, zeros, and the length in bits as 128 bits, most significant byte first. -/
def shaPad (m : List Byte) : List Byte :=
  let z := (128 - (m.length + 17) % 128) % 128
  m ++ [0x80] ++ List.replicate z 0 ++ (List.range 16).map fun i => BitVec.ofNat 8 (8 * m.length / 256 ^ (15 - i))

/-- Big-endian words of a message. -/
def shaWords : List Byte → List Word
  | a :: b :: c :: d :: e :: f :: g :: h :: r => (a ++ b ++ c ++ d ++ e ++ f ++ g ++ h) :: shaWords r
  | _ => []

/-- The message schedule, last word first. -/
def shaExtend : Nat → List Word → List Word
  | 0, w => w
  | n + 1, w =>
    let a := w.getD 14 0
    let b := w.getD 1 0
    let s0 := rotR a 1 ^^^ rotR a 8 ^^^ (a >>> 7)
    let s1 := rotR b 19 ^^^ rotR b 61 ^^^ (b >>> 6)
    shaExtend n ((w.getD 15 0 + s0 + w.getD 6 0 + s1) :: w)

/-- One round on a to h. -/
def shaRound (v : List Word) (x : Word × Word) : List Word :=
  match v with
  | [a, b, c, d, e, f, g, h] =>
    let s1 := rotR e 14 ^^^ rotR e 18 ^^^ rotR e 41
    let t1 := h + s1 + ((e &&& f) ^^^ (~~~e &&& g)) + x.1 + x.2
    let s0 := rotR a 28 ^^^ rotR a 34 ^^^ rotR a 39
    let t2 := s0 + ((a &&& b) ^^^ (a &&& c) ^^^ (b &&& c))
    [t1 + t2, a, b, c, d + t1, e, f, g]
  | _ => v

/-- Blocks of sixteen words in order; `n` bounds their number. -/
def shaBlocks : Nat → List Word → List Word → List Word
  | 0, h, _ => h
  | n + 1, h, m =>
    if m.length < 16 then h
    else
      let w := (shaExtend 64 (m.take 16).reverse).reverse
      shaBlocks n ((h.zip ((shaK.zip w).foldl shaRound h)).map fun x => x.1 + x.2) (m.drop 16)

/-- The 48 bytes of a digest. -/
def sha384 (m : List Byte) : List Byte :=
  let p := shaPad m
  let h := shaBlocks (p.length / 128) shaH (shaWords p)
  (h.take 6).flatMap fun w => (List.range 8).map fun i => w.extractLsb' (8 * (7 - i)) 8

end Sys2Proof.Machine
end

