-- ==== Sys2Proof/Machine/Trust.lean ====
section
/-! DEFINITION. Partition swap, restore and repair (R402 to R404, R434), partition, stitch and log registers (R13, R407, R421, R422), keys (R424 to
R426), logs (R223, R427, R428), SCRUB (R429 to R431), measurements and live update (R432, R433), the thermal trip (R436), reset (R15). -/

namespace Sys2Proof.Machine

/-! ## Bytes of the banks and of memory -/

/-- Write back the dirty lines and queued write-backs that a test names, and drop the lines with their copies. -/
def State.flush (s : State) (f : CLine → Bool) : State :=
  let old := s.wbq.filter f ++ s.lines.filter fun l => l.dirty && f l
  let s := old.foldl (fun (s : State) l => s.storeBack l) s
  { s with lines := s.lines.filter fun l => !f l, wbq := s.wbq.filter fun l => !f l }

/-- The bytes of a word, the lowest first. -/
def wordBytes (w : Word) : List Byte := (List.range 8).map fun i => w.extractLsb' (8 * i) 8

/-- The bytes of a digest in order. -/
def linkBytes (d : BitVec 384) : List Byte := (List.range 48).map fun i => d.extractLsb' (8 * (47 - i)) 8

/-- A digest of bytes, the first byte highest. -/
def digestOf (m : List Byte) : BitVec 384 := BitVec.ofNat 384 ((sha384 m).foldl (fun a b => 256 * a + b.toNat) 0)

/-! ## Swap (R402) -/

/-- The scratchpad of a core as a range of PAs. -/
def spadOf (c : Nat) (a : Nat) : Bool := decide (spad (BitVec.ofNat 11 c) 0 ≤ a) && decide (a < spad (BitVec.ofNat 11 c) 0 + 2 ^ 19)

/-- Is everything of a core drained: nothing runs, every queue and buffer is empty, and nothing is owed? -/
def Core.drained (k : Core) : Bool :=
  k.run.isNone && k.mxq.isEmpty && k.mxrq.isEmpty && k.vxq.isEmpty && k.cxq.isEmpty && k.fifo.isEmpty && k.xfers.isEmpty && k.srb.isEmpty && k.emark.isEmpty
    && k.late.isEmpty && k.loads.isEmpty && k.orc == 0 && k.owed.isEmpty && k.decrs.isEmpty

/-- The core that a held access belongs to (R189). -/
def heldCore : Event → Option CoreId
  | .translationMiss m => some m.who.core
  | .lateRequestAtHome r => some r.who.core
  | _ => none

/-- Is an access of a core held for host-assisted service? -/
def State.holds (s : State) (c : Nat) : Bool := s.slices.any fun k => k.2.holdb.any fun h => (heldCore h.2.2).map (·.toNat) == some c

/-- Is step 1 of R402 over at a core? -/
def State.coreDrained (s : State) (c : Nat) : Bool := (s.core (BitVec.ofNat 11 c)).drained && !s.holds c

/-- Stop issue on cores. -/
def State.stopCores (s : State) (l : List Nat) (on : Bool) : State :=
  l.foldl (fun (s : State) c => s.modCore (BitVec.ofNat 11 c) fun k => { k with stop := on }) s

/-- A core with its tables and buffers empty; its registers of CAP, its counters and its issue stay. -/
def Core.blank (k : Core) : Core := { Core.reset with
  dev := k.dev, sblk := k.sblk, part := k.part, mxs := k.mxs, avail := k.avail, stop := k.stop, evc := k.evc, mxevc := k.mxevc, rlog := k.rlog, ids := k.ids, rcc := k.rcc }

/-- A core as its image holds it: without the ATC, the read-only cache and the operand rows of MXPROG; its accumulators have images of their own. CAP.mxs
is not in R402's list of saved state: the model saves it with the core, so that the split mode that owns accumulators and queues outlasts a swap
(DESIGN CHOICE, log 60). -/
def Core.image (k : Core) : Core := { k with
  atc := [], ro := [], accs := []
  mxprog := { k.mxprog with arow := 0, brow := 0, item := k.mxprog.item.map fun x => { x with arows := [], brows := [] } } }

/-- The class bits of an element's image (R141). -/
def clsBits : Cls → Nat
  | .fin => 0
  | .pinf => 1
  | .ninf => 2
  | .nan => 3

/-- The 1,025 words of an accumulator's image (R141). -/
def Acc.words (a : Acc) : List Word :=
  let own : Nat := match a.own with
    | .none => 0
    | .task h => 2 ^ 31 + h.toNat * 2 ^ 24
    | .remote => 2 ^ 17
  BitVec.ofNat 64 (own + (if a.unset then 2 ^ 16 else 0) + a.e.toNat) :: a.elems.map fun x => BitVec.ofNat 64 (clsBits x.1 * 2 ^ 62 + x.2.toNat)

/-- An accumulator from its image. -/
def Acc.ofWords (ws : List Word) : Acc :=
  let w := ws.headD 0
  { elems := (ws.drop 1).map fun x =>
      ((match field x 62 2 with | 0 => .fin | 1 => .pinf | 2 => .ninf | _ => .nan), BitVec.ofNat 48 (field x 0 48))
    e := BitVec.ofNat 16 (field w 0 16)
    unset := bit w 16
    own := if bit w 31 then .task (BitVec.ofNat 6 (field w 24 6)) else if bit w 17 then .remote else .none }

/-- Lines that a partition's banks hold. -/
def State.ownLine (s : State) (p : Pid) (l : CLine) : Bool := (s.partSlices p).contains l.sl

/-- SWAP_OUT (R402): issue stops, and once the cores are drained the partition's state goes to the shadow store. -/
def execSwapOut (s : State) : Host.Outcome State Fault Refusal :=
  match s.ev with
  | some (.swapOut p) =>
    let cs := s.partCores p
    let sls := s.partSlices p
    if !cs.all fun c => s.coreDrained c then .next ((s.stopCores cs true).emit (.swapOut p))
    else
      let mine (a : Nat) : Bool := paRegion a == 1 && s.inPart p (a / 2 ^ 19 % 2048)
      let img : Image := {
        key := Config.imageKey s.free
        accs := cs.flatMap fun c => (s.core (BitVec.ofNat 11 c)).accs.map fun a => (4 * c + a.1, a.2.words)
        cores := cs.map fun c => (c, (s.core (BitVec.ofNat 11 c)).image)
        cells := s.mem.filter fun x => mine x.1
        poison := s.poison.filter fun g => mine (32 * g)
        qbuf := s.qbuf.filter fun e => e.pid == p
        lqs := s.lqs.filter fun x => x.1 / 8 == p.toNat
        recs := s.recs.filter fun x => sls.contains (x.1 / 2 ^ 15)
        objs := s.objs.filter fun x => x.2.pid == p
        rings := sls.map fun sl => (sl, ((s.slice sl).ring, (s.slice sl).head, (s.slice sl).tail))
        stitch := (s.slice (s.kernel p)).stitch }
      let t := s.flush (s.ownLine p)
      let t := { t with
        mem := t.mem.filter fun x => !mine x.1
        poison := t.poison.filter fun g => !mine (32 * g)
        qbuf := t.qbuf.filter fun e => e.pid != p
        lqs := t.lqs.filter fun x => x.1 / 8 != p.toNat
        recs := t.recs.filter fun x => !sls.contains (x.1 / 2 ^ 15)
        objs := t.objs.filter fun x => x.2.pid != p
        free := t.free + 1
        shadow := Tab.set t.shadow p.toNat img }
      let t := cs.foldl (fun (t : State) c => t.modCore (BitVec.ofNat 11 c) fun k => { k.blank with stop := true }) t
      .next (sls.foldl (fun (t : State) sl => t.modSlice sl fun k => { k with ring := [], head := 0, tail := 0 }) t)
  | _ => .next s

/-! ## Relocation (R404) -/

/-- May a task move to another core: in state 1 to 4, in no gang, the owner of no accumulator, and bound to no channel? Its channels are
those that name it as their handler and those whose ring lies in its workspace (R298). -/
def Core.mayMove (k : Core) (h : Hidx) : Bool :=
  let e := k.ent h
  (e.st == 1 || e.st == 2 || e.st == 3 || e.st == 4) && e.gang.isNone && !(k.accs.any fun a => a.2.own == .task h)
    && !(k.chans.any fun x => x.2.v && ((x.2.bh && x.2.hidx == h)
      || (decide (e.wpb.toNat ≤ x.2.base.toNat / 64) && decide (x.2.base.toNat / 64 < e.wpb.toNat + e.nblk))))

/-- Move a task: its workspace with its poison, fault record and store-fault records go to another core's entry and blocks. -/
def State.moveTask (s : State) (c : CoreId) (h : Hidx) (c' : CoreId) (h' : Hidx) (b : Nat) : State :=
  let e := s.ent c h
  let rs := (s.core c).sfq.filter fun r => r.hidx == h
  let bytes := (List.range (4096 * e.nblk)).map fun i => Mem.read s.mem (wsAddr c e.wpb i)
  let w : BitVec 7 := BitVec.ofNat 7 b
  let g := wsAddr c e.wpb 0 / 32
  let g' := wsAddr c' w 0 / 32
  let inWs (g x : Nat) : Bool := decide (g ≤ x) && decide (x < g + 128 * e.nblk)
  let poi := ((s.poison.filter (inWs g)).map fun x => x - g + g') ++ s.poison.filter fun x => !inWs g' x
  let s := s.modCore c fun k => { k.setEnt h .reset with sfq := k.sfq.filter fun r => r.hidx != h, cxerr := k.cxerr.filter fun r => r.hidx != h }
  let s := (bytes.zip (List.range bytes.length)).foldl (fun (s : State) x => { s with mem := Mem.write s.mem (wsAddr c' w x.2) x.1 }) { s with poison := poi }
  let s := s.modCore c' fun k => { k.setEnt h' { e with wpb := w } with sfq := k.sfq ++ rs.map fun r => { r with hidx := h' } }
  s.setWs c' w offTstat (putField (s.ws c' w offTstat) 42 6 h'.toNat)

/-- Treat a task that its core cannot keep: it moves to the first core with room, or completes with status FAULT and a record of CAPACITY. -/
def State.relocate (s : State) (p : Pid) (c : CoreId) (h : Hidx) : State :=
  let n := (s.ent c h).nblk
  let target := if (s.core c).mayMove h then (s.partCores p).find? fun x => x != c.toNat && (s.roomAt x n).isSome else none
  match target with
  | some x =>
    match s.roomAt x n with
    | some (h', b) => s.moveTask c h (BitVec.ofNat 11 x) h' b
    | none => s
  | none => ((s.sysRec p [23, putField 0 0 16 cCapacity.toNat, putField (putField 0 0 16 h.toNat) 16 16 c.toNat]).dropDue c h).finishTask c h .fault

/-- Erase the scratchpad bytes of a core from a block up. -/
def State.eraseAbove (s : State) (c : Nat) (blk : Nat) : State :=
  { s with mem := s.mem.filter fun x => !(spadOf c x.1 && decide (spad (BitVec.ofNat 11 c) 0 + 4096 * blk ≤ x.1)) }

/-- RESTORE (R402, R404): the reverse, with every buoy at its ceiling and the whole usable scratchpad rewritten (R145); CAP.mxs comes back from the image
(DESIGN CHOICE, log 60); the image and its key are gone; tasks that a repaired core cannot hold are relocated or terminated. -/
def execRestore (s : State) : Host.Outcome State Fault Refusal :=
  match s.ev with
  | some (.restore p) =>
    match Tab.find s.shadow p.toNat with
    | none => .next s
    | some img =>
      let mine (a : Nat) : Bool := paRegion a == 1 && s.inPart p (a / 2 ^ 19 % 2048)
      let t := { s with
        mem := img.cells.foldl (fun m x => Mem.write m x.1 x.2) (s.mem.filter fun x => !mine x.1)
        poison := img.poison ++ s.poison.filter fun g => !mine (32 * g)
        qbuf := s.qbuf ++ img.qbuf
        lqs := img.lqs.foldl (fun l x => Tab.set l x.1 x.2) s.lqs
        recs := img.recs.foldl (fun l x => Tab.set l x.1 x.2) s.recs
        objs := img.objs.foldl (fun l x => Tab.set l x.1 x.2) s.objs
        shadow := Tab.del s.shadow p.toNat }
      let t := img.rings.foldl (fun (t : State) x => t.modSlice x.1 fun k => { k with ring := x.2.1, head := x.2.2.1, tail := x.2.2.2 }) t
      let t := t.modSlice (t.kernel p) fun k => { k with stitch := img.stitch }
      let t := img.cores.foldl (fun (t : State) x => t.modCore (BitVec.ofNat 11 x.1) fun k => { x.2 with
        sblk := k.sblk, part := k.part, dev := k.dev, avail := k.avail, evc := k.evc, mxevc := k.mxevc, rlog := k.rlog, rcc := k.rcc, stop := false, last := 63
        accs := (img.accs.filter fun a => a.1 / 4 == x.1).map fun a => (a.1 % 4, Acc.ofWords a.2)
        buoys := x.2.buoys.map fun (b : Nat × Buoy) => (b.1, { b.2 with val := b.2.ceil }) }) t
      let late := img.cores.flatMap fun x =>
        let k := t.core (BitVec.ofNat 11 x.1)
        (allIdx.filter fun h => (k.ent h).v && decide (k.sblk.toNat < (k.ent h).wpb.toNat + (k.ent h).nblk)).map fun h => (x.1, h)
      let t := if late.isEmpty then t else t.sysRec p [24, putField 0 0 16 cCapacity.toNat]
      let t := late.foldl (fun (t : State) x => t.relocate p (BitVec.ofNat 11 x.1) x.2) t
      let t := img.cores.foldl (fun (t : State) x => t.eraseAbove x.1 (t.core (BitVec.ofNat 11 x.1)).sblk.toNat) t
      let t := img.cores.foldl (fun (t : State) x =>
        let c : CoreId := BitVec.ofNat 11 x.1
        allIdx.foldl (fun (t : State) h => if (t.ent c h).v ∧ (t.ent c h).st = 2 then t.release c (t.ent c h).pbu else t) t) t
      .next ((t.modWin p fun w => { w with lastAny := none }).emit (.placement p))
  | _ => .next s

/-- CORE_FENCE (R434): the core is drained, its tasks are relocated, and placement passes it over. -/
def execCoreFence (s : State) : Host.Outcome State Fault Refusal :=
  match s.ev with
  | some (.coreFence c) =>
    let t := s.modCore c fun k => { k with stop := true, avail := false }
    if !s.coreDrained c.toNat then .next (t.emit (.coreFence c))
    else .next ((allIdx.filter fun h => (s.ent c h).v).foldl (fun (t : State) h => t.relocate (s.core c).part c h) t)
  | _ => .next s

/-- CORE_REENABLE (R434): the retired blocks' contents are lost (R145). -/
def execCoreReenable (s : State) : Host.Outcome State Fault Refusal :=
  match s.ev with
  | some (.coreReenable c n) =>
    if (s.core c).avail then .next s
    else
      let t := s.modCore c fun k => { k with sblk := n, avail := true, stop := false }
      .next ((t.eraseAbove c.toNat n.toNat).emit (.placement (s.core c).part))
  | _ => .next s

/-! ## Access logs (R223, R428) -/

/-- Write a record of the log: its field part and its link. It is one line of the ring. -/
def State.writeLog (s : State) (sl : Nat) (w0 w1 : Word) (first : Bool) : State :=
  let k := s.slice sl
  let f := wordBytes w0 ++ wordBytes w1
  let link := digestOf ((if first then List.replicate 48 0 else linkBytes k.llink) ++ f)
  let c2 := Tab.get 0 k.logctl 2
  let widx := field c2 0 22
  let size := 64 * field (Tab.get 0 k.logctl 1) 0 17
  let ln := 64 * field (Tab.get 0 k.logctl 0) 12 44 + widx
  let s := ((s.dropLine (placeOf (64 * ln / 2 ^ 33 % 64) ln)).dropCopies ln none).storeLine ln (lineMk fun i => (f ++ linkBytes link).getD i 0) 0 none false
  { s with wbq := s.wbq.filter fun x => x.ln != ln }.modSlice sl fun k => { k with
    llink := link, anchor := k.anchor && !first
    logctl := Tab.set k.logctl 2 (putField (putField c2 32 32 (field c2 32 32 + 1)) 0 22 ((widx + 1) % size)) }

/-- Is the ring full? -/
def logFull (k : Slice) : Bool :=
  (field (Tab.get 0 k.logctl 2) 0 22 + 1) % (64 * field (Tab.get 0 k.logctl 1) 0 17) == field (Tab.get 0 k.logctl 3) 0 22

/-- Is appending on? -/
def Slice.logging (k : Slice) : Bool := bit (Tab.get 0 k.logctl 0) 63

/-- A record that is dropped is counted. -/
def State.dropLog (s : State) (sl : Nat) : State :=
  s.modSlice sl fun k =>
    let c := Tab.get 0 k.logctl 3
    { k with logctl := Tab.set k.logctl 3 (putField c 32 32 (min (field c 32 32 + 1) (2 ^ 32 - 1))) }

/-- After records were lost the first that fits is a gap record. -/
def State.logGap (s : State) (sl : Nat) : State :=
  let lost := field (Tab.get 0 (s.slice sl).logctl 3) 32 32
  if lost ≠ 0 ∧ logFull (s.slice sl) = false then
    let t := s.writeLog sl (BitVec.ofNat 64 (3 * 2 ^ 62)) (BitVec.ofNat 64 lost) false
    t.modSlice sl fun k => { k with logctl := Tab.set k.logctl 3 (putField (Tab.get 0 k.logctl 3) 32 32 0) }
  else s

/-- The anchor of a chain that is due is written as soon as appending is on and the ring has room. -/
def State.logAnchor (s : State) (sl : Nat) : State :=
  if !(s.slice sl).logging || !(s.slice sl).anchor then s
  else
    let s := s.logGap sl
    if logFull (s.slice sl) then s
    else ({ s with free := s.free + 1 }).writeLog sl (BitVec.ofNat 64 (2 * 2 ^ 62 + s.time.toNat % 2 ^ 62)) (Config.random s.free) true

/-- A chain is to begin anew (R428): its anchor is written at once where it can be. -/
def State.openChain (s : State) (sl : Nat) : State := (s.modSlice sl fun k => { k with anchor := true }).logAnchor sl

/-- Append a record, of which its own sequence number may be a part, behind a gap record and an anchor that are due. -/
def State.appendLog (s : State) (sl : Nat) (w0 : Word) (w1 : Nat → Word) : State :=
  if !(s.slice sl).logging then s
  else
    let s := (s.logGap sl).logAnchor sl
    if logFull (s.slice sl) then s.dropLog sl else s.writeLog sl w0 (w1 (field (Tab.get 0 (s.slice sl).logctl 2) 32 32)) false

/-! ## Partition and stitch descriptors (R407, R422) -/

/-- Are a descriptor's fields well-formed? -/
def pdescOk (d : List Word) : Bool :=
  let w (i : Nat) : Word := d.getD i 0
  let sl (i : Nat) : Bool := bit (w 1) i
  field (w 0) 2 48 == 0 && field (w 2) 48 16 == 0 && field (w 3) 28 36 == 0
    && (List.range 8).all (fun i => field (w (4 + i)) 0 42 == 0)
    && (descRects d).all (fun r => decide (r.x0.toNat ≤ r.x1.toNat) && decide (r.y0.toNat ≤ r.y1.toNat))
    && (List.range 8).all (fun q => sl (field (w 2) (6 * q) 6))
    && (List.range 4).all fun i => !bit (w 3) (7 * i + 6) || sl (field (w 3) (7 * i) 6)

/-- Does a descriptor name a core, or a slice? -/
def descCore (d : List Word) (c : Nat) : Bool := (descRects d).any fun r => rectHas r c
def descSlice (d : List Word) (sl : Nat) : Bool := bit (d.getD 1 0) sl

/-- Does another descriptor in force share a core or a slice with a new one? -/
def State.descMeets (s : State) (sl : Nat) (d : List Word) : Bool :=
  s.slices.any fun x => x.1 != sl && inForce x
    && ((d.getD 1 0 &&& x.2.pdesc.getD 1 0) != 0 || (List.range 2048).any fun c => descCore d c && descCore x.2.pdesc c)

/-- Does an extent hold a handler entry, a derivation record or a counter object? -/
def State.descBusy (s : State) (d : List Word) : Bool :=
  s.cores.any (fun k => descCore d k.1 && k.2.ents.any fun e => e.2.v)
    || s.recs.any (fun x => descSlice d (x.1 / 2 ^ 15)) || s.objs.any fun x => x.2.v && descSlice d (x.1 / 2 ^ 26)

/-- A write of a partition descriptor: applied, or refused with st set. A partition that comes into force opens its log chain (R428). -/
def State.pdescWrite (s : State) (n : Nat) (ws : List Word) : State :=
  let old := (s.slice n).pdesc
  let d := (List.range 12).map fun i => ws.getD i 0
  let st := if !pdescOk d then 1 else if s.descMeets n d then 2 else if s.descBusy d || (bit (old.getD 0 0) 63 && s.descBusy old) then 3 else 0
  if st ≠ 0 then
    s.modSlice n fun k => { k with pdesc := (List.range 12).map fun i => if i = 0 then putField (old.getD 0 0) 0 2 st else old.getD i 0 }
  else
    let d := putField (d.getD 0 0) 0 2 0 :: d.drop 1
    let on := inForce (n, { Slice.reset with pdesc := d })
    let p : Pid := BitVec.ofNat 4 (field (d.getD 0 0) 59 4)
    let t := s.modSlice n fun k => { k with pdesc := d }
    if on then
      let t := t.openChain n
      ((List.range 2048).filter (descCore d)).foldl (fun (t : State) c => t.modCore (BitVec.ofNat 11 c) fun k => { k with part := p })
        (t.modWin p fun w => { w with lastAny := none })
    else t

/-- PARTITION_DESCRIPTOR_WRITE (R422). -/
def execPartitionDescriptorWrite (s : State) : Host.Outcome State Fault Refusal :=
  match s.ev with
  | some (.partitionDescriptorWrite sl ws) => .next (s.pdescWrite sl.toNat ws)
  | _ => .next s

/-- The region of a stitch descriptor. -/
def stitchRect (w : Word) : Rect :=
  ⟨BitVec.ofNat 6 (field w 52 6), BitVec.ofNat 5 (field w 47 5), BitVec.ofNat 6 (field w 41 6), BitVec.ofNat 5 (field w 36 5)⟩

/-- Does an extent suit its shape? -/
def shapeOk (w : Word) : Bool :=
  let r := stitchRect w
  let x := r.x1.toNat + 1 - r.x0.toNat
  let y := r.y1.toNat + 1 - r.y0.toNat
  decide (r.x0.toNat ≤ r.x1.toNat) && decide (r.y0.toNat ≤ r.y1.toNat) && (match field w 61 2 with
    | 0 => decide (2 ≤ x) && decide (2 ≤ y) && y % 2 == 0
    | 1 => x == y && (List.range 5).any fun m => x == 2 ^ (m + 1)
    | 2 => decide (3 ≤ x) && decide (3 ≤ y)
    | _ => false)

/-- A write of a stitch descriptor: only routes and their costs depend on it. -/
def State.stitchWrite (s : State) (sl : Nat) (n : Nat) (w : Word) : State :=
  let k := s.slice sl
  let old := Tab.get 0 k.stitch n
  let inside (c : Nat) : Bool := rectHas (stitchRect w) c
  let cores := (List.range 2048).filter inside
  let others := k.stitch.filter fun x => x.1 != n && bit x.2 63
  let st :=
    if !shapeOk w || !(cores.all fun c => descCore k.pdesc c) then 1
    else if cores.any (fun c => others.any fun x => rectHas (stitchRect x.2) c) then 2
    else if (s.cores.any fun x => (inside x.1 || (bit old 63 && rectHas (stitchRect old) x.1)) && x.2.ents.any fun e => e.2.v) then 3
    else 0
  s.modSlice sl fun k => { k with stitch := Tab.set k.stitch n (if st = 0 then w &&& 0xFFFFFFF000000000 else putField old 0 2 st) }

/-- STITCH_DESCRIPTOR_WRITE (R407). -/
def execStitchDescriptorWrite (s : State) : Host.Outcome State Fault Refusal :=
  match s.ev with
  | some (.stitchDescriptorWrite sl n w) => .next (s.stitchWrite sl.toNat n.toNat w)
  | _ => .next s

/-! ## Log control and the other registers (R13, R421, R427, R428) -/

/-- A write of a word of log control. -/
def Slice.logWrite (k : Slice) (n : Nat) (w : Word) : Slice :=
  let c (i : Nat) : Word := Tab.get 0 k.logctl i
  let en := bit (c 0) 63
  let size := field (c 1) 0 17
  match n with
  | 0 =>
    let base := if en then field (c 0) 12 44 else field w 12 44
    let on : Bool := bit w 63 && decide (1 ≤ size) && decide (size ≤ 65536)
    { k with logctl := Tab.set k.logctl 0 (BitVec.ofNat 64 ((if on then 2 ^ 63 else 0) + base * 2 ^ 12)) }
  | 1 => if en then k else { k with logctl := Tab.set k.logctl 1 (BitVec.ofNat 64 (field w 0 17)) }
  | 3 => { k with logctl := Tab.set k.logctl 3 (putField (c 3) 0 22 (field w 0 22)) }
  | _ => k

/-- A write of log control, and the anchor for which it makes room (R428). -/
def State.logWrite (s : State) (sl n : Nat) (w : Word) : State := (s.modSlice sl fun k => k.logWrite n w).logAnchor sl

/-- LOG_CONTROL_WRITE (R428). -/
def execLogControlWrite (s : State) : Host.Outcome State Fault Refusal :=
  match s.ev with
  | some (.logControlWrite sl n w) => .next (s.logWrite sl.toNat n.toNat w)
  | _ => .next s

/-- A write of a counter: ovf is W1C, ev and cnt are stored (R224). -/
def evcWrite (e : Evc) (w : Word) : Evc := ⟨e.ovf && !bit w 63, BitVec.ofNat 7 (field w 56 7), BitVec.ofNat 48 (field w 0 48)⟩

/-- The core c of a slice: the 32 cores of the two columns above it, row by row (R421). -/
def sliceCore (sl c : Nat) : CoreId := BitVec.ofNat 11 (32 * (sl / 16 % 2) + 2 * (sl % 16) + c % 2 + 64 * (16 * (sl / 32) + c / 2))

/-- What lies at an offset of a slice's control registers (R421): the word of the partition descriptor, the stitch descriptor, the word of a record of
the slice fault queue, its head, tail and full count, the counters of the slice and of its cores, the word of a key slot, of log control, of a range
descriptor and of the touched-row map, the firmware update window, the control window, or nothing. Every register is 64 bits wide: an offset within one is not listed. -/
inductive SliceReg
  | pdesc (i : Nat) | stitch (i : Nat) | ringAt (n i : Nat) | head | tail | full | sevc (n : Nat) | evc (c n : Nat) | key (n i : Nat) | log (i : Nat)
  | range (d i : Nat) | touched (i : Nat) | firmware | window (off : Nat) | none
  deriving DecidableEq, Repr

def sliceReg (a : Nat) : SliceReg :=
  if a % 8 ≠ 0 then .none
  else if a < 0x60 then .pdesc (a / 8)
  else if 0x100 ≤ a ∧ a < 0x120 then .stitch ((a - 0x100) / 8)
  else if a = 0xF00 then .head
  else if a = 0xF08 then .tail
  else if a = 0xF10 then .full
  else if 0x1000 ≤ a ∧ a < 0x3000 then .ringAt ((a - 0x1000) / 32) (a / 8 % 4)
  else if 0x010000 ≤ a ∧ a < 0x010040 then .sevc (a / 8 % 8)
  else if 0x010800 ≤ a ∧ a < 0x011000 then .evc ((a - 0x010800) / 64) (a / 8 % 8)
  else if 0x020000 ≤ a ∧ a < 0x020800 then .key ((a - 0x020000) / 32) (a / 8 % 4)
  else if 0x030000 ≤ a ∧ a < 0x030020 then .log (a / 8 % 4)
  else if 0x030400 ≤ a ∧ a < 0x030800 then .range ((a - 0x030400) / 32) (a / 8 % 4)
  else if 0x040000 ≤ a ∧ a < 0x040200 then .touched ((a - 0x040000) / 8)
  else if a = 0x050000 then .firmware
  else if 0x060000 ≤ a ∧ a < 0x061000 then .window (a - 0x060000)
  else .none

def Evc.word (e : Evc) : Word := BitVec.ofNat 64 ((if e.ovf then 2 ^ 63 else 0) + e.ev.toNat * 2 ^ 56 + e.cnt.toNat)

/-- The words of a record of the slice fault queue (R200). -/
def SfRec.words (r : SfRec) (v : Bool) : List Word :=
  [BitVec.ofNat 64 ((if v then 2 ^ 63 else 0) + r.kind.toNat * 2 ^ 60 + r.core.toNat * 2 ^ 49 + r.hidx.toNat * 2 ^ 43 + r.sid.toNat * 2 ^ 31
    + r.code.toNat * 2 ^ 15 + r.hold.toNat * 2 ^ 7), r.fva, BitVec.ofNat 64 (r.rref.toNat * 2 ^ 43), r.time]

/-- Word `i` of place `n` of the ring; a place that no record has taken has its reset value. -/
def Slice.ringWord (k : Slice) (n i : Nat) : Word :=
  match Tab.find k.ring n with
  | some r => (r.words (decide (k.head ≤ n + (k.tail - 1 - n) / 256 * 256) && decide (n + (k.tail - 1 - n) / 256 * 256 < k.tail))).getD i 0
  | none => if i = 2 then BitVec.ofNat 64 (0x1FFFFF * 2 ^ 43) else 0

/-- The word that the service kernel or the host reads at an offset of a slice's control registers (R13, R421): an offset that is not listed reads 0. -/
def State.regRead (s : State) (sl : Nat) (off : Nat) : Word :=
  let k := s.slice sl
  match sliceReg off with
  | .pdesc i => k.pdesc.getD i 0
  | .stitch i => Tab.get 0 k.stitch i
  | .ringAt n i => k.ringWord n i
  | .head => BitVec.ofNat 64 (k.head % 256)
  | .tail => BitVec.ofNat 64 (k.tail % 256)
  | .full => k.full.setWidth 64
  | .sevc n => (Tab.get Evc.reset k.sevc n).word
  | .evc c n => (Tab.get Evc.reset (s.core (sliceCore sl c)).evc n).word
  | .key n i =>
    let x : KeySlot := Tab.get .reset s.keys n
    if i = 0 then BitVec.ofNat 64 (x.state.toNat * 2 ^ 62 + x.part.toNat * 2 ^ 58) else if i = 1 then x.inv else 0
  | .log i => Tab.get 0 k.logctl i
  | .range d i => (Tab.get [] k.rdesc d : List Word).getD i 0
  | .touched i => BitVec.ofNat 64 (((List.range 64).filter fun j => k.touched.contains (64 * i + j)).map (2 ^ ·)).sum
  | .window off => match s.sliceOwner sl with
    | some p => if s.kernel p = sl then s.windowWord p off else 0
    | none => 0
  | .firmware => 0
  | .none => 0

/-- A write at an offset of a slice's control registers (R13, R421): what is RW or W1C takes it, and everything else ignores it. -/
def State.regWrite (s : State) (sl : Nat) (off : Nat) (w : Word) : State :=
  match sliceReg off with
  | .pdesc i => s.pdescWrite sl (((List.range 12).map fun j => (s.slice sl).pdesc.getD j 0).set i w)
  | .stitch i => s.stitchWrite sl i w
  | .log i => s.logWrite sl i w
  | .firmware => s.modSlice sl fun k => { k with fwin := k.fwin ++ [w] }
  | .sevc n => s.modSlice sl fun k => { k with sevc := Tab.set k.sevc n (evcWrite (Tab.get .reset k.sevc n) w) }
  | .evc c n => s.modCore (sliceCore sl c) fun k => { k with evc := Tab.set k.evc n (evcWrite (Tab.get .reset k.evc n) w) }
  | .head => s.modSlice sl fun k => { k with head := min k.tail (k.head + (field w 0 8 + 256 - k.head % 256) % 256) }
  | .range d i => s.modSlice sl fun k =>
    let b : List Word := (List.range 4).map fun j => (Tab.get [] k.rdesc d : List Word).getD j 0
    let x : Word := if i = 0 then w &&& 0x8000000000000000 else if i = 1 then w else 0
    { k with rdesc := Tab.set k.rdesc d (b.set i x) }
  | _ => s

/-- The offset of a register by its name (R421). -/
def regOffset : RegTarget → Nat
  | .sevc n => 0x010000 + 8 * n.toNat
  | .evc c n => 0x010800 + 64 * c.toNat + 8 * n.toNat
  | .sfqHead => 0xF00
  | .keySlot n w => 0x020000 + 32 * n.toNat + 8 * w.toNat
  | .touched w => 0x040000 + 8 * w.toNat
  | .other off => off.toNat
  | .migration _ _ => 0x7FFFF8
  | .objectArea _ => 0x7FFFF8
  | .sliceFence _ => 0x7FFFF8

/-- REGISTER_WRITE (R13, R421), and the kernel's acts that have no row of their own: it enables migration and gives its slice an area of whole frames, or
ends migration where it gives none (R416), it places its object area (R211), and it fences a slice that belongs to no partition (R434). -/
def execRegisterWrite (s : State) : Host.Outcome State Fault Refusal :=
  match s.ev with
  | some (.registerWrite sl t w) =>
    .next (match t with
      | .migration first n => s.modSlice sl.toNat fun k => { k with
          migOn := n != 0, area := if k.area.isEmpty ∧ k.migr.all (fun x => x.2.area.isNone) then (List.range n.toNat).map (first.toNat + ·) else k.area }
      | .objectArea a => s.modSlice sl.toNat fun k => { k with objBase := some a.toNat }
      | .sliceFence on => if on && (s.sliceOwner sl.toNat).isSome then s else s.modSlice sl.toNat fun k => { k with fenced := on }
      | t => s.regWrite sl.toNat (regOffset t) w)
  | _ => .next s

/-! ## Keys (R424 to R426) -/

def State.keySlot (s : State) (n : Nat) : KeySlot := Tab.get .reset s.keys n

/-- KEY_LOAD (R423, R424): inside the session of the partition's function at a host port, into an empty slot that no other partition owns. -/
def execKeyLoad (s : State) : Host.Outcome State Fault Refusal :=
  match s.ev with
  | some (.keyLoad p n u key) =>
    let open_ : Bool := (Tab.get Fn.reset s.fns (p.toNat + 1)).sess.isSome || (Tab.get Fn.reset s.fns (32 + p.toNat + 1)).sess.isSome
    let k := s.keySlot n.toNat
    if open_ && k.state == 0 && !(k.owned && k.part != p) then
      let slot : KeySlot := ⟨match u with | .xts => 1 | .gcm => 2, p, 0, u, match u with | .xts => key | .gcm => key &&& BitVec.ofNat 512 (2 ^ 256 - 1), true⟩
      .next { s with keys := Tab.set s.keys n.toNat slot }
    else .next s
  | _ => .next s

/-- A transfer that holds the key of an erased slot stops at the unit that it would begin next (R426). -/
def CxXfer.loseKey (x : CxXfer) (n : Nat) : CxXfer := if x.req.gcm && field (x.req.word 0) 0 6 == n then { x with nokey := true } else x

/-- Erase a slot (R426): the lines under it are written back under the old key and dropped, and what HBM holds under it is read no more (R156). The slot
keeps its owner (DEDUCED, log 47). -/
def State.eraseKey (s : State) (n : Nat) : State :=
  let s := { s with
    keys := Tab.set s.keys n { s.keySlot n with state := 3 }
    cores := s.cores.map fun (c : Nat × Core) => if c.2.xfers.isEmpty then c else (c.1, { c.2 with xfers := c.2.xfers.map fun (x : CxXfer) => x.loseKey n }) }
  let s := s.flush fun l => l.key.toNat == n
  { s with keys := Tab.set s.keys n { s.keySlot n with state := 0, key := 0, inv := 0 } }

/-- KEY_ERASE (R426). -/
def execKeyErase (s : State) : Host.Outcome State Fault Refusal :=
  match s.ev with
  | some (.keyErase n) => .next (s.eraseKey n.toNat)
  | _ => .next s

/-! ## Totals of the intervals (R223) -/

/-- Add counts to a total; the saturation of a counter is kept. -/
def addTotal (t : Nat × Bool) (n : Nat) : Nat × Bool := (min (t.1 + n) (2 ^ 48 - 1), t.2 || decide (2 ^ 48 - 1 < t.1 + n) || n == 2 ^ 32 - 1)

/-- The counts of a partition's cores and homes reach its lowest slice (R223). -/
def State.sendCounts (s : State) (p : Pid) : State :=
  let sl := s.kernel p
  let rd := (s.partCores p).flatMap fun c => (s.core (BitVec.ofNat 11 c)).rlog
  let wr := (s.partSlices p).flatMap fun x => (s.slice x).wlog
  let s := rd.foldl (fun (s : State) x => s.modSlice sl fun k =>
    let t := Tab.get ((0, false), (0, false)) k.totals x.1
    { k with totals := Tab.set k.totals x.1 (addTotal t.1 x.2.toNat, t.2) }) s
  let s := wr.foldl (fun (s : State) x => s.modSlice sl fun k =>
    let t := Tab.get ((0, false), (0, false)) k.totals x.1
    { k with totals := Tab.set k.totals x.1 (t.1, addTotal t.2 x.2.toNat) }) s
  let s := (s.partCores p).foldl (fun (s : State) c => if (s.core (BitVec.ofNat 11 c)).rlog.isEmpty then s else s.modCore (BitVec.ofNat 11 c) fun k => { k with rlog := [] }) s
  ((s.partSlices p).foldl (fun (s : State) x => s.modSlice x fun k => { k with wlog := [] }) s).emit (.logCountSum p)

/-- The partitions in force. -/
def State.parts (s : State) : List Pid := ((List.range 16).map (BitVec.ofNat 4)).filter fun p => (s.pdesc p).isSome

/-- LOG_INTERVAL_END (R223, R416): the migration counts start again too. -/
def execLogIntervalEnd (s : State) : Host.Outcome State Fault Refusal :=
  match s.ev with
  | some .logIntervalEnd =>
    let t := { s with slices := s.slices.map fun (k : Nat × Slice) =>
      (k.1, { k.2 with migr := k.2.migr.map fun (m : Nat × Migr) => (m.1, { m.2 with d := 0, h := 0 }) }) }
    .next (t.parts.foldl (fun (t : State) p => t.sendCounts p) t)
  | _ => .next s

/-- Word 0 of a count record: the descriptor, the saturation of its two totals, and the bytes read (R428). -/
def countWord (d : Nat) (x : (Nat × Bool) × (Nat × Bool)) : Word :=
  BitVec.ofNat 64 (d * 2 ^ 57 + (if x.1.2 then 2 ^ 56 else 0) + (if x.2.2 then 2 ^ 55 else 0) + x.1.1)

/-- LOG_COUNT_SUM (R223, R428): one interval record, of the interval that has just ended, and its count records in ascending order; then the totals are
zero. The label of R427 has no place in the layout of R428 (log 9). -/
def execLogCountSum (s : State) : Host.Outcome State Fault Refusal :=
  match s.ev with
  | some (.logCountSum p) =>
    let sl := s.kernel p
    let l := (s.slice sl).totals.filter fun x => x.2.1.1 != 0 || x.2.2.1 != 0
    let s := s.modSlice sl fun k => { k with totals := [] }
    if l.isEmpty then .next s
    else
      .next (l.foldl (fun (t : State) x => t.appendLog sl (countWord x.1 x.2) fun _ => BitVec.ofNat 64 x.2.2.1)
        (s.appendLog sl (BitVec.ofNat 64 (2 ^ 62 + (s.time.toNat - 1) / 2 ^ 20)) fun seq => BitVec.ofNat 64 (seq * 2 ^ 32 + l.length)))
  | _ => .next s

/-! ## SCRUB and its receipt (R429 to R431) -/

/-- An entry of the receipt: a unit that does not read back as cleared has its fail bit set (R429, R431). -/
def recEntry (kind unit count : Nat) (fail : Bool) : List Byte :=
  wordBytes (BitVec.ofNat 64 (kind * 2 ^ 56 + (if fail then 2 ^ 55 else 0) + unit)) ++ wordBytes (BitVec.ofNat 64 count)

/-- The map of a slice's touched units as bytes. -/
def touchedBytes (k : Slice) : List Byte :=
  (List.range 512).map fun i => BitVec.ofNat 8 (((List.range 8).filter fun j => k.touched.contains (8 * i + j)).map (2 ^ ·)).sum

/-- Clear the accumulators of a partition. -/
def State.scrubAcc (s : State) (cs : List Nat) : State × List Byte :=
  let t := cs.foldl (fun (s : State) c => s.modCore (BitVec.ofNat 11 c) fun k => { k with accs := [] }) s
  (t, cs.flatMap fun c => recEntry 2 c 4 !(t.core (BitVec.ofNat 11 c)).accs.isEmpty)

/-- Clear scratchpads and core tables. -/
def State.scrubSpad (s : State) (cs : List Nat) : State × List Byte :=
  let in_ (a : Nat) : Bool := paRegion a == 1 && cs.contains (a / 2 ^ 19 % 2048)
  let t := { s with mem := s.mem.filter fun x => !in_ x.1, poison := s.poison.filter fun g => !in_ (32 * g) }
  let t := cs.foldl (fun (t : State) c => t.modCore (BitVec.ofNat 11 c) fun k => { k.blank with accs := k.accs }) t
  (t, cs.flatMap fun c =>
    let k := t.core (BitVec.ofNat 11 c)
    recEntry 1 c k.sblk.toNat (t.mem.any fun x => spadOf c x.1) ++ recEntry 3 c 1 !(k.ents.isEmpty && k.chans.isEmpty))

/-- Empty the bank ways of a partition: all twelve of each bank (R146). -/
def State.scrubWay (s : State) (p : Pid) : State × List Byte :=
  let t := s.flush (s.ownLine p)
  (t, (s.partBanks p).flatMap fun b => recEntry 4 b 12 (t.lines.any fun l => 16 * l.sl + bankIn (64 * l.ln) == b))

/-- The stacks that keep the state of a partition's cores: both of each die (R152). -/
def State.partStacks (s : State) (p : Pid) : List Nat := ((s.partCores p).map coreDie).eraseDups.flatMap fun d => [2 * d, 2 * d + 1]

/-- Clear the shadow regions of a partition. -/
def State.scrubShd (s : State) (p : Pid) : State × List Byte :=
  let t := { s with shadow := Tab.del s.shadow p.toNat }
  (t, (s.partStacks p).flatMap fun st => recEntry 5 st 160 (Tab.find t.shadow p.toNat).isSome)

/-- Clear the touched units of the partition's HBM, and the maps. -/
def State.scrubHbm (s : State) (sls : List Nat) : State × List Byte :=
  let hit (a : Nat) : Bool := paRegion a == 0 && sls.contains (a / 2 ^ 33 % 64) && (s.slice (a / 2 ^ 33 % 64)).touched.contains (a / 2 ^ 21 % 4096)
  let t := { s with
    mem := s.mem.filter fun x => !hit x.1
    poison := s.poison.filter fun g => !hit (32 * g)
    hkey := s.hkey.filter fun x => !hit (64 * x.1)
    badchk := s.badchk.filter fun x => !hit (64 * x) }
  let t := sls.foldl (fun (t : State) sl => t.modSlice sl fun k => { k with touched := [] }) t
  (t, sls.flatMap fun sl => recEntry 6 sl (s.slice sl).touched.length (t.mem.any fun x => hit x.1 && x.1 / 2 ^ 33 % 64 == sl) ++ touchedBytes (s.slice sl))

/-- Erase the key slots of a partition, which nobody owns then (log 47). -/
def State.scrubKeys (s : State) (p : Pid) : State × List Byte :=
  let l := (List.range 64).filter fun n => (s.keySlot n).state != 0 && (s.keySlot n).part == p
  let t := l.foldl (fun (s : State) n => s.eraseKey n) s
  let t := { t with keys := t.keys.map fun (x : Nat × KeySlot) => if x.2.owned && x.2.part == p && x.2.state == 0 then (x.1, KeySlot.reset) else x }
  (t, l.flatMap fun n => recEntry 7 n 1 ((t.keySlot n).state != 0))

/-- The measurement of the firmware images of slices 0 to 63 (R432). -/
def State.firmware (s : State) : BitVec 384 := Config.firmware ((List.range 64).map fun n => (s.slice n).fwver)

/-- The header of the receipt. -/
def receiptHead (s : State) (m : ScrubReq) (count : Nat) : List Byte :=
  wordBytes 0x544350525F324B44 ++ [1, m.part.setWidth 8, m.scope.setWidth 8, if s.mode m.part 3 then 1 else 0]
    ++ (wordBytes (BitVec.ofNat 64 count)).take 4 ++ ((List.range 16).map fun i => m.nonce.extractLsb' (8 * i) 8)
    ++ wordBytes m.time ++ wordBytes s.time ++ wordBytes s.rseq ++ (wordBytes ((s.core m.who.core).dev.setWidth 64)).take 2 ++ List.replicate 6 0
    ++ linkBytes s.firmware ++ List.replicate 16 0

/-- Bytes of a signature, numbered by the use of the key. -/
def sigBytes (n len : Nat) : List Byte := (List.range len).map fun i => Config.signature n i

/-- Remove the copies of a line that a store of the kernel changes (R150). -/
def State.forgetCopies (s : State) (ln : Nat) : State :=
  { s.dropCopies ln none with lines := (s.dropCopies ln none).lines.map fun (l : CLine) => if l.ln = ln then { l with shar := 0 } else l }

/-- The kernel stores bytes that lie in one line, in a space and through its record as it stands, as any store of the device is performed there (R119, R145,
R159): at a window, out of a peer's port, at its host, or at its bank. One that is refused, and one that no record maps, is reported (log 47). -/
def State.kernelStore (s : State) (who : Who) (va : Nat) (bs : List Byte) : State :=
  let refused (t : State) (code : Code) : State := t.sysRec who.pid [26, putField 0 0 16 code.toNat, BitVec.ofNat 64 va]
  match s.recFind (s.home who.pid who.sid va) who.sid va with
  | none => refused s cNotMapped
  | some (_, d) =>
    let a := atcPa (recAtc d) va
    let r : MemReq := ⟨{ who with lref := noObj }, .store, BitVec.ofNat 56 a, bs.length, BitVec.ofNat 512 (bs.foldr (fun b n => b.toNat + 256 * n) 0),
      BitVec.ofNat 64 (2 ^ bs.length - 1), BitVec.ofNat 64 va, d.key, false, 0, 0, none, .step, none, 0⟩
    match paRegion a with
    | 1 => match s.windowOp r with | (t, .fault c _) => refused t c | (t, _) => t
    | 3 => s.toPort a (.bankRequest r)
    | 4 =>
      let x := s.lineNow (s.homePlace who.pid a)
      let (d', p, wp) := mergeLine x.1 x.2.1 (reqLine r) (reqMask r)
      if s.torn who.pid a then refused s cPaFault
      else if wp then refused s cWpoison
      else (s.uncache (s.homePlace who.pid a)).storeLine (placeLine (s.homePlace who.pid a)) d' p x.2.2 false
    | _ => match (s.forgetCopies (a / 64)).performNow r with | (t, .fault c _) => refused t c | (t, _) => t

/-- A run of the kernel's stores, line by line. -/
def State.kernelRun (s : State) (who : Who) (va : Nat) (bs : List Byte) : Nat → State
  | 0 => s
  | n + 1 => if bs.isEmpty then s else (s.kernelStore who va (bs.take 64)).kernelRun who (va + 64) (bs.drop 64) n

/-- What every SCRUB empties of a core, whatever its scopes (R154, R166, R184, R193 to R196, R232): the tables that R402 lists go with the scope of the
scratchpads (R429), and these are none of them. The mooring entries of the heads that leave the queues go with the heads (R194). -/
def Core.scrubbed (k : Core) : Core := { k with
  atc := [], ro := [], mxq := [], mxrq := [], vxq := [], cxq := [], fifo := [], xfers := [], srb := [], moor := [], last := 63, rcc := 0
  cxdone := [], cxnext := [], cxfin := [] }

/-- SCRUB_RUN (R429 to R431): the scopes in their order, what always goes, the receipt, and the completion. -/
def execScrubRun (s : State) : Host.Outcome State Fault Refusal :=
  match s.ev with
  | some (.scrubRun m) =>
    let p := m.part
    let cs := s.partCores p
    let sls := s.partSlices p
    let on (i : Nat) (f : State → State × List Byte) (x : State × List Byte) : State × List Byte :=
      if m.scope.getLsbD i then let y := f x.1; (y.1, x.2 ++ y.2) else x
    let x := on 0 (fun s => s.scrubHbm sls) (on 2 (fun s => s.scrubShd p) (on 1 (fun s => s.scrubWay p)
      (on 4 (fun s => s.scrubSpad cs) (on 3 (fun s => s.scrubAcc cs) (s, [])))))
    let y := x.1.scrubKeys p
    let es := x.2 ++ y.2
    let t := y.1
    let gone (r : Nat × DRec) : Bool := sls.contains (r.1 / 2 ^ 15)
    let t := { t with
      spaces := t.spaces.map fun (x : Nat × Space) => (x.1, { x.2 with count := x.2.count - t.recs.countP fun r => gone r && r.2.sid.toNat == x.1 })
      qbuf := t.qbuf.filter fun e => e.pid != p
      lqs := t.lqs.filter fun q => q.1 / 8 != p.toNat
      recs := t.recs.filter fun r => !gone r
      objs := t.objs.filter fun o => o.2.pid != p }
    let t := cs.foldl (fun (t : State) c => t.modCore (BitVec.ofNat 11 c) Core.scrubbed) t
    let t := (t.modSlice (t.kernel p) fun k => { k with stitch := [] }).openChain (t.kernel p)
    let body := receiptHead t m (es.length / 16) ++ es
    let n := 2 * t.lmsLeaf
    let bytes := body ++ sigBytes n 96 ++ sigBytes (n + 1) 1772
    let t := { t with lmsLeaf := t.lmsLeaf + 1, rseq := t.rseq + 1 }
    .next ((t.kernelRun m.who (ptrVa m.rdst) bytes bytes.length).emit (.completionPost m.cobj .done none))
  | _ => .next s

/-! ## Attestation and live update (R432, R433) -/

/-- GET_MEASUREMENTS (R432): five blocks and both signatures leave over the host link. The fourth is of the latest link and its own sequence number, which
is one below that of the next record. -/
def execGetMeasurements (s : State) : Host.Outcome State Fault Refusal :=
  match s.ev with
  | some (.getMeasurements fn) =>
    let p : Pid := BitVec.ofNat 4 (fn.n.toNat - 1)
    let k := s.slice (if fn.n = 0 then 0 else s.kernel p)
    let desc := ((List.range 12).map fun i => k.pdesc.getD i 0) ++ (List.range 4).map fun i => Tab.get 0 k.stitch i
    let seq := (field (Tab.get 0 k.logctl 2) 32 32 + (2 ^ 32 - 1)) % 2 ^ 32
    let blocks := [linkBytes Config.bootRom, linkBytes s.firmware, sha384 (desc.flatMap wordBytes),
      sha384 (linkBytes k.llink ++ wordBytes (BitVec.ofNat 64 seq)), sha384 (wordBytes (s.fwmin.setWidth 64))]
    let n := 2 * s.lmsLeaf
    .next { s with lmsLeaf := s.lmsLeaf + 1, out := s.out ++ [.hostAnswer fn (blocks.flatten ++ sigBytes n 96 ++ sigBytes (n + 1) 1772)] }
  | _ => .next s

/-- FIRMWARE_UPDATE (R433): the image that the host has written through an update window, if it verifies and is no older than the counter, starts to load,
slice by slice; the window is empty then. -/
def execFirmwareUpdate (s : State) : Host.Outcome State Fault Refusal :=
  match s.ev with
  | some (.firmwareUpdate v ok) =>
    if ok && decide (s.fwmin.toNat ≤ v.toNat) && s.fwnext.isNone then
      .next (({ s with fwnext := some v, slices := s.slices.map fun (k : Nat × Slice) => (k.1, { k.2 with fwin := [] }) }.modSlice 0 fun k => { k with reload := true }).emit (.sliceReloadComplete 0))
    else .next s
  | _ => .next s

/-- SLICE_RELOAD_COMPLETE (R433): the next slice follows; with the last the counter is raised. -/
def execSliceReloadComplete (s : State) : Host.Outcome State Fault Refusal :=
  match s.ev with
  | some (.sliceReloadComplete sl) =>
    match s.fwnext with
    | none => .next s
    | some v =>
      let t := s.modSlice sl.toNat fun k => { k with reload := false, fwver := v }
      let t := t.emits (t.parts.map fun p => .placement p)
      if sl = 63 then .next { t with fwmin := v, fwnext := none }
      else .next ((t.modSlice (sl.toNat + 1) fun k => { k with reload := true }).emit (.sliceReloadComplete (sl + 1)))
  | _ => .next s

/-! ## The end (R15, R436) -/

/-- Does a PA lie in the log area of a slice? -/
def State.inLog (s : State) (a : Nat) : Bool :=
  s.slices.any fun k =>
    let base := 4096 * field (Tab.get 0 k.2.logctl 0) 12 44
    decide (base ≤ a) && decide (a < base + 4096 * field (Tab.get 0 k.2.logctl 1) 0 17)

/-- Does what lies at a PA outlast a thermal trip? -/
def State.afterTrip (s : State) (a : Nat) : Bool := (paRegion a == 0 && s.inLog a) || paRegion a == 4

/-- THERMAL_TRIP (R436): the module stops, and nothing of it is preserved but the log area, with its poison, keys and checks; host memory is not the
module's. -/
def execThermalTrip (s : State) : Host.Outcome State Fault Refusal :=
  .next { State.reset with
    mem := s.mem.filter fun x => s.afterTrip x.1
    poison := s.poison.filter fun g => s.afterTrip (32 * g)
    hkey := s.hkey.filter fun x => s.afterTrip (64 * x.1)
    badchk := s.badchk.filter fun x => s.afterTrip (64 * x)
    net := s.net.filter (· == .reset)
    slices := s.slices.map fun (k : Nat × Slice) => (k.1, { Slice.reset with fwver := k.2.fwver })
    fwmin := s.fwmin, lmsLeaf := s.lmsLeaf, hot := true, pick := s.pick, free := s.free, names := s.names, ev := s.ev }

/-- RESET (R15): every item of state at its reset value. What is not of the module, or is not volatile, stays: HBM with its poison, under keys that
are gone, host memory, the counters of R431 and R433, the versions of the slices' firmware, and what is configured. -/
def execReset (s : State) : Host.Outcome State Fault Refusal :=
  .next { State.reset with
    mem := s.mem.filter fun x => paRegion x.1 != 1
    poison := s.poison.filter fun g => paRegion (32 * g) != 1
    hkey := s.hkey
    badchk := s.badchk
    cores := s.cores.map fun (k : Nat × Core) => (k.1, { Core.reset with dev := k.2.dev, sblk := k.2.sblk })
    slices := s.slices.map fun (k : Nat × Slice) => (k.1, { Slice.reset with fwver := k.2.fwver })
    hosts := s.hosts, peers := s.peers, fwmin := s.fwmin, lmsLeaf := s.lmsLeaf
    pick := s.pick, cur := s.cur, free := s.free, names := s.names, ev := s.ev }

end Sys2Proof.Machine
end

