-- ==== Sys2Proof/Machine/Dispatch.lean ====
section
/-! DEFINITION. One arm per row of the opcode table: each calls the row's meaning. -/

namespace Sys2Proof.Machine

def exec (i : Instr) (s : State) : Host.Outcome State Fault Refusal :=
  match i with
  | .add o => Sys2Proof.Machine.execAdd o s
  | .sub o => Sys2Proof.Machine.execSub o s
  | .mul o => Sys2Proof.Machine.execMul o s
  | .mulh o => Sys2Proof.Machine.execMulh o s
  | .div o => Sys2Proof.Machine.execDiv o s
  | .mod o => Sys2Proof.Machine.execMod o s
  | .abs o => Sys2Proof.Machine.execAbs o s
  | .neg o => Sys2Proof.Machine.execNeg o s
  | .min o => Sys2Proof.Machine.execMin o s
  | .max o => Sys2Proof.Machine.execMax o s
  | .clz o => Sys2Proof.Machine.execClz o s
  | .ctz o => Sys2Proof.Machine.execCtz o s
  | .popc o => Sys2Proof.Machine.execPopc o s
  | .and o => Sys2Proof.Machine.execAnd o s
  | .andn o => Sys2Proof.Machine.execAndn o s
  | .or o => Sys2Proof.Machine.execOr o s
  | .xor o => Sys2Proof.Machine.execXor o s
  | .log3 o => Sys2Proof.Machine.execLog3 o s
  | .shl o => Sys2Proof.Machine.execShl o s
  | .shr o => Sys2Proof.Machine.execShr o s
  | .sra o => Sys2Proof.Machine.execSra o s
  | .fshl o => Sys2Proof.Machine.execFshl o s
  | .fshr o => Sys2Proof.Machine.execFshr o s
  | .cmpEq o => Sys2Proof.Machine.execCmpEq o s
  | .cmpNe o => Sys2Proof.Machine.execCmpNe o s
  | .cmpLt o => Sys2Proof.Machine.execCmpLt o s
  | .cmpLe o => Sys2Proof.Machine.execCmpLe o s
  | .cmpGt o => Sys2Proof.Machine.execCmpGt o s
  | .cmpGe o => Sys2Proof.Machine.execCmpGe o s
  | .sel o => Sys2Proof.Machine.execSel o s
  | .cvt o => Sys2Proof.Machine.execCvt o s
  | .cvtSat o => Sys2Proof.Machine.execCvtSat o s
  | .ldi a v => Sys2Proof.Machine.execLdi a v s
  | .mov a b => Sys2Proof.Machine.execMov a b s
  | .movX o => Sys2Proof.Machine.execMovX o s
  | .pstep o => Sys2Proof.Machine.execPstep o s
  | .ptag o => Sys2Proof.Machine.execPtag o s
  | .pget o => Sys2Proof.Machine.execPget o s
  | .pdiff o => Sys2Proof.Machine.execPdiff o s
  | .br off => Sys2Proof.Machine.execBr off s
  | .call off => Sys2Proof.Machine.execCall off s
  | .ret => Sys2Proof.Machine.execRet s
  | .jr b => Sys2Proof.Machine.execJr b s
  | .beq o => Sys2Proof.Machine.execBeq o s
  | .bne o => Sys2Proof.Machine.execBne o s
  | .bltI64 o => Sys2Proof.Machine.execBltI64 o s
  | .bgeI64 o => Sys2Proof.Machine.execBgeI64 o s
  | .bz a off => Sys2Proof.Machine.execBz a off s
  | .bnz a off => Sys2Proof.Machine.execBnz a off s
  | .bltZ64 o => Sys2Proof.Machine.execBltZ64 o s
  | .bgeZ64 o => Sys2Proof.Machine.execBgeZ64 o s
  | .ball p n off => Sys2Proof.Machine.execBall p n off s
  | .bany p n off => Sys2Proof.Machine.execBany p n off s
  | .bp p off => Sys2Proof.Machine.execBp p off s
  | .bnp p off => Sys2Proof.Machine.execBnp p off s
  | .bby b lvl off => Sys2Proof.Machine.execBby b lvl off s
  | .bcf h n off => Sys2Proof.Machine.execBcf h n off s
  | .beos h off => Sys2Proof.Machine.execBeos h off s
  | .ld o => Sys2Proof.Machine.execLd o s
  | .ldnb o => Sys2Proof.Machine.execLdnb o s
  | .ldc o => Sys2Proof.Machine.execLdc o s
  | .roInv => Sys2Proof.Machine.execRoInv s
  | .st o => Sys2Proof.Machine.execSt o s
  | .atomAdd o => Sys2Proof.Machine.execAtomAdd o s
  | .atomAnd o => Sys2Proof.Machine.execAtomAnd o s
  | .atomOr o => Sys2Proof.Machine.execAtomOr o s
  | .atomXor o => Sys2Proof.Machine.execAtomXor o s
  | .atomMin o => Sys2Proof.Machine.execAtomMin o s
  | .atomMax o => Sys2Proof.Machine.execAtomMax o s
  | .atomSwap o => Sys2Proof.Machine.execAtomSwap o s
  | .atomCas o => Sys2Proof.Machine.execAtomCas o s
  | .bredAdd o => Sys2Proof.Machine.execBredAdd o s
  | .bredMin o => Sys2Proof.Machine.execBredMin o s
  | .bredMax o => Sys2Proof.Machine.execBredMax o s
  | .bupdSet o => Sys2Proof.Machine.execBupdSet o s
  | .bupdAdd o => Sys2Proof.Machine.execBupdAdd o s
  | .bupdMul o => Sys2Proof.Machine.execBupdMul o s
  | .bupdMin o => Sys2Proof.Machine.execBupdMin o s
  | .bupdMax o => Sys2Proof.Machine.execBupdMax o s
  | .discard o => Sys2Proof.Machine.execDiscard o s
  | .barinit o => Sys2Proof.Machine.execBarinit o s
  | .bar b => Sys2Proof.Machine.execBar b s
  | .barQ b => Sys2Proof.Machine.execBarQ b s
  | .qclose => Sys2Proof.Machine.execQclose s
  | .drainst a => Sys2Proof.Machine.execDrainst a s
  | .fenceTask o => Sys2Proof.Machine.execFenceTask o s
  | .fenceCore o => Sys2Proof.Machine.execFenceCore o s
  | .fenceGang o => Sys2Proof.Machine.execFenceGang o s
  | .fenceDie o => Sys2Proof.Machine.execFenceDie o s
  | .fenceDevice o => Sys2Proof.Machine.execFenceDevice o s
  | .fenceSystem o => Sys2Proof.Machine.execFenceSystem o s
  | .serviceCoreFence scope o => Sys2Proof.Machine.execServiceCoreFence scope o s
  | .cbind h b => Sys2Proof.Machine.execCbind h b s
  | .cunbind h => Sys2Proof.Machine.execCunbind h s
  | .cadv o => Sys2Proof.Machine.execCadv o s
  | .cfill a h => Sys2Proof.Machine.execCfill a h s
  | .cwait o => Sys2Proof.Machine.execCwait o s
  | .csend o => Sys2Proof.Machine.execCsend o s
  | .csendEos o => Sys2Proof.Machine.execCsendEos o s
  | .cmask o => Sys2Proof.Machine.execCmask o s
  | .cunmask o => Sys2Proof.Machine.execCunmask o s
  | .setprio o => Sys2Proof.Machine.execSetprio o s
  | .yield => Sys2Proof.Machine.execYield s
  | .sleep => Sys2Proof.Machine.execSleep s
  | .endTask => Sys2Proof.Machine.execEndTask s
  | .decr o => Sys2Proof.Machine.execDecr o s
  | .spawn o => Sys2Proof.Machine.execSpawn o s
  | .launch o => Sys2Proof.Machine.execLaunch o s
  | .launchBar o => Sys2Proof.Machine.execLaunchBar o s
  | .cancelLaunch o => Sys2Proof.Machine.execCancelLaunch o s
  | .cancelGraph o => Sys2Proof.Machine.execCancelGraph o s
  | .cancelPhase o => Sys2Proof.Machine.execCancelPhase o s
  | .cancelJob o => Sys2Proof.Machine.execCancelJob o s
  | .gform b => Sys2Proof.Machine.execGform b s
  | .grel => Sys2Proof.Machine.execGrel s
  | .tbld n b c => Sys2Proof.Machine.execTbld n b c s
  | .crd o => Sys2Proof.Machine.execCrd o s
  | .cwr o => Sys2Proof.Machine.execCwr o s
  | .trap o => Sys2Proof.Machine.execTrap o s
  | .rft => Sys2Proof.Machine.execRft s
  | .bkpt => Sys2Proof.Machine.execBkpt s
  | .nop => Sys2Proof.Machine.execNop s
  | .scrub o => Sys2Proof.Machine.execScrub o s
  | .logctlDefine o => Sys2Proof.Machine.execLogctlDefine o s
  | .logctlDisable o => Sys2Proof.Machine.execLogctlDisable o s
  | .logctlSequence o => Sys2Proof.Machine.execLogctlSequence o s
  | .vadd o => Sys2Proof.Machine.execVadd o s
  | .vsub o => Sys2Proof.Machine.execVsub o s
  | .vmul o => Sys2Proof.Machine.execVmul o s
  | .vaddSat o => Sys2Proof.Machine.execVaddSat o s
  | .vsubSat o => Sys2Proof.Machine.execVsubSat o s
  | .vmulSat o => Sys2Proof.Machine.execVmulSat o s
  | .vfma o => Sys2Proof.Machine.execVfma o s
  | .vfms o => Sys2Proof.Machine.execVfms o s
  | .vmin o => Sys2Proof.Machine.execVmin o s
  | .vmax o => Sys2Proof.Machine.execVmax o s
  | .vminn o => Sys2Proof.Machine.execVminn o s
  | .vmaxn o => Sys2Proof.Machine.execVmaxn o s
  | .vand o => Sys2Proof.Machine.execVand o s
  | .vor o => Sys2Proof.Machine.execVor o s
  | .vxor o => Sys2Proof.Machine.execVxor o s
  | .vsel o => Sys2Proof.Machine.execVsel o s
  | .vlog3 o => Sys2Proof.Machine.execVlog3 o s
  | .vcmpEq o => Sys2Proof.Machine.execVcmpEq o s
  | .vcmpNe o => Sys2Proof.Machine.execVcmpNe o s
  | .vcmpLt o => Sys2Proof.Machine.execVcmpLt o s
  | .vcmpLe o => Sys2Proof.Machine.execVcmpLe o s
  | .vcmpGt o => Sys2Proof.Machine.execVcmpGt o s
  | .vcmpGe o => Sys2Proof.Machine.execVcmpGe o s
  | .vcvt o => Sys2Proof.Machine.execVcvt o s
  | .vcvtSat o => Sys2Proof.Machine.execVcvtSat o s
  | .enc o => Sys2Proof.Machine.execEnc o s
  | .encSat o => Sys2Proof.Machine.execEncSat o s
  | .dec o => Sys2Proof.Machine.execDec o s
  | .vbcast o => Sys2Proof.Machine.execVbcast o s
  | .vperm o => Sys2Proof.Machine.execVperm o s
  | .vredAdd o => Sys2Proof.Machine.execVredAdd o s
  | .vredMin o => Sys2Proof.Machine.execVredMin o s
  | .vredMax o => Sys2Proof.Machine.execVredMax o s
  | .vld o => Sys2Proof.Machine.execVld o s
  | .vst o => Sys2Proof.Machine.execVst o s
  | .vrcp o => Sys2Proof.Machine.execVrcp o s
  | .vrsq o => Sys2Proof.Machine.execVrsq o s
  | .vexp2 o => Sys2Proof.Machine.execVexp2 o s
  | .vlog2 o => Sys2Proof.Machine.execVlog2 o s
  | .mxclr acc => Sys2Proof.Machine.execMxclr acc s
  | .mxmul o => Sys2Proof.Machine.execMxmul o s
  | .mxs3 o => Sys2Proof.Machine.execMxs3 o s
  | .mxst o => Sys2Proof.Machine.execMxst o s
  | .mxstSat o => Sys2Proof.Machine.execMxstSat o s
  | .mxedge o => Sys2Proof.Machine.execMxedge o s
  | .mxsplitEnter o => Sys2Proof.Machine.execMxsplitEnter o s
  | .mxsplitLeave o => Sys2Proof.Machine.execMxsplitLeave o s
  | .mxrem o => Sys2Proof.Machine.execMxrem o s
  | .mxrsm acc => Sys2Proof.Machine.execMxrsm acc s
  | .rstat o => Sys2Proof.Machine.execRstat o s
  | .rstatE o => Sys2Proof.Machine.execRstatE o s
  | .gmu o => Sys2Proof.Machine.execGmu o s
  | .gsum b => Sys2Proof.Machine.execGsum b s
  | .gsub o => Sys2Proof.Machine.execGsub o s
  | .gres o => Sys2Proof.Machine.execGres o s
  | .cxq o => Sys2Proof.Machine.execCxq o s
  | .cxqNb o => Sys2Proof.Machine.execCxqNb o s
  | .cxwait o => Sys2Proof.Machine.execCxwait o s
  | .map o => Sys2Proof.Machine.execMap o s
  | .grant o => Sys2Proof.Machine.execGrant o s
  | .unmap o => Sys2Proof.Machine.execUnmap o s
  | .spqry o => Sys2Proof.Machine.execSpqry o s
  | .lineBoundarySelection => Sys2Proof.Machine.execLineBoundarySelection s
  | .ageWrap => Sys2Proof.Machine.execAgeWrap s
  | .memrepReceive => Sys2Proof.Machine.execMemrepReceive s
  | .ceilingRecovery => Sys2Proof.Machine.execCeilingRecovery s
  | .buoySilenceTimeout => Sys2Proof.Machine.execBuoySilenceTimeout s
  | .bankRequest => Sys2Proof.Machine.execBankRequest s
  | .bankMissFill => Sys2Proof.Machine.execBankMissFill s
  | .writeBackAccept => Sys2Proof.Machine.execWriteBackAccept s
  | .copySliceLoad => Sys2Proof.Machine.execCopySliceLoad s
  | .copyInvalidate => Sys2Proof.Machine.execCopyInvalidate s
  | .invalidateAck => Sys2Proof.Machine.execInvalidateAck s
  | .lateRequestAtHome => Sys2Proof.Machine.execLateRequestAtHome s
  | .landedNotice => Sys2Proof.Machine.execLandedNotice s
  | .translationMiss => Sys2Proof.Machine.execTranslationMiss s
  | .mapAtHome => Sys2Proof.Machine.execMapAtHome s
  | .mapForward => Sys2Proof.Machine.execMapForward s
  | .recordCreation => Sys2Proof.Machine.execRecordCreation s
  | .unmapAtCoordinator => Sys2Proof.Machine.execUnmapAtCoordinator s
  | .unmapPart => Sys2Proof.Machine.execUnmapPart s
  | .withdrawMessage => Sys2Proof.Machine.execWithdrawMessage s
  | .withdrawAck => Sys2Proof.Machine.execWithdrawAck s
  | .shootdown => Sys2Proof.Machine.execShootdown s
  | .shootdownAck => Sys2Proof.Machine.execShootdownAck s
  | .recordRemoval => Sys2Proof.Machine.execRecordRemoval s
  | .withdrawCompletionPost => Sys2Proof.Machine.execWithdrawCompletionPost s
  | .spqryAtHome => Sys2Proof.Machine.execSpqryAtHome s
  | .detRefusal => Sys2Proof.Machine.execDetRefusal s
  | .roomNotice => Sys2Proof.Machine.execRoomNotice s
  | .closeReport => Sys2Proof.Machine.execCloseReport s
  | .closeAtBank => Sys2Proof.Machine.execCloseAtBank s
  | .closeAck => Sys2Proof.Machine.execCloseAck s
  | .closeNotice => Sys2Proof.Machine.execCloseNotice s
  | .waitingReport => Sys2Proof.Machine.execWaitingReport s
  | .quantumOverflowNotice => Sys2Proof.Machine.execQuantumOverflowNotice s
  | .faultMark => Sys2Proof.Machine.execFaultMark s
  | .memberStartPost => Sys2Proof.Machine.execMemberStartPost s
  | .completionPost => Sys2Proof.Machine.execCompletionPost s
  | .launchMessageAtHome => Sys2Proof.Machine.execLaunchMessageAtHome s
  | .hostLaunchWrite => Sys2Proof.Machine.execHostLaunchWrite s
  | .hostCreationWrite => Sys2Proof.Machine.execHostCreationWrite s
  | .spawnMemberAdd => Sys2Proof.Machine.execSpawnMemberAdd s
  | .spawnPlace => Sys2Proof.Machine.execSpawnPlace s
  | .spawnMemberRemove => Sys2Proof.Machine.execSpawnMemberRemove s
  | .cancelAtObject => Sys2Proof.Machine.execCancelAtObject s
  | .terminationNotice => Sys2Proof.Machine.execTerminationNotice s
  | .cancelWalk => Sys2Proof.Machine.execCancelWalk s
  | .placement => Sys2Proof.Machine.execPlacement s
  | .decrApply => Sys2Proof.Machine.execDecrApply s
  | .chanPacketReceive => Sys2Proof.Machine.execChanPacketReceive s
  | .gaussPartReceive => Sys2Proof.Machine.execGaussPartReceive s
  | .mxcmdReceive => Sys2Proof.Machine.execMxcmdReceive s
  | .barrierArrive => Sys2Proof.Machine.execBarrierArrive s
  | .barrierBytes => Sys2Proof.Machine.execBarrierBytes s
  | .barrierWake => Sys2Proof.Machine.execBarrierWake s
  | .arrivalReply => Sys2Proof.Machine.execArrivalReply s
  | .cxTransferStart => Sys2Proof.Machine.execCxTransferStart s
  | .haloStart => Sys2Proof.Machine.execHaloStart s
  | .cxUnitWrite => Sys2Proof.Machine.execCxUnitWrite s
  | .cxBytesPost => Sys2Proof.Machine.execCxBytesPost s
  | .gcmTagCheck => Sys2Proof.Machine.execGcmTagCheck s
  | .cxTransferComplete => Sys2Proof.Machine.execCxTransferComplete s
  | .vxHeadStart => Sys2Proof.Machine.execVxHeadStart s
  | .vxHeadComplete => Sys2Proof.Machine.execVxHeadComplete s
  | .vstSend => Sys2Proof.Machine.execVstSend s
  | .mxHeadStart => Sys2Proof.Machine.execMxHeadStart s
  | .mxStepApply => Sys2Proof.Machine.execMxStepApply s
  | .mxstSend => Sys2Proof.Machine.execMxstSend s
  | .gformJoin => Sys2Proof.Machine.execGformJoin s
  | .gangStart => Sys2Proof.Machine.execGangStart s
  | .remoteCompletionNotice => Sys2Proof.Machine.execRemoteCompletionNotice s
  | .portHeaderDiscard => Sys2Proof.Machine.execPortHeaderDiscard s
  | .multicastReplicate => Sys2Proof.Machine.execMulticastReplicate s
  | .multicastBlockTimeout => Sys2Proof.Machine.execMulticastBlockTimeout s
  | .bankOpLine0 => Sys2Proof.Machine.execBankOpLine0 s
  | .bankOpLine1 => Sys2Proof.Machine.execBankOpLine1 s
  | .serviceRetry => Sys2Proof.Machine.execServiceRetry s
  | .serviceFail => Sys2Proof.Machine.execServiceFail s
  | .serviceTranslationAnswer => Sys2Proof.Machine.execServiceTranslationAnswer s
  | .swapOut => Sys2Proof.Machine.execSwapOut s
  | .restore => Sys2Proof.Machine.execRestore s
  | .coreFence => Sys2Proof.Machine.execCoreFence s
  | .coreReenable => Sys2Proof.Machine.execCoreReenable s
  | .partitionDescriptorWrite => Sys2Proof.Machine.execPartitionDescriptorWrite s
  | .stitchDescriptorWrite => Sys2Proof.Machine.execStitchDescriptorWrite s
  | .logControlWrite => Sys2Proof.Machine.execLogControlWrite s
  | .registerWrite => Sys2Proof.Machine.execRegisterWrite s
  | .keyLoad => Sys2Proof.Machine.execKeyLoad s
  | .keyErase => Sys2Proof.Machine.execKeyErase s
  | .getMeasurements => Sys2Proof.Machine.execGetMeasurements s
  | .scrubRun => Sys2Proof.Machine.execScrubRun s
  | .logIntervalEnd => Sys2Proof.Machine.execLogIntervalEnd s
  | .logCountSum => Sys2Proof.Machine.execLogCountSum s
  | .patrolRead => Sys2Proof.Machine.execPatrolRead s
  | .directoryCountReport => Sys2Proof.Machine.execDirectoryCountReport s
  | .moveComplete => Sys2Proof.Machine.execMoveComplete s
  | .directoryGrant => Sys2Proof.Machine.execDirectoryGrant s
  | .snoop => Sys2Proof.Machine.execSnoop s
  | .linkDown => Sys2Proof.Machine.execLinkDown s
  | .linkRecover => Sys2Proof.Machine.execLinkRecover s
  | .quarantineTimeout => Sys2Proof.Machine.execQuarantineTimeout s
  | .flitSend => Sys2Proof.Machine.execFlitSend s
  | .flitReceive => Sys2Proof.Machine.execFlitReceive s
  | .ideKeySwitch => Sys2Proof.Machine.execIdeKeySwitch s
  | .ideOldBankErase => Sys2Proof.Machine.execIdeOldBankErase s
  | .vfConfigChange => Sys2Proof.Machine.execVfConfigChange s
  | .vfTeardown => Sys2Proof.Machine.execVfTeardown s
  | .vfDrainExpiry => Sys2Proof.Machine.execVfDrainExpiry s
  | .firmwareUpdate => Sys2Proof.Machine.execFirmwareUpdate s
  | .thermalTrip => Sys2Proof.Machine.execThermalTrip s
  | .reset => Sys2Proof.Machine.execReset s
  | .windowAccess => Sys2Proof.Machine.execWindowAccess s
  | .illegalOp => Sys2Proof.Machine.execIllegalOp s
  | .sidAllocation => Sys2Proof.Machine.execSidAllocation s
  | .kernelObjectCreation => Sys2Proof.Machine.execKernelObjectCreation s
  | .tdispLock => Sys2Proof.Machine.execTdispLock s
  | .tdispStart => Sys2Proof.Machine.execTdispStart s
  | .tdispStop => Sys2Proof.Machine.execTdispStop s
  | .linkKeyLoad => Sys2Proof.Machine.execLinkKeyLoad s
  | .keyEx => Sys2Proof.Machine.execKeyEx s
  | .sliceReloadComplete => Sys2Proof.Machine.execSliceReloadComplete s
  | .hostPortRemoval => Sys2Proof.Machine.execHostPortRemoval s
  | .peerDeviceDeconfigure => Sys2Proof.Machine.execPeerDeviceDeconfigure s

end Sys2Proof.Machine
end

