-- ==== Sys2Proof/Machine/Turn.lean ====
section
/-! DEFINITION. What a step may handle: the order in which what is on its way arrives (R22, R28, R166), what must wait, the turn of a core with the
heads that its gang's followers execute (R32, R33, R92, R174), and the turn of a service core (R233). -/

namespace Sys2Proof.Machine

/-! ## Arrival -/

/-- Two things that travel from one slice to another. -/
def slicePair (a b : Nat) : List (Nat × Nat) := [(5000 + a, 5000 + b)]

/-- The record whose home sent a withdraw message for a record (R185). -/
def State.asker (s : State) (id : Nat) (r : RecRef) : RecRef :=
  (((s.wds.find? fun w => w.id == id).bind fun w => w.owed.find? fun x => x.1 == r).map (·.2)).getD r

/-- The slice that coordinates an UNMAP (R388). -/
def State.coordinator (s : State) (id : Nat) : Nat :=
  ((s.unmaps.find? fun u => u.id == id).map fun u => s.home u.req.who.pid u.req.who.sid u.req.start.toNat).getD 0

/-- The lanes of what is on its way: its source and its destination, as numbers. Things that share a lane arrive in the order in which they were sent,
since each pair uses one route (R22, R177); what is in no common lane arrives in any order. Posts and reports to one object share beside that a lane
whose source is 3003, so that, which R22 does not ask, those of different cores keep their order too (DESIGN CHOICE, log 60). -/
def State.lanes (s : State) : Event → List (Nat × Nat)
  | .bankRequest r =>
    let b := s.bankOf r.who.pid r.pa.toNat
    match r.ret, r.rref with
    | .host h, _ => [(3000 + h.toNat, b)]
    | _, some _ => [(4096 + s.home r.who.pid r.who.sid (ptrVa r.fptr), b)]
    | _, none => [(r.who.core.toNat, b)]
  | .barrierArrive m => [(m.who.core.toNat, s.bankOf m.who.pid m.pa.toNat)]
  | .barrierBytes m => [(m.who.core.toNat, s.bankOf m.who.pid m.pa.toNat)]
  | .copySliceLoad sl r => [(r.who.core.toNat, 2048 + sl.toNat)]
  | .memrepReceive r => match r.buoy.bind (·.b) with
    | some b => if b.toNat < 64 then [(10000 + b.toNat, r.core.toNat)] else []
    | none => []
  | .lateRequestAtHome r => [(r.who.core.toNat, 4096 + s.home r.who.pid r.who.sid (ptrVa r.fptr))]
  | .windowAccess m => [(m.req.who.core.toNat, 8192 + m.req.pa.toNat / 2 ^ 19 % 2048)]
  | .landedNotice sl r => slicePair sl.toNat (recSlice r)
  | .mapForward m => slicePair (s.mapHome { m with done := m.done - 1 }) (s.mapHome m)
  | .recordCreation src r _ => slicePair src.toNat (recSlice r)
  | .unmapPart id sl => slicePair (s.coordinator id) sl.toNat
  | .withdrawCompletionPost id sl => slicePair sl.toNat (s.coordinator id)
  | .withdrawMessage id r => slicePair (recSlice (s.asker id r)) (recSlice r)
  | .withdrawAck id r => slicePair (recSlice r) (recSlice (s.asker id r))
  | .detRefusal r => [(20000 + s.bankOf r.who.pid r.pa.toNat, r.who.core.toNat)]
  | .roomNotice c b => [(20000 + b.toNat, c.toNat)]
  | .launchMessageAtHome m =>
    let src := match m.issuer with
      | .core => m.core.toNat
      | .host h => 3000 + h.toNat
      | .service sl => 3200 + sl.toNat
    [(src, 30000 + 8 * m.pid.toNat + m.queue.toNat)]
  | .decrApply _ c _ _ src => [((src.map (·.1.core.toNat)).getD 3002, 40000 + c.toNat)]
  | .chanPacketReceive k => [(k.src.toNat, 50000 + k.dst.toNat)]
  | .gaussPartReceive k => [(k.src.toNat, 60000 + k.dst.toNat)]
  | .mxcmdReceive k _ _ => [(k.src.toNat, 70000 + k.dst.toNat)]
  | .multicastReplicate x y m => [(m.pkt.src.toNat, 80000 + x.toNat + 64 * y.toNat)]
  | .closeReport c l => [(3003, 2 ^ 20 + l.toNat), (c.toNat, l.toNat / 2 ^ 22)]
  | .waitingReport c l _ _ => [(3003, 2 ^ 20 + l.toNat), (c.toNat, l.toNat / 2 ^ 22)]
  | .memberStartPost l src => (3003, 2 ^ 20 + l.toNat) :: (src.map fun c => (c.toNat, l.toNat / 2 ^ 22)).toList
  | .completionPost l _ src => (3003, 2 ^ 20 + l.toNat) :: (src.map fun x => (x.1.toNat, l.toNat / 2 ^ 22)).toList
  | .faultMark l => [(3003, 2 ^ 20 + l.toNat)]
  | .closeAck _ l _ => [(3003, 2 ^ 20 + l.toNat)]
  | .spawnMemberAdd m => [(3003, 2 ^ 20 + m.who.lref.toNat), (m.who.core.toNat, m.who.lref.toNat / 2 ^ 22)]
  | .spawnMemberRemove m => [(3003, 2 ^ 20 + m.who.lref.toNat), (m.who.core.toNat, m.who.lref.toNat / 2 ^ 22)]
  | .cancelAtObject m => [(3003, 2 ^ 20 + m.ref.toNat), (m.core.toNat, m.ref.toNat / 2 ^ 22)]
  | .hostLaunchWrite h _ _ _ _ _ => [(3100 + h.toNat, 3004)]
  | .hostCreationWrite h _ _ _ _ => [(3100 + h.toNat, 3004)]
  | .bankOpLine0 h _ _ _ => [(3100 + h.toNat, 3004)]
  | .bankOpLine1 h _ _ _ => [(3100 + h.toNat, 3004)]
  | .flitReceive (.slot n _ _ _) => [(3100 + n.toNat, 3005)]
  | .flitReceive (.ide f _) => [(3140 + 32 * f.h.toNat + f.n.toNat, 3005)]
  | _ => []

/-- Do two things on their way keep their order? -/
def State.inLane (s : State) (x y : Event) : Bool := (s.lanes x).any fun l => (s.lanes y).contains l

/-- Does a request at a bank stay behind one that goes on there after a wait: one for its line, or one to which it keeps its order (R147, R229)? -/
def State.behind (s : State) (x y : Event) : Bool :=
  match s.bankFacts x, s.bankFacts y with
  | some f, some g => s.lineFor f == s.lineFor g || s.pairs f g
  | _, _ => false

/-- What may be handled: the requests that go on at their banks, and then what is on its way. -/
def State.queue (s : State) : List Event := s.back ++ s.net

/-- What happens before anything else: the wrap of an age count and the recovery of a ceiling, each a part of what brought it about
(R135, R166, R220). -/
def urgent : Event → Bool
  | .ageWrap _ _ => true
  | .ceilingRecovery _ _ => true
  | _ => false

/-- A load that a copy slice has sent on to its bank and that has not been performed (R150). -/
def State.copyAhead (s : State) (sl : SliceId) (r : MemReq) : Bool :=
  let ahead : Event → Bool
    | .bankRequest x => x.who.core == r.who.core && s.copyFor x == some sl.toNat && s.bankOf x.who.pid x.pa.toNat == s.bankOf r.who.pid r.pa.toNat
    | _ => false
  s.queue.any ahead || s.fills.any (fun f => f.2.any ahead) || s.invw.any fun w => w.reqs.any ahead

/-- Is a request held at a home behind which one of the same core waits (R189)? -/
def State.lateAhead (s : State) (r : MemReq) : Bool :=
  (s.slice (s.home r.who.pid r.who.sid (ptrVa r.fptr))).holdb.any fun x => match x.2.2 with
    | .lateRequestAtHome y => y.who.core == r.who.core
    | _ => false

/-- Is a write of a host's port on its way to its bank, or waiting there? -/
def ofHost (h : BitVec 1) : Event → Bool
  | .bankRequest r => r.ret == .host h
  | _ => false

/-- Has a host's port an earlier write that its bank has not acknowledged, when it holds a launch message (R240)? -/
def State.hostAhead (s : State) (h : BitVec 1) (e : Event) : Bool :=
  (s.net.takeWhile (· != e)).any (ofHost h) || s.back.any (ofHost h) || s.fills.any (fun f => f.2.any (ofHost h))
    || s.invw.any fun w => w.reqs.any (ofHost h)

/-- May a core switch to a gang's entry (R174): it runs nothing, or its task, with its own gang, is at a line boundary at which it may leave the core and
has nothing left to do there? A core that follows another gang goes on with it until that gang stops (log 34). -/
def State.between (s : State) (c : CoreId) (h : Hidx) : Bool :=
  let t := { s with cur := c }
  match t.me.run with
  | some r => r == h || (!(t.me.ent r).g && t.me.line.isNone && t.me.hold.isNone && t.mayLeave && t.gangReady && (t.me.ent r).ends.isEmpty)
  | none => true

/-- What cannot be handled yet, for what it needs is not there. -/
def State.blocked (s : State) : Event → Bool
  | .bankRequest r =>
    atPort r && !s.migrated r.who.pid r.pa.toNat && (s.core r.who.core).rcc == 65535
  | .closeAtBank b l q last =>
    s.detComing l q last || match (s.closing b l q last).head? with | some e => s.moves e.pid e.pa.toNat | none => false
  | .launchMessageAtHome m => match m.issuer with | .host h => s.hostAhead h (.launchMessageAtHome m) | _ => false
  | .copySliceLoad sl r => s.copyAhead sl r
  | .lateRequestAtHome r => s.lateAhead r
  | .chanPacketReceive k => s.chanFull k.dst
  | .mxcmdReceive k _ _ => decide (4 ≤ (s.core k.dst).inMx.length)
  | .gangStart c h => !s.between c h
  | .gformJoin c _ _ => (s.core c).forming.isNone
  | .moveComplete sl f => match Tab.find (s.slice sl.toNat).migr f.toNat with | some m => !m.owed.isEmpty | none => false
  | .withdrawMessage _ r =>
    (match s.recAt r with | some d => d.wd && s.walkOpen r | none => false) || s.net.any fun e => match e with | .recordCreation _ x _ => x == r | _ => false
  | .recordRemoval id => match s.wds.find? fun w => w.id == id with | some w => !s.removable w | none => false
  | .shootdown c _ lo hi => s.net.any fun e => match e with
    | .memrepReceive ⟨c', _, .xlate x, _, _⟩ => c' == c && meet (x.ppn.toNat * 4096) (pageSize x.psz) lo.toNat (hi.toNat - lo.toNat)
    | _ => false
  | .multicastReplicate x y m => s.mcBlocked x y m
  | .multicastBlockTimeout x y =>
    let l := (s.core (BitVec.ofNat 11 (x.toNat + 64 * y.toNat))).retry
    (match l with | k :: _ => s.chanFull k.dst | [] => false) && (decide (16 ≤ l.length) || (s.firstBlocked x y).isNone)
  | .swapOut p =>
    let cs := s.partCores p
    cs.all (fun c => (s.core (BitVec.ofNat 11 c)).stop) && !cs.all fun c => s.coreDrained c
  | .coreFence c => (s.core c).stop && !s.coreDrained c.toNat
  | .serviceRetry sl _ => (s.slice sl.toNat).reload
  | .serviceFail sl _ => (s.slice sl.toNat).reload
  | .serviceTranslationAnswer sl _ => (s.slice sl.toNat).reload
  | .cancelWalk l => (s.slice (s.kernel (s.obj l).pid)).reload
  | .scrubRun m => (s.slice (s.kernel m.part)).reload
  | .keyLoad p _ _ _ => (s.slice (s.kernel p)).reload
  | .keyErase n => (s.slice (s.kernel (Tab.get KeySlot.reset s.keys n.toNat).part)).reload
  | .keyEx f _ _ => match s.fnKernel f with | some sl => (s.slice sl).reload | none => false
  | .getMeasurements f => match s.fnKernel f with | some sl => (s.slice sl).reload | none => false
  | .kernelObjectCreation p _ _ _ => (s.slice (s.kernel p)).reload
  | _ => false

/-- Does a request arrive for a frame that moves? It is held until the move is over; what has arrived before goes on (R416, R440). -/
def State.moveHolds (s : State) : Event → Bool
  | .bankRequest r => s.moves r.who.pid r.pa.toNat
  | .barrierArrive m => s.moves m.who.pid m.pa.toNat
  | .barrierBytes m => s.moves m.who.pid m.pa.toNat
  | _ => false

/-- May the event at a place of the queue be handled: nothing stands before it that it follows, and it is not blocked? -/
def State.ready (s : State) (n : Nat) : Bool :=
  match s.queue[n]? with
  | none => false
  | some e =>
    !s.blocked e && (if n < s.back.length then (s.back.take n).all fun x => !s.behind x e
      else !s.moveHolds e && (s.back.all fun x => !s.behind x e) && (s.net.take (n - s.back.length)).all fun x => !s.inLane x e)

/-- The move of a step, and the choices left after it. What is urgent comes first; then the choice that the state holds, if it can be made;
otherwise the oldest event that is ready, then a service core with a word, then the core whose turn it is. -/
def State.move (s : State) : Move × List Move :=
  let other : Move := match (List.range s.queue.length).find? s.ready with
    | some n => .event n
    | none => match s.slices.find? fun x => !x.2.svc.isEmpty with
      | some x => .service (BitVec.ofNat 6 x.1)
      | none => .core s.cur
  match s.queue.findIdx? urgent with
  | some n => (.event n, s.pick)
  | none => match s.pick with
    | [] => (other, [])
    | .event n :: l => (if s.ready n then .event n else other, l)
    | m :: l => (m, l)

/-! ## Time -/

/-- A step takes device time, and counts in the cores' cycle counters (R224, R225). -/
def State.tick (s : State) : State :=
  { s with time := s.time + 1, cores := s.cores.map fun (x : Nat × Core) => (x.1, ((x.2.count 1).countMx false 1).countMx true 1) }

/-! ## The turn of a core -/

/-- The instruction at a PC of a line, or none for a head that is no instruction. -/
def headAt (l : Line) (pc : VA) : Option Instr :=
  match decodeAt l (pcIdx pc) with
  | .ok i => some i
  | .error _ => none

/-- Execute the head at the PC of the core's line; a head that does not decode raises ILLEGAL_OP (R91, R92). -/
def State.runHead (s : State) (l : Line) : Host.Outcome State Fault Refusal :=
  match headAt l s.me.pc with
  | some i => exec i s
  | none => exec .illegalOp s

/-- Has the leader of a gang executed its head: it still runs, holds nothing, and took no fault? -/
def State.executed (s : State) (c : CoreId) (h : Hidx) : Bool :=
  let k := s.core c
  s.cur == c && k.run == some h && k.hold.isNone && (match (k.ent h).gang with | some x => x.formed && x.flt.isNone && !x.drain | none => false)

/-- Give the followers of a gang the head that its leader has executed (R32): one that took a fault does nothing with it, and one that stopped misses
it (R400). -/
def State.give (s : State) (c : CoreId) (h : Hidx) (l : Line) (pc : VA) : State :=
  match (s.ent c h).gang with
  | none => s
  | some x => (s.joinedOf x).foldl (fun (s : State) m =>
      let c' := x.coreAt m.1
      match (s.ent c' m.2).gang with
      | some y =>
        if y.flt.isSome then s
        else if y.stopAt.isSome then s.modEnt c' m.2 fun e => { e with gang := some { y with missed := y.missed ++ [(pc, l)] } }
        else s.modCore c' fun k => { k.setEnt m.2 { k.ent m.2 with gang := some { y with todo := some pc } } with line := some l, pc := pc }
      | none => s) s

/-- A leader's head, and then the same head for its followers. -/
def State.runLeader (s : State) (l : Line) : Host.Outcome State Fault Refusal :=
  let c := s.cur
  let h := s.myIdx
  let pc := s.me.pc
  match s.runHead l with
  | .next t => .next (if t.executed c h then t.give c h l pc else t)
  | x => x

/-- A follower executes what it was given once the members nearer to the leader have (R32). -/
def State.runFollower (s : State) : Host.Outcome State Fault Refusal :=
  match s.myEnt.gang, s.me.line with
  | some x, some l =>
    let before := (s.gangMembers s.cur s.myIdx).filter fun m => decide (m.1 < x.pos.toNat)
    let free : Bool := before.all fun m => match (s.ent m.2.1 m.2.2).gang with | some y => y.todo.isNone | none => true
    match x.todo with
    | some _ => if free then s.runHead l else .next s.stall
    | none => .next s.stall
  | _, _ => .next s.stall

/-- The turn of a core: the boundary of a line, or the head at its PC. -/
def State.turn (s : State) : Host.Outcome State Fault Refusal :=
  match s.me.run, s.me.line with
  | none, _ => exec .lineBoundarySelection s
  | some _, none => if s.myEnt.g then .next s.stall else exec .lineBoundarySelection s
  | some _, some l =>
    if s.myEnt.g then s.runFollower
    else match s.myEnt.gang with
      | none => s.runHead l
      | some _ => if s.gangReady then s.runLeader l else .next s.stall

/-! ## The turn of a service core (R233) -/

/-- A service core executes its next word; what is not its fence raises its illegal-instruction exception. A slice that reloads serves nothing
(R433). -/
def State.serviceTurn (s : State) : Host.Outcome State Fault Refusal :=
  let k := s.slice s.svcCur.toNat
  match k.svc with
  | [] => .next s
  | w :: rest =>
    if k.reload then .next s
    else match decodeService w with
      | some i => exec i s
      | none => .next (s.modSlice s.svcCur.toNat fun k => { k with svc := rest, svcx := k.svcx + 1 })

/-! ## A move -/

/-- Handle the event at a place of the queue. -/
def State.handle (s : State) (n : Nat) : Host.Outcome State Fault Refusal :=
  match s.queue[n]? with
  | none => .next s
  | some e =>
    if n < s.back.length then exec e.instr { s with back := s.back.eraseIdx n, ev := some e }
    else exec e.instr { s with net := s.net.eraseIdx (n - s.back.length), ev := some e }

def State.perform (s : State) : Move → Host.Outcome State Fault Refusal
  | .event n => s.handle n
  | .core c => ({ s with cur := c }).turn
  | .service sl => ({ s with svcCur := sl }).serviceTurn

/-! ## Placing an instruction -/

/-- The line with one head and its tail (R74 to R76). -/
def lineOfHead (w : Nat) : Line :=
  let t := tailLen (w / 2 ^ 8 % 4)
  BitVec.ofNat 512 (2 ^ 11 + w % 2 ^ 16 * 2 ^ 16 + w / 2 ^ 16 % 2 ^ (16 * t) * 2 ^ (16 * (32 - t)))

/-- Does a table word stand for a word of the service core? -/
def isService (nbits w : Nat) : Bool := nbits == 32 && w % 2 ^ 12 == 0x00B && (decodeService w).isSome

/-- The core whose turn it is runs a task and has entered the line that holds the head. -/
def State.placeHead (s : State) (w : Nat) : State :=
  let k := s.me
  let h := s.myIdx
  let e := { k.ent h with v := true, st := 0, g := false, gang := none, ends := [], kept := [], fences := [] }
  { s.setCore s.cur { k.setEnt h e with
      run := some h, blk := e.wpb, pc := pcLine k.pc + 2, line := some (lineOfHead w), edge := .bound, ahead := none, hold := none } with
    pick := .core s.cur :: s.pick, net := s.net.filter (fun x => !urgent x), back := s.back.filter (fun x => !urgent x), hot := false }

/-- The service core whose turn it is has the word before it. -/
def State.placeService (s : State) (w : Nat) : State :=
  { s.modSlice s.svcCur.toNat fun k => { k with svc := w :: k.svc, reload := false } with
    pick := .service s.svcCur :: s.pick, net := s.net.filter (fun x => !urgent x), back := s.back.filter (fun x => !urgent x), hot := false }

end Sys2Proof.Machine
end

