-- ==== Sys2Proof/Machine/Step.lean ====
section
/-! DEFINITION. One step of the module: it handles one thing that is on its way, or a core or a service core has its turn. -/

namespace Sys2Proof.Machine

/-- One step. After a thermal trip (R436) only a reset acts any more. -/
def step (s : State) : Host.Outcome State Fault Refusal :=
  if s.hot then
    match s.queue.findIdx? (· == .reset) with
    | some n => s.handle n
    | none => .fault .thermalStop
  else
    let m := s.move
    ({ s.tick with pick := m.2 }).perform m.1

/-- The state in which the next step runs the instruction whose bits are `w`: a head in an entered line of a running task (R77, R79), or a word
before a service core (R233). -/
def State.withFetchWord (s : State) (nbits w : Nat) : State :=
  if isService nbits w then s.placeService w else s.placeHead w

end Sys2Proof.Machine
end

