-- ==== Sys2Proof/Safety.lean ====
section
/-! DEFINITION. The terms in which claims are made: what a safe run is, when a head meets nothing to wait for, and what a frame leaves unchanged. -/

namespace Sys2Proof.Safety

open Sys2Proof.Machine

/-- What a step or an instruction answers. -/
abbrev Result := Host.Outcome State Fault Refusal

/-! ## Safe runs -/

/-- A step that goes on. -/
def goesOn (s : State) : Prop := ∃ t, step s = .next t

/-- Memory has its one canonical form. -/
def memOk (s : State) : Prop := Mem.wf s.mem = true

/-- A buoy stands between 0 and its ceiling, which stands between 1 and 63 (R220). -/
def buoyOk (b : Buoy) : Prop := b.val ≤ b.ceil ∧ 1 ≤ b.ceil ∧ b.ceil ≤ 63

/-! ## When a head has nothing to wait for -/

/-- No register of the running task is pending, no fault is held with one, no fence holds what comes after it, and none of its VX heads has still to
consume a slot (R121, R231, R234, R275). -/
def Quiet (s : State) : Prop := s.wsW offSbrd = 0 ∧ s.myEnt.held = [] ∧ s.myEnt.fences = [] ∧ s.takeNames = []

/-- The running task is in no gang. -/
def Alone (s : State) : Prop := s.myEnt.g = false ∧ s.myEnt.gang = none

/-- Nothing that the core sent is still under way: no loads, no late-translated requests, no engine heads, no transfers, no mooring entry. -/
def Idle (s : State) : Prop :=
  s.me.loads = [] ∧ s.me.srb = [] ∧ s.me.late = [] ∧ s.me.vxq = [] ∧ s.me.mxq = [] ∧ s.me.moor = [] ∧ s.me.cxq = [] ∧ s.me.fifo = [] ∧ s.me.xfers = []
    ∧ s.me.hold = none ∧ s.myEnt.engf = []

/-- A source that can be read now: a register, or a handle bound to a channel of kind 0 that holds the slots it waits for, in no sealed range (R50, R241,
R381). -/
def able (s : State) : Src → Prop
  | .g _ => True
  | .c h k => (s.h h).getLsbD 63 = true ∧ field (s.h h) 57 2 = 0 ∧ (s.me.chan (s.chanOf h)).v = true ∧ k.toNat ≤ (s.me.chan (s.chanOf h)).fill
    ∧ s.wordSealed h = false

def ableOpd (s : State) : Opd → Prop
  | .src c => able s c
  | .imm _ => True

/-- What two sources give, B's word consumed before C's (R241): the two values, and the state in which both are read. -/
def reads (s : State) (b : Src) : Opd → Word × Word × State
  | .src c => ((s.take b).1, ((s.take b).2.take c).1, ((s.take b).2.take c).2)
  | .imm v => ((s.take b).1, v, (s.take b).2)

/-- What a source or immediate gives alone. -/
def readsOne (s : State) : Opd → Word × State
  | .src c => s.take c
  | .imm v => (v, s)

/-! ## Frames -/

/-- The state without memory and cores. -/
def outside (s : State) : State := { s with mem := [], cores := [] }

/-- A core without what every completed head changes: the PC, the line at it, and the counters of events (R224). -/
def still (k : Core) : Core := { k with pc := 0, line := none, edge := .bound, ahead := none, hold := none, evc := [] }

/-- From `s` to `t` a head of the running task has changed nothing but the PC, the event counters, and bytes of memory in `A`. -/
def changedOnly (A : Nat → Prop) (s t : State) : Prop :=
  outside t = outside s ∧ (∀ c, c ≠ s.cur → t.core c = s.core c) ∧ still (t.core s.cur) = still (s.core s.cur)
    ∧ ∀ a, ¬A a → Mem.read t.mem a = Mem.read s.mem a

/-- The eight bytes of word `w` of the running task's register image. -/
def imageWord (s : State) (w : Nat) (a : Nat) : Prop := wsAddr s.cur s.me.blk (8 * w) ≤ a ∧ a < wsAddr s.cur s.me.blk (8 * w) + 8

/-- No byte. -/
def nowhere (_ : Nat) : Prop := False

/-- The workspace word of the running task's handler entry at byte `off` of its register image (R118, R163). -/
def own (s : State) (off : Nat) : Word := s.ws s.cur s.myEnt.wpb off

/-- From `s` to `t` the running task of `s` has taken a precise fault or trap (R126, R395): FSTAT and FADDR, the saved PCs of its fault record, the
fault entry as its PC in word 0, state runnable, and the core runs it no more. -/
def entersFault (s t : State) (code : Code) (head : Nat) (detail : BitVec 32) (faddr : Word) (rpc epc : VA) : Prop :=
  let w := t.ws s.cur s.myEnt.wpb offFstat
  w.getLsbD 63 = true ∧ w.getLsbD 62 = true ∧ field w 40 16 = code.toNat ∧ field w 35 5 = head % 32 ∧ field w 0 32 = detail.toNat
    ∧ t.ws s.cur s.myEnt.wpb offFaddr = faddr
    ∧ t.ws s.cur s.myEnt.wpb 0 = s.myEnt.fvec.setWidth 64
    ∧ (t.ent s.cur s.myIdx).rpc = rpc ∧ (t.ent s.cur s.myIdx).epc = epc ∧ (t.ent s.cur s.myIdx).st = 1 ∧ (t.core s.cur).run = none

/-- From `s` to `t` the events `l` and after them one reply have been sent, and nothing else has left or arrived; its mark is the queue's (R219). -/
def sentReply (s t : State) (l : List Event) (c : CoreId) (ret : Ret) (b : RepBody) (buoy : Option Sys2Proof.Step) : Prop :=
  ∃ mk : Bool, t.net = s.net ++ l ++ [.memrepReceive ⟨c, ret, b, buoy, mk⟩]

/-! ## Requests -/

/-- A request of the running task for an address can leave for its translation home: a place in the retention buffer, a free path, and a step of the
home's buoy (R183, R196, R220, R228). -/
def atHome (s : State) (va : Nat) : Prop :=
  s.me.srb.length < 64 ∧ s.latePathFree va = .ok () ∧ 0 < (s.me.buoy (BitVec.ofNat 7 (s.home s.me.part s.myEnt.sid va))).val

/-- From `s` to `t` one late-translated request has left for its home, under the core's next name and step; its copy is retained, and no byte of
memory has changed (R183, R196). -/
def lateSent (s t : State) (r : MemReq) : Prop :=
  let x : MemReq := { r with ret := .retained (s.me.ids + 1), buoy := r.buoy.map fun y => ⟨y.b, s.me.ids + 2⟩ }
  t.net = s.net ++ [.lateRequestAtHome x] ∧ t.mem = s.mem ∧ t.me.srb = s.me.srb ++ [⟨s.me.ids + 1, x, false, true⟩]

/-- An access of the running task to a line of HBM at `pa`, translated from `va`, can leave for the receiver `rcv`: the address exists, its path is
free, and the receiver's buoy has a step (R143, R145, R220, R228). -/
def free (s : State) (pa va rcv : Nat) (wr : Bool) : Prop :=
  pa < 2 ^ 56 ∧ paRegion pa = 0 ∧ s.paBad pa = false ∧ s.isLost pa = false ∧ s.pathFree va rcv wr = .ok ()
    ∧ ∀ y, receiverBuoy pa rcv = some y → 0 < (s.me.buoy y).val

/-- A load can leave for its home bank, which is not behind a copy slice (R150). -/
def atBank (s : State) (pa va : Nat) (det : Bool) : Prop :=
  let rcv := s.receiver s.cur s.me.part pa true det
  rcv < 2048 ∧ free s pa va rcv false

/-- An access that writes can leave for its home bank. -/
def toBankFrom (s : State) (pa va : Nat) (det : Bool) : Prop := free s pa va (s.receiver s.cur s.me.part pa false det) true

/-- From `s` to `t` one request has left for its bank, under the core's next name and step (R26, R273). -/
def asked (s t : State) (r : MemReq) : Prop :=
  t.net = s.net ++ [.bankRequest { r with ret := .load (s.me.ids + 1), buoy := r.buoy.map fun y => ⟨y.b, s.me.ids + 2⟩ }]

/-! ## Families -/

/-- The guard, destination and sources of the heads of spec chapter 13 that write a general register and raise no fault of their own (R245 to R257,
R259 to R261). -/
def scalarForm : Instr → Option (Guard × GReg × Src × Opd)
  | .add o | .sub o | .mul o | .mulh o | .div o | .mod o | .min o | .max o => some (o.q, o.a, o.b, o.c)
  | .abs o | .neg o | .clz o | .ctz o | .popc o | .movX o => some (o.q, o.a, o.b, .imm 0)
  | .and o | .andn o | .or o | .xor o | .shl o | .shr o | .sra o | .ptag o | .pget o | .pdiff o => some (o.q, o.a, o.b, o.c)
  | .log3 o => some (o.q, o.a, o.b, .src o.c)
  | .fshl o | .fshr o => some (o.q, o.a, o.b, .src o.c)
  | .sel o => some (o.q, o.a, o.b, .src o.c)
  | .cvt o | .cvtSat o => some (o.q, o.a, o.b, .imm 0)
  | .ldi a v => some (.always, a, .g 0, .imm v)
  | .mov a b => some (.always, a, .g b, .imm 0)
  | _ => none

/-- The guard, predicate and sources of a compare (R253). -/
def compareForm : Instr → Option (Guard × PReg × Src × Opd)
  | .cmpEq o | .cmpNe o | .cmpLt o | .cmpLe o | .cmpGt o | .cmpGe o => some (o.q, o.p, o.b, o.c)
  | _ => none

/-- The guard of the heads of chapters 13 to 16 that a scalar predicate guards and whose test comes before all else (R66). -/
def headGuard : Instr → Option Guard
  | .add o | .sub o | .mul o | .mulh o | .div o | .mod o | .min o | .max o => some o.q
  | .abs o | .neg o | .clz o | .ctz o | .popc o | .movX o => some o.q
  | .and o | .andn o | .or o | .xor o | .shl o | .shr o | .sra o | .pstep o | .ptag o | .pget o | .pdiff o => some o.q
  | .log3 o => some o.q
  | .fshl o | .fshr o => some o.q
  | .cmpEq o | .cmpNe o | .cmpLt o | .cmpLe o | .cmpGt o | .cmpGe o => some o.q
  | .sel o => some o.q
  | .cvt o | .cvtSat o => some o.q
  | .ld o | .ldnb o | .ldc o | .st o | .bredAdd o | .bredMin o | .bredMax o => some o.q
  | .bupdSet o | .bupdAdd o | .bupdMul o | .bupdMin o | .bupdMax o => some o.q
  | .discard o => some o.q
  | .atomAdd o | .atomAnd o | .atomOr o | .atomXor o | .atomMin o | .atomMax o | .atomSwap o | .atomCas o => some o.q
  | .barinit o => some o.q
  | .cadv o | .cwait o => some o.q
  | .csend o | .csendEos o => some o.q
  | .cmask o | .cunmask o | .setprio o | .trap o => some o.q
  | .decr o => some o.q
  | .crd o | .cwr o => some o.q
  | .logctlDefine o | .logctlDisable o | .logctlSequence o => some o.q
  | .map o | .grant o | .unmap o => some o.q
  | .spqry o => some o.q
  | .cxq o | .cxqNb o => some o.q
  | .mxmul o | .mxs3 o => some o.q
  | .mxst o | .mxstSat o => some o.q
  | .cxwait o => some o.q
  | _ => none

/-- The condition and the offset of a branch (R262 to R266). -/
def branchOf (s : State) : Instr → Option (Bool × BitVec 19)
  | .br off => some (true, off)
  | .beq o => some (s.g o.a == s.g o.b, o.off)
  | .bne o => some (s.g o.a != s.g o.b, o.off)
  | .bltI64 o => some (decide ((s.g o.a).toInt < (s.g o.b).toInt), o.off)
  | .bgeI64 o => some (decide ((s.g o.b).toInt ≤ (s.g o.a).toInt), o.off)
  | .bltZ64 o => some (decide ((s.g o.a).toNat < (s.g o.b).toNat), o.off)
  | .bgeZ64 o => some (decide ((s.g o.b).toNat ≤ (s.g o.a).toNat), o.off)
  | .bz a off => some (s.g a == 0, off)
  | .bnz a off => some (s.g a != 0, off)
  | .ball p n off => some (decide (∀ i, i < n.toNat → (s.p p).getLsbD i = true), off)
  | .bany p n off => some (decide (∃ i, i < n.toNat ∧ (s.p p).getLsbD i = true), off)
  | .bp p off => some ((s.p p).getLsbD 0, off)
  | .bnp p off => some (!(s.p p).getLsbD 0, off)
  | .bby b lvl off => some (decide (lvl.toNat ≤ (s.me.buoy b).val), off)
  | .bcf h n off => some (decide (n.toNat ≤ (s.me.chan (s.chanOf h)).fill), off)
  | .beos h off => some ((s.h h).getLsbD 62, off)
  | _ => none

/-- The handle that a branch names must be bound (R266). -/
def branchHandle : Instr → Option Handle
  | .bcf h _ _ => some h
  | .beos h _ => some h
  | _ => none

/-- The head, guard, sources, broadcast register and destination of the vector heads that only enter the VX queue at issue (R325). -/
def vxForm : Instr → Option (Guard × List VSrc × Option GReg × VDest)
  | .vadd o | .vsub o | .vmul o | .vaddSat o | .vsubSat o | .vmulSat o | .vmin o | .vmax o | .vminn o | .vmaxn o =>
    some (o.q, opdSrc o.b o.c, opdBc o.c, .vec)
  | .vfma o | .vfms o => some (o.q, opdSrc o.b o.c, opdBc o.c, .vec)
  | .vand o | .vor o | .vxor o | .vsel o | .vlog3 o => some (o.q, opdSrc o.b o.c, opdBc o.c, .vec)
  | .vcmpEq o | .vcmpNe o | .vcmpLt o | .vcmpLe o | .vcmpGt o | .vcmpGe o => some (o.q, opdSrc o.b o.c, opdBc o.c, .pred o.p)
  | .vcvt o | .vcvtSat o => some (o.q, [o.b], none, .vec)
  | .enc o | .encSat o | .dec o => some (o.q, [o.b], none, .vec)
  | .vbcast o => some (o.q, [], (match o.b with | .g r => some r | .lane _ _ => none), .vec)
  | .vperm o => some (o.q, [o.b, o.c], none, .vec)
  | .vredAdd o | .vredMin o | .vredMax o => some (o.q, [], none, .gen o.a)
  | .vrcp o | .vrsq o | .vexp2 o | .vlog2 o => some (o.q, [o.b], none, .vec)
  | _ => none

end Sys2Proof.Safety
end

