-- ==== Sys2Proof/Certificates/Slice0/Obligations.lean ====
section
/-! DEFINITION. The statements for the provers, from the numbered rules of the spec: results and frames of the heads, the effects of what arrives, encodings, and what every step
keeps. A clause `exec i s = .next t`, or `there is t` with it, says that the instruction completes there. -/

open Sys2Proof Sys2Proof.Machine Sys2Proof.Safety

/-- ADD, SUB, MUL, MIN and MAX write the exact result kept to the suffix's width, or the F32 result, and go on (spec/13, R242, R245, R247). MULH writes
the high 64 bits of the product; DIV and MOD truncate toward zero, a zero divisor giving all ones and the dividend, and the minimum over -1 giving
the minimum and 0 (spec/13, R245, R246). Completes: add, sub, mul, mulh, div, mod, min, max. Where the spec leaves a point open, the clauses rest on
the model's choices of log entry 14. -/
def Obligations.ArithmeticHeadsWriteTheirResults : Prop :=
  (∀ (o : AluOp) (s : State), Quiet s → s.guardOn o.q = true → able s o.b → ableOpd s o.c →
    let r := reads s o.b o.c
    let x := r.1
    let y := r.2.1
    let out (n : Int) (f : Nat) : Result := .next ((r.2.2.setG o.a (if o.t.isFloat then BitVec.ofNat 64 f else put o.t n)).advance)
    exec (.add o) s = out (ival o.t x + ival o.t y) (f32Add x.toNat y.toNat)
      ∧ exec (.sub o) s = out (ival o.t x - ival o.t y) (f32Sub x.toNat y.toNat)
      ∧ exec (.mul o) s = out (ival o.t x * ival o.t y) (f32Mul x.toNat y.toNat)
      ∧ exec (.min o) s = out (min (ival o.t x) (ival o.t y)) (f32Min x.toNat y.toNat)
      ∧ exec (.max o) s = out (max (ival o.t x) (ival o.t y)) (f32Max x.toNat y.toNat))
  ∧ (∀ (o : AluOp) (s : State), (o.t = .i64 ∨ o.t = .z64) → Quiet s → s.guardOn o.q = true → able s o.b → ableOpd s o.c →
    let r := reads s o.b o.c
    let x := ival o.t r.1
    let y := ival o.t r.2.1
    let out (w : Word) : Result := .next ((r.2.2.setG o.a w).advance)
    exec (.mulh o) s = out (BitVec.ofInt 64 (x * y / 2 ^ 64))
      ∧ (y = 0 → exec (.div o) s = out (BitVec.allOnes 64) ∧ exec (.mod o) s = out r.1)
      ∧ (o.t = .i64 → x = -2 ^ 63 → y = -1 → exec (.div o) s = out (BitVec.ofInt 64 (-2 ^ 63)) ∧ exec (.mod o) s = out 0)
      ∧ (y ≠ 0 → exec (.div o) s = out (BitVec.ofInt 64 (x.tdiv y)) ∧ exec (.mod o) s = out (BitVec.ofInt 64 (x - x.tdiv y * y))))

/-- ABS and NEG write put(t, |ival|) and put(t, -ival), and for `.f32` clear or invert the sign with a canonical NaN (spec/13, R247). CLZ, CTZ and POPC
count: the first set bit from the top and from the bottom, 64 where there is none, and the number of ones; MOV copies (spec/13, R248, R257).
Completes: abs, neg, clz, ctz, popc, movX. -/
def Obligations.UnaryHeadsWriteTheirResults : Prop :=
  (∀ (o : UnOp) (s : State), Quiet s → s.guardOn o.q = true → able s o.b →
    let x := (s.take o.b).1
    let out (n : Int) (f : Nat) : Result :=
      .next (((s.take o.b).2.setG o.a (if o.t.isFloat then BitVec.ofNat 64 f else put o.t n)).advance)
    let bits := x.toNat % 2 ^ 32
    let nan : Bool := decide (0x7F800000 < bits % 2 ^ 31)
    exec (.abs o) s = out |ival o.t x| (if nan then 0x7FC00000 else bits % 2 ^ 31)
      ∧ exec (.neg o) s = out (-ival o.t x) (if nan then 0x7FC00000 else (bits + 2 ^ 31) % 2 ^ 32))
  ∧ (∀ (o : UnOp) (s : State), Quiet s → s.guardOn o.q = true → able s o.b →
    let x := (s.take o.b).1
    let out (w : Word) : Result := .next (((s.take o.b).2.setG o.a w).advance)
    (∀ n, n < 64 → x.getLsbD (63 - n) = true → (∀ i, i < n → x.getLsbD (63 - i) = false) → exec (.clz o) s = out (BitVec.ofNat 64 n))
      ∧ (∀ n, n < 64 → x.getLsbD n = true → (∀ i, i < n → x.getLsbD i = false) → exec (.ctz o) s = out (BitVec.ofNat 64 n))
      ∧ (x = 0 → exec (.clz o) s = out 64 ∧ exec (.ctz o) s = out 64)
      ∧ exec (.popc o) s = out (BitVec.ofNat 64 ((Finset.range 64).filter fun i => x.getLsbD i = true).card)
      ∧ exec (.movX o) s = out x)

/-- The logic heads act bit by bit; the shifts take a register's count mod 64, fill with zeros or with bit 63, and lose nothing else (spec/13, R249,
R250). FSHL keeps the high word of the pair B:C shifted left, FSHR the low word of it shifted right, by a count mod 64 (spec/13, R251). LOG3 looks
every bit up in its table at B*4 + C*2 + D; SEL takes B when bit 0 of its predicate is 1 and C otherwise, after both are read (spec/13, R252, R254).
Completes: and, andn, or, xor, log3, shl, shr, sra, fshl, fshr, sel. Where the spec leaves a point open, the clauses rest on the model's choices of
log entry 14. -/
def Obligations.BitHeadsWriteTheirResults : Prop :=
  (∀ (o : BinOp) (s : State), Quiet s → s.guardOn o.q = true → able s o.b → ableOpd s o.c →
    let r := reads s o.b o.c
    let x := r.1
    let y := r.2.1
    let n := y.toNat % 64
    let out (i : Instr) (f : Nat → Bool) : Prop :=
      ∃ w : Word, (∀ k, k < 64 → w.getLsbD k = f k) ∧ exec i s = .next ((r.2.2.setG o.a w).advance)
    out (.and o) (fun k => x.getLsbD k && y.getLsbD k)
      ∧ out (.andn o) (fun k => x.getLsbD k && !y.getLsbD k)
      ∧ out (.or o) (fun k => x.getLsbD k || y.getLsbD k)
      ∧ out (.xor o) (fun k => x.getLsbD k != y.getLsbD k)
      ∧ out (.shl o) (fun k => decide (n ≤ k) && x.getLsbD (k - n))
      ∧ out (.shr o) (fun k => decide (k + n < 64) && x.getLsbD (k + n))
      ∧ out (.sra o) (fun k => if k + n < 64 then x.getLsbD (k + n) else x.getLsbD 63))
  ∧ (∀ (o : FshOp) (s : State), Quiet s → s.guardOn o.q = true → able s o.b → able s o.c →
    let r := reads s o.b (.src o.c)
    let n := (match o.n with | .reg d => s.g d | .imm v => v : Word).toNat % 64
    let pair : BitVec 128 := r.1 ++ r.2.1
    let out (i : Instr) (f : Nat → Bool) : Prop :=
      ∃ w : Word, (∀ k, k < 64 → w.getLsbD k = f k) ∧ exec i s = .next ((r.2.2.setG o.a w).advance)
    out (.fshl o) (fun k => (pair <<< n).getLsbD (64 + k)) ∧ out (.fshr o) (fun k => (pair >>> n).getLsbD k))
  ∧ ((∀ (o : Log3Op) (s : State), Quiet s → s.guardOn o.q = true → able s o.b → able s o.c →
    let r := reads s o.b (.src o.c)
    ∃ w : Word, (∀ k, k < 64 → w.getLsbD k =
        o.tt.getLsbD ((r.1.getLsbD k).toNat * 4 + (r.2.1.getLsbD k).toNat * 2 + ((s.g o.d).getLsbD k).toNat))
      ∧ exec (.log3 o) s = .next ((r.2.2.setG o.a w).advance))
  ∧ ∀ (o : SelOp) (s : State), Quiet s → s.guardOn o.q = true → able s o.b → able s o.c →
    let r := reads s o.b (.src o.c)
    exec (.sel o) s = .next ((r.2.2.setG o.a (if (s.p o.p).getLsbD 0 then r.1 else r.2.1)).advance))

/-- CMP writes 1 or 0 into its predicate: integers in the order of ival, F32 values in theirs, where a NaN satisfies NE alone (spec/13, R253).
Completes: cmpEq, cmpNe, cmpLt, cmpLe, cmpGt, cmpGe. Where the spec leaves a point open, the clauses rest on the model's choices of log entry 14. -/
def Obligations.CompareHeadsWriteTheirPredicate : Prop :=
  ∀ (o : CmpOp) (s : State), Quiet s → s.guardOn o.q = true → able s o.b → ableOpd s o.c →
    let r := reads s o.b o.c
    let x := ival o.t r.1
    let y := ival o.t r.2.1
    let out (p : Bool) : Result := .next ((r.2.2.setP o.p (if p then 1 else 0)).advance)
    (o.t.isFloat = false →
      exec (.cmpEq o) s = out (decide (x = y)) ∧ exec (.cmpNe o) s = out (decide (x ≠ y)) ∧ exec (.cmpLt o) s = out (decide (x < y))
        ∧ exec (.cmpLe o) s = out (decide (x ≤ y)) ∧ exec (.cmpGt o) s = out (decide (y < x)) ∧ exec (.cmpGe o) s = out (decide (y ≤ x)))
    ∧ (o.t.isFloat = true →
      let c := (tyVal o.t r.1.toNat).cmp (tyVal o.t r.2.1.toNat)
      exec (.cmpEq o) s = out (c == some .eq) ∧ exec (.cmpNe o) s = out (c != some .eq) ∧ exec (.cmpLt o) s = out (c == some .lt)
        ∧ exec (.cmpLe o) s = out (c == some .lt || c == some .eq) ∧ exec (.cmpGt o) s = out (c == some .gt)
        ∧ exec (.cmpGe o) s = out (c == some .gt || c == some .eq))

/-- CVT and CVT.SAT convert the low bits of their source under the plain and the saturating column; LDI and the N form of MOV write their constant and
their register (spec/13, R255 to R257). PTAG, PGET and PDIFF (spec/13, R259 to R261): a new upper byte over the address, a field or a derived
address, and a distance in elements. PSTEP moves the address by a signed count of elements and keeps the upper byte; past either end it takes
PTR_OVERFLOW as a precise fault with gB in FADDR, in the state in which its channel words are consumed (spec/13, R258). Completes: cvt, cvtSat, ldi,
mov, pstep, ptag, pget, pdiff. Where the spec leaves a point open, the clauses rest on the model's choices of log entry 14. -/
def Obligations.ConvertMoveAndPointerHeadsWriteTheirResults : Prop :=
  ((∀ (o : CvtOp) (s : State), Quiet s → s.guardOn o.q = true → able s o.b →
    let x := (s.take o.b).1
    let out (sat : Bool) : Result :=
      .next (((s.take o.b).2.setG o.a (putBits o.t (convert o.s o.t sat (x.toNat % 2 ^ tyBits o.s)))).advance)
    exec (.cvt o) s = out false ∧ exec (.cvtSat o) s = out true)
  ∧ ∀ (a b : GReg) (v : Word) (s : State), Quiet s →
    exec (.ldi a v) s = .next (s.setG a v).advance ∧ exec (.mov a b) s = .next (s.setG a (s.g b)).advance)
  ∧ (∀ (o : BinOp) (s : State), Quiet s → s.guardOn o.q = true → able s o.b → ableOpd s o.c →
    let r := reads s o.b o.c
    let x := r.1
    let y := r.2.1
    let f := x.toNat / 2 ^ 60
    let k := x.toNat / 2 ^ 56 % 16
    let va := x.toNat % 2 ^ 56
    let out (w : Word) : Result := .next ((r.2.2.setG o.a w).advance)
    let addr (a : Nat) : Word := if fmtLegal f k = true ∧ a < 2 ^ 56 then BitVec.ofNat 64 a else BitVec.allOnes 64
    exec (.ptag o) s = out (y.extractLsb' 0 8 ++ x.extractLsb' 0 56)
      ∧ exec (.pget o) s = out (
        if y.toNat % 8 = 0 then BitVec.ofNat 64 va
        else if y.toNat % 8 = 1 then BitVec.ofNat 64 f
        else if y.toNat % 8 = 2 then BitVec.ofNat 64 k
        else if y.toNat % 8 = 3 then addr (if k = 0 then va else va * fmtWidth f / 8 + va / 2 ^ k + 1)
        else if y.toNat % 8 = 4 then addr (if k = 0 then va else va / 2 ^ k * (2 ^ k * fmtWidth f / 8 + 1))
        else 0)
      ∧ exec (.pdiff o) s = out (
        let d : Int := (va : Int) - (y.toNat % 2 ^ 56 : Nat)
        BitVec.ofInt 64 (if k = 0 then d * 8 / fmtWidth f else d)))
  ∧ (∀ (o : BinOp) (s : State), Quiet s → s.guardOn o.q = true → able s o.b → ableOpd s o.c →
    let r := reads s o.b o.c
    let f := r.1.toNat / 2 ^ 60
    let k := r.1.toNat / 2 ^ 56 % 16
    let n := r.2.1.toInt
    let va : Int := (r.1.toNat % 2 ^ 56 : Nat) + (if k = 0 then n * fmtWidth f / 8 else n)
    (0 ≤ va → va < 2 ^ 56 →
      exec (.pstep o) s = .next ((r.2.2.setG o.a (r.1.extractLsb' 56 8 ++ BitVec.ofInt 56 va)).advance))
    ∧ (va < 0 ∨ 2 ^ 56 ≤ va → exec (.pstep o) s = .next (r.2.2.faultHere cPtrOverflow 0 r.1 r.2.2.me.pc)))

/-- A finite or infinite pattern of every float layout rounds back to itself, so a conversion of a value that its target represents is exact (spec/05,
R93, R105). Rounding to the nearest integer multiple: the result is never further than half a step, and a tie goes to the even one (spec/05, R105).
An integer suffix keeps the low `w` bits of the exact result, extended by sign for `.i` and with zeros for `.z` (spec/13, R242). The table that TBLD
builds: each index holds the finite entries of its range by value and code, the lowest code of each infinity, and as NaN code the lowest NaN or the
code given; ENC gives the nearest finite entry, the lowest code of equally near ones, and for NaN, an infinity or an empty index what R103 says;
ENC.SAT takes the largest or the smallest finite entry for an infinity (spec/05, R101, R103). Where the spec leaves a point open, the clauses rest
on the model's choices of log entry 61. -/
def Obligations.NumbersRoundAndWrapAsStated : Prop :=
  (∀ f : Fmt, (f = .f32 ∨ f = .f19 ∨ f = .bf16 ∨ f = .f16) → ∀ n : Nat, n < 2 ^ f.width →
    (f.decode n ≠ .nan → f.encode false (f.decode n) = n) ∧ (f.decode n = .nan → f.encode false (f.decode n) = f.nanBits))
  ∧ (∀ m d : Nat,
    2 * ((rneShift m (-(d : Int)) : Int) * 2 ^ d - m).natAbs ≤ 2 ^ d
      ∧ (2 * ((rneShift m (-(d : Int)) : Int) * 2 ^ d - m).natAbs = 2 ^ d → rneShift m (-(d : Int)) % 2 = 0))
  ∧ (∀ r : Int,
    put .i8 r = (BitVec.ofInt 8 r).signExtend 64 ∧ put .i16 r = (BitVec.ofInt 16 r).signExtend 64 ∧ put .i32 r = (BitVec.ofInt 32 r).signExtend 64
      ∧ put .i64 r = BitVec.ofInt 64 r ∧ put .z8 r = (BitVec.ofInt 8 r).setWidth 64 ∧ put .z16 r = (BitVec.ofInt 16 r).setWidth 64
      ∧ put .z32 r = (BitVec.ofInt 32 r).setWidth 64 ∧ put .z64 r = BitVec.ofInt 64 r
      ∧ ∀ x : Word, ival .i8 x = (x.setWidth 8).toInt ∧ ival .i16 x = (x.setWidth 16).toInt ∧ ival .i32 x = (x.setWidth 32).toInt
        ∧ ival .i64 x = x.toInt ∧ ival .z8 x = (x.setWidth 8).toNat ∧ ival .z16 x = (x.setWidth 16).toNat
        ∧ ival .z32 x = (x.setWidth 32).toNat ∧ ival .z64 x = x.toNat)
  ∧ (∀ (ents : List (BitVec 19)) (a : Nat) (four : Bool), ents.length = 256 →
    let t := Table.build ents a
    let n := if four then 16 else 256
    let ix := if four then t.ix4 else t.ix8
    let before (c d : Nat) : Prop := (t.val c).cmp (t.val d) = some .lt ∨ (t.val c).cmp (t.val d) = some .eq ∧ c < d
    let lowest (o : Option Nat) (v : Val) : Prop :=
      (o = none ↔ ∀ c < n, t.val c ≠ v) ∧ ∀ c, o = some c → c < n ∧ t.val c = v ∧ ∀ d < c, t.val d ≠ v
    t.ents = ents
      ∧ (∀ c, c ∈ ix.sorted ↔ c < n ∧ ∃ s m e, t.val c = .fin s m e) ∧ ix.sorted.Pairwise before
      ∧ lowest ix.pinf (.inf false) ∧ lowest ix.ninf (.inf true)
      ∧ ((∀ c < n, t.val c ≠ .nan) → ix.nan = a % n)
      ∧ (∀ c < n, t.val c = .nan → (∀ d < c, t.val d ≠ .nan) → ix.nan = c)
      ∧ (∀ sat : Bool, t.enc four sat .nan = ix.nan)
      ∧ (∀ (sat : Bool) (x : Val), ix.sorted = [] → t.enc four sat x = ix.nan)
      ∧ (ix.sorted ≠ [] →
        (∀ (sat s : Bool) (m : Nat) (e : Int),
          let x : Val := .fin s m e
          let c := t.enc four sat x
          c ∈ ix.sorted ∧ ∀ d ∈ ix.sorted, d ≠ c → (((t.val c).sub x).abs.cmp ((t.val d).sub x).abs = some .lt
            ∨ (((t.val c).sub x).abs.cmp ((t.val d).sub x).abs = some .eq ∧ c < d)))
        ∧ (∀ s : Bool, t.enc four false (.inf s) = (if s then ix.ninf else ix.pinf).getD ix.nan)
        ∧ (∀ s : Bool,
          let c := t.enc four true (.inf s)
          c ∈ ix.sorted ∧ ∀ d ∈ ix.sorted, d ≠ c → ((if s = true then (t.val c).cmp (t.val d) else (t.val d).cmp (t.val c)) = some .lt
            ∨ ((t.val c).cmp (t.val d) = some .eq ∧ c < d)))))

/-- BKPT, TRAP and a head that is no instruction take their precise trap: FSTAT, FADDR, the saved PCs, and the fault entry as the PC; TRAP saves the PC
of the head after it and BKPT its own (spec/04, spec/15, spec/19, R91, R317, R395). TRAP with a register or channel operand traps in the state in
which the operand is read (spec/15, R295, R317). SCRUB and LOGCTL in a task without TSTAT.priv raise ILLEGAL_OP with detail 1: the precise fault is
taken, nothing is sent, and no channel word is consumed; the clause leaves out gang members and a task in fault service (spec/15, R318). Completes:
trap, bkpt, illegalOp. Where the spec leaves a point open, the clauses rest on the model's choices of log entries 18, 19. -/
def Obligations.TrapsEnterTheFaultEntry : Prop :=
  (∀ (s : State) (l : Line), Quiet s → Alone s → s.me.run.isSome = true → s.me.line = some l → (own s offFstat).getLsbD 63 = false →
    (∃ t, exec .bkpt s = .next t ∧ entersFault s t cBkpt (pcIdx s.me.pc) 0 0 s.me.pc s.me.pc)
    ∧ (∃ t, exec .illegalOp s = .next t ∧ entersFault s t cIllegalOp (pcIdx s.me.pc) 0 (s.me.pc.setWidth 64) s.me.pc s.me.pc)
    ∧ ∀ (o : GiOp) (n : Word), o.c = .imm n → s.guardOn o.q = true →
      ∃ t, exec (.trap o) s = .next t
        ∧ entersFault s t cTrap (pcIdx s.me.pc) (n.setWidth 32) 0 (nextPc s.me.pc (headCount l)) s.me.pc)
  ∧ (∀ (o : GiOp) (s : State), Quiet s → s.guardOn o.q = true → ableOpd s o.c → s.myEnt.gang = none →
    let r := readsOne s o.c
    exec (.trap o) s = .next (r.2.deliver r.2.cur r.2.myIdx cTrap true (pcIdx r.2.me.pc) (r.1.setWidth 32) 0 r.2.nextHead r.2.me.pc))
  ∧ (∀ (i : Instr) (q : Guard) (s : State),
    ((∃ o : RrOp, i = .scrub o ∧ q = .always) ∨ ∃ o : LogOp, q = o.q ∧ (i = .logctlDefine o ∨ i = .logctlDisable o ∨ i = .logctlSequence o)) →
    Quiet s → Alone s → s.me.run.isSome = true → s.me.hold = none → s.guardOn q = true → s.priv = false → (own s offFstat).getLsbD 63 = false →
    s.myEnt.wpb = s.me.blk → s.myEnt.wait = (false, false) →
    ∃ t, exec i s = .next t ∧ entersFault s t cIllegalOp (pcIdx s.me.pc) 1 (s.me.pc.setWidth 64) s.me.pc s.me.pc
      ∧ t.net = s.net ∧ t.out = s.out ∧ (∀ h, s.hAt s.cur s.myEnt.wpb h = t.hAt s.cur s.myEnt.wpb h) ∧ ∀ n, (t.core s.cur).chan n = (s.core s.cur).chan n)

/-- Scaled blocks: block b holds the codes b * 2^k to (b + 1) * 2^k - 1 in 2^k * w/8 + 1 consecutive bytes, its scale byte first; the code of element V
lies at byte V * w/8 + b + 1, an even 4-bit V in the lower half (spec/05, R98); its value is the decoded code times 2^(s - 127), exactly, and NaN
where s is 0xFF (R99). -/
def Obligations.ScaledBlocksLieAndReadAsStated : Prop :=
  (∀ (f k v : Nat), k ≠ 0 → fmtLegal f k = true →
    let b := v / 2 ^ k
    let size := 2 ^ k * fmtWidth f / 8 + 1
    scaleByte f k v = b * size ∧ codeByte f k v = v * fmtWidth f / 8 + b + 1
      ∧ b * size < codeByte f k v ∧ codeByte f k v < (b + 1) * size
      ∧ (∀ x, fmtWidth f = 4 → codeOf f v x = if v % 2 = 0 then x % 16 else x / 16 % 16) ∧ (∀ x, fmtWidth f ≠ 4 → codeOf f v x = x))
  ∧ (∀ (k : Core) (c : Nat), c < 256 → codeVal k 1 c = .ofInt (intVal true 8 c) ∧ codeVal k 2 c = .ofInt (intVal false 8 c)
    ∧ (c < 16 → codeVal k 12 c = .ofInt (intVal true 4 c) ∧ codeVal k 10 c = k.t0.val c ∧ codeVal k 11 c = k.t1.val c)
    ∧ codeVal k 8 c = k.t0.val c ∧ codeVal k 9 c = k.t1.val c)
  ∧ ∀ (k : Core) (f s c : Nat), scaledVal k f s c = if s = 0xFF then .nan else match codeVal k f c with
    | .fin neg m e => .fin neg m (e + ((s : Int) - 127))
    | x => x

/-- F16, BF16, I4, I8 and Z8 convert to F19 exactly: sign, NaN-ness and fraction are kept (a BF16 fraction is shifted left 3), an infinity stays one, an
F16 subnormal becomes an F19 normal, and a finite number and an integer keep their value. A .SAT of an infinity is left out: log entry 60 has it
(spec/05, R104). -/
def Obligations.NarrowFormatsConvertToF19Exactly : Prop :=
  (∀ (t : Ty) (sat : Bool) (x : Nat), (t = .f16 ∨ t = .bf16) → x < 2 ^ 16 →
    let y := convert t .f19 sat x
    (sat = true → ∀ b, (tyFmt t).decode x ≠ .inf b) →
    y < 2 ^ 19 ∧ y / 2 ^ 18 = x / 2 ^ 15
      ∧ ((tyFmt t).decode x = .nan ↔ Fmt.f19.decode y = .nan)
      ∧ (∀ b, (tyFmt t).decode x = .inf b → Fmt.f19.decode y = .inf b)
      ∧ (∀ b m e, (tyFmt t).decode x = .fin b m e → ((tyFmt t).decode x).cmp (Fmt.f19.decode y) = some .eq)
      ∧ (t = .bf16 → y % 2 ^ 10 = x % 2 ^ 7 * 2 ^ 3)
      ∧ (t = .f16 → x / 2 ^ 10 % 32 ≠ 0 → y % 2 ^ 10 = x % 2 ^ 10)
      ∧ (t = .f16 → x / 2 ^ 10 % 32 = 0 → x % 2 ^ 10 ≠ 0 → 0 < y / 2 ^ 10 % 256 ∧ y / 2 ^ 10 % 256 < 255))
  ∧ ∀ (sat : Bool) (c : Nat), c < 256 →
    (∀ t : Ty, t = .i8 ∨ t = .z8 → (Fmt.f19.decode (convert t .f19 sat c)).cmp (.ofInt (intVal t.isSigned 8 c)) = some .eq)
      ∧ (c < 16 → (Fmt.f19.decode (tyEnc .f19 sat (.ofInt (intVal true 4 c)))).cmp (.ofInt (intVal true 4 c)) = some .eq)

/-- A scalar head whose guard's test fails changes nothing but the PC and consumes nothing (spec/03, R66). Where the spec leaves a point open, the
clauses rest on the model's choices of log entry 27. -/
def Obligations.HeadsWhoseGuardFailsOnlyGoOn : Prop :=
  ∀ (i : Instr) (q : Guard) (s : State), headGuard i = some q → Quiet s → s.me.hold = none → s.guardOn q = false → exec i s = .next s.advance

/-- The scalar heads that write a general register change that register, the PC and the event counters, and nothing else: every other byte of memory,
every other register, flag and core is as it was when the operands had been read (spec/13, R241, R244). A compare changes its predicate, the PC and
the event counters, and nothing else (spec/13, R241, R253). Where the spec leaves a point open, the clauses rest on the model's choices of log entry
14. -/
def Obligations.ScalarAndCompareHeadsChangeOnlyTheirDestination : Prop :=
  (∀ (i : Instr) (q : Guard) (a : GReg) (b : Src) (c : Opd) (s : State), scalarForm i = some (q, a, b, c) → Quiet s → s.guardOn q = true →
    able s b → ableOpd s c → (reads s b c).2.2.myEnt.g = false →
    ∃ t, exec i s = .next t
      ∧ changedOnly (fun x => a ≠ 0 ∧ imageWord (reads s b c).2.2 a.toNat x) (reads s b c).2.2 t)
  ∧ (∀ (i : Instr) (q : Guard) (p : PReg) (b : Src) (c : Opd) (s : State), compareForm i = some (q, p, b, c) → Quiet s → s.guardOn q = true →
    able s b → ableOpd s c → (reads s b c).2.2.myEnt.g = false →
    ∃ t, exec i s = .next t ∧ changedOnly (imageWord (reads s b c).2.2 (32 + p.toNat)) (reads s b c).2.2 t)

/-- A channel handle as a source: the head gets the word at the handle's place in the oldest slot. Before the slot's last word the handle moves to the
next word and the channel is as it was; with the last word the handle takes the packet's eos and the slot is freed (spec/02, spec/06, spec/08, R49,
R122, R170). Freeing a slot moves the channel's read place by one modulo its size and lowers its fill by one; with no packet waiting for it nothing
else changes (spec/08, R170). Where the spec leaves a point open, the clauses rest on the model's choices of log entry 22. -/
def Obligations.ChannelSourcesConsumeOneWordAndFreeTheirSlot : Prop :=
  (∀ (s : State) (h : Handle) (k : BitVec 4),
    let d := s.h h
    let e := s.me.chan (s.chanOf h)
    let wo := field d 59 3
    let tag := s.tagOf s.cur e e.rd.toNat
    (s.take (.c h k)).1 = s.rd64 (spad s.cur (64 * e.base.toNat + 64 * e.rd.toNat + 8 * wo))
      ∧ (wo ≠ tag % 8 → (s.take (.c h k)).2 = s.setH h (putField (putField d 62 1 0) 59 3 (wo + 1)))
      ∧ (wo = tag % 8 →
        (s.take (.c h k)).2 = (s.setH h (putField (putField d 62 1 (if 8 ≤ tag then 1 else 0)) 59 3 0)).freeSlot s.cur (s.chanOf h)))
  ∧ (∀ (s : State) (c : CoreId) (ch : Chan), (∀ p ∈ (s.core c).inChan, p.chan ≠ ch) →
    let e := (s.core c).chan ch
    s.freeSlot c ch = s.modCore c fun k => k.setChan ch
      { e with rd := BitVec.ofNat 8 ((e.rd.toNat + 1) % (e.sm1.toNat + 1)), fill := e.fill - 1 })

/-- After head i < n of a line execution goes on at head i + 1, after head n at head 1 of the line at L + 64, which has still to be entered; nothing
else but the event counters changes (spec/04, R77). A jump changes the PC, and the line unless it stays in it, and nothing else but the event
counters (spec/04, R77). Where the spec leaves a point open, the clauses rest on the model's choices of log entry 27. -/
def Obligations.GoingOnFollowsTheLineAndJumpsChangeOnlyThePc : Prop :=
  (∀ (s : State) (l : Line), s.myEnt.g = false → s.me.line = some l →
    changedOnly nowhere s s.advance
      ∧ (pcIdx s.me.pc < headCount l → s.advance.me.pc = s.me.pc + 2 ∧ s.advance.me.line = some l)
      ∧ (headCount l ≤ pcIdx s.me.pc →
        s.advance.me.pc = s.me.pc - BitVec.ofNat 56 (s.me.pc.toNat % 64) + 64 + 2 ∧ s.advance.me.line = none))
  ∧ (∀ (s : State) (va : VA) (x : Option Line), changedOnly nowhere s (s.jump va x) ∧ (s.jump va x).me.pc = va
    ∧ (s.jump va x).me.line = if pcLine va = pcLine s.me.pc then s.me.line else none)

/-- The branches: one not taken goes on and checks no target; one taken within its line goes to PC + 2 * off when that names a head of the line; one
taken to another line goes there when the fetched line has such a head, or is not well-formed (it then raises ILLEGAL_LINE when it is entered); a
target that is odd, at the start of a line or past its heads raises ILLEGAL_TARGET with the target in FADDR (spec/04, spec/13, R78, R92, R262 to
R266). A branch on a handle that is not bound raises BAD_HANDLE, which every member of a gang takes (spec/13, spec/19, R266, R392, R400). Completes:
br, beq, bne, bltI64, bgeI64, bz, bnz, bltZ64, bgeZ64, ball, bany, bp, bnp, bby, bcf, beos. Where the spec leaves a point open, the clauses rest on
the model's choices of log entry 59. -/
def Obligations.BranchesGoWhereTheirConditionSays : Prop :=
  (∀ (i : Instr) (p : Bool) (off : BitVec 19) (s : State), branchOf s i = some (p, off) → Quiet s → s.me.hold = none → s.myEnt.g = false →
    (∀ h, branchHandle i = some h → (s.h h).getLsbD 63 = true) →
    let va : VA := s.me.pc + 2 * off.signExtend 56
    (p = false → exec i s = .next s.advance)
    ∧ (p = true → (va.toNat % 2 = 1 ∨ va.toNat % 64 = 0) → exec i s = .next (s.faultAll cIllegalTarget 0 (va.setWidth 64)))
    ∧ (p = true → va.toNat % 2 = 0 → va.toNat % 64 ≠ 0 →
      (∀ l, s.me.line = some l → pcLine va = pcLine s.me.pc →
        exec i s = .next (if lineOk l = true ∧ headCount l < va.toNat % 64 / 2 then s.faultAll cIllegalTarget 0 (va.setWidth 64) else s.jump va (some l)))
      ∧ (∀ l t, (s.me.line = none ∨ pcLine va ≠ pcLine s.me.pc) → s.fetch (pcLine va) = .ok (l, t) →
        exec i s = .next (if lineOk l = true ∧ headCount l < va.toNat % 64 / 2 then s.faultAll cIllegalTarget 0 (va.setWidth 64) else t.jump va (some l)))))
  ∧ (∀ (h : Handle) (n : Byte) (off : BitVec 19) (s : State), s.me.hold = none → s.myEnt.g = false → (s.h h).getLsbD 63 = false →
    exec (.bcf h n off) s = .next (s.faultAll cBadHandle (h.setWidth 32) 0) ∧ exec (.beos h off) s = .next (s.faultAll cBadHandle (h.setWidth 32) 0))

/-- CALL links the next head in sequence and goes to its target; RET and JR go to LINK[55:0] and gB[55:0] when R78 accepts the target; `JR g0` raises
ILLEGAL_TARGET with FADDR 0 (spec/13, R263). Completes: call, ret, jr. Where the spec leaves a point open, the clauses rest on the model's choices
of log entry 59. -/
def Obligations.CallRetAndJrTransferControl : Prop :=
  ∀ (s : State) (l : Line), Quiet s → s.myEnt.g = false → s.me.line = some l →
    (∀ (off : BitVec 19) (x : Line) (t : State), s.target (s.me.pc + 2 * off.signExtend 56) = .ok (x, t) →
      exec (.call off) s = .next ((t.setWsW offLink ((nextPc s.me.pc (headCount l)).setWidth 64)).jump (s.me.pc + 2 * off.signExtend 56) (some x)))
    ∧ (∀ (x : Line) (t : State), s.target ((s.wsW offLink).setWidth 56) = .ok (x, t) →
      exec .ret s = .next (t.jump ((s.wsW offLink).setWidth 56) (some x)))
    ∧ (∀ (b : GReg) (x : Line) (t : State), s.target ((s.g b).setWidth 56) = .ok (x, t) →
      exec (.jr b) s = .next (t.jump ((s.g b).setWidth 56) (some x)))
    ∧ (∀ va : VA, va.toNat % 2 = 0 → va.toNat % 64 ≠ 0 → pcLine va = pcLine s.me.pc → (lineOk l = true → va.toNat % 64 / 2 ≤ headCount l) →
      (∀ off : BitVec 19, va = s.me.pc + 2 * off.signExtend 56 →
        exec (.call off) s = .next ((s.setWsW offLink ((nextPc s.me.pc (headCount l)).setWidth 64)).jump va (some l)))
      ∧ (va = (s.wsW offLink).setWidth 56 → exec .ret s = .next (s.jump va (some l)))
      ∧ ∀ b : GReg, va = (s.g b).setWidth 56 → exec (.jr b) s = .next (s.jump va (some l)))
    ∧ exec (.jr 0) s = .next (s.faultAll cIllegalTarget 0 0)

/-- RFT ends fault service: fv becomes 0, the rest of FSTAT stays, what was put by for the line's end stands again, and execution continues at the saved
PC, whose line is entered again; outside fault service it raises ILLEGAL_OP. NOP only goes on (spec/15, spec/19, R317, R397). A second fault in
fault service is not delivered: the task ends with status FAULT and its kernel gets a record (spec/06, spec/19, R126, R395). Completes: rft, nop.
Where the spec leaves a point open, the clauses rest on the model's choices of log entry 19. -/
def Obligations.FaultServiceEndsByRftOrByASecondFault : Prop :=
  (∀ s : State, s.myEnt.g = false →
    ((s.wsW offFstat).getLsbD 63 = true →
      let u := (s.setWsW offFstat (s.wsW offFstat &&& 0x7FFFFFFFFFFFFFFF)).modEnt s.cur s.myIdx fun e => { e with ends := e.ends ++ e.kept, kept := [] }
      exec .rft s = .next (u.setCore s.cur { u.me.count 2 with pc := s.myEnt.rpc, hold := none, line := none, edge := .back, ahead := none }))
    ∧ ((s.wsW offFstat).getLsbD 63 = false → exec .rft s = .next (s.faultAll cIllegalOp 0 (s.me.pc.setWidth 64)))
    ∧ exec .nop s = .next s.advance)
  ∧ (∀ (s : State) (c : CoreId) (h : Hidx) (code : Code) (prc : Bool) (head : Nat) (detail : BitVec 32) (faddr : Word) (rpc epc : VA),
    (s.ws c (s.ent c h).wpb offFstat).getLsbD 63 = true →
    s.deliver c h code prc head detail faddr rpc epc
      = ((s.noteWait c h false).sysRec (s.core c).part [1, putField 0 0 16 c.toNat, putField 0 0 16 h.toNat]).finishTask c h .fault)

/-- The replies of a core: a reply returns its step to the buoy that owes it and then reaches what waits for it, once; one that answers what was
answered before changes nothing. A silent buoy below its ceiling answers what it still owes itself. A remote-completion notice lowers RCC and files
its fault (spec/01, spec/11, spec/12, spec/20, R26, R220, R232, R412). A step comes back unmarked: the value rises by one, to the ceiling at most,
and 256 of them in a row raise the ceiling; a marked reply lowers the ceiling by an eighth of it, rounded up, to 1 at least, and starts the count
anew (spec/11, R220). Completes: memrepReceive, ceilingRecovery, buoySilenceTimeout, remoteCompletionNotice. Where the spec leaves a point open, the
clauses rest on the model's choices of log entry 36. -/
def Obligations.RepliesReachTheirCoresAndMoveTheirBuoys : Prop :=
  (∀ s : State,
    (∀ (r : MemRep) (b : Step) (y : BuoyId) (l : List (Step × Owed)), s.ev = some (.memrepReceive r) → r.buoy = some b → b.b = some y →
      dropOwed b (s.core r.core).owed = some l →
      exec .memrepReceive s = .next ((((((s.modCore r.core fun k => { k with owed := l }).giveStep r.core y (r.marked || s.peerMarked r.core b)).postWaiting
        r.core y).takeReply r.core r.ret r.body).afterReply r.core)))
    ∧ (∀ (r : MemRep) (b : Step) (l : List (Step × Owed)), s.ev = some (.memrepReceive r) → r.buoy = some b → b.b = none →
      dropOwed b (s.core r.core).owed = some l →
      exec .memrepReceive s = .next (((s.modCore r.core fun k => { k with owed := l }).takeReply r.core r.ret r.body).afterReply r.core))
    ∧ (∀ (r : MemRep) (b : Step), s.ev = some (.memrepReceive r) → r.buoy = some b → dropOwed b (s.core r.core).owed = none →
      exec .memrepReceive s = .next s)
    ∧ (∀ (c : CoreId) (b : BuoyId), s.ev = some (.ceilingRecovery c b) → ((s.core c).buoy b).unm = 255 →
      ∃ t, exec .ceilingRecovery s = .next t ∧ t = (s.setBuoy c b
        ⟨min (((s.core c).buoy b).val + 1) (min 63 (((s.core c).buoy b).ceil + 1)), min 63 (((s.core c).buoy b).ceil + 1), 0⟩).release c b)
    ∧ (∀ (c : CoreId) (b : BuoyId), s.ev = some (.buoySilenceTimeout c b) → ((s.core c).buoy b).val < ((s.core c).buoy b).ceil →
      let u := (s.setBuoy c b { (s.core c).buoy b with val := ((s.core c).buoy b).ceil }).modCore c fun k =>
        { k with owed := k.owed.filter fun o => o.1.b != some b }
      let v := ((s.core c).owed.filter fun o => o.1.b == some b).foldl (fun (t : State) o => t.answerLocal c o) u
      exec .buoySilenceTimeout s = .next (((((v.release c b).postWaiting c b).afterReply c).modCore c fun y =>
        { y with evc := countOnce (s.core c).evc y.evc }).sysRec (s.core c).part [9, putField 0 0 16 c.toNat, putField 0 0 16 b.toNat])
      ∧ ∀ (x : Step) (a : Access), v.answerLocal c (x, .mem a) = v.takeReply c a.ret (.fault cPaFault a.fptr))
    ∧ (∀ c : CoreId, s.ev = some (.remoteCompletionNotice c none) →
      exec .remoteCompletionNotice s = .next (s.modCore c fun k => { k with rcc := k.rcc - 1 }))
    ∧ ∀ (c : CoreId) (k : BitVec 3) (w : Who) (code : Code) (a : Word), s.ev = some (.remoteCompletionNotice c (some (k, w, code, a))) →
      exec .remoteCompletionNotice s = .next ((s.modCore c fun k => { k with rcc := k.rcc - 1 }).addSfq w k code a))
  ∧ (∀ b : Buoy, buoyOk b → b.unm ≤ 255 →
    (b.onReply false).ceil = b.ceil ∧ (b.onReply false).val = min (b.val + 1) b.ceil
      ∧ ((b.onReply true).ceil : Int) = max 1 ((b.ceil : Int) - ⌈(b.ceil : ℚ) / 8⌉) ∧ (b.onReply true).val = min (b.val + 1) (b.onReply true).ceil
      ∧ (b.onReply true).unm = 0 ∧ (b.unm < 255 → (b.onReply false).unm = b.unm + 1)
      ∧ buoyOk (b.onReply false) ∧ buoyOk (b.onReply true) ∧ buoyOk b.recover)

/-- Selection and gangs: an age count of 255 raises the effective priority, or makes the entry urgent at 7; a follower switches to its gang entry at its
own line boundary; a join from the gang's own launch is counted and the last one starts the gang; at an idle core selection switches to the entry
that it chooses, and with nothing to run leaves the core idle (spec/06, spec/08, spec/15, R135, R166, R174, R313). Completes: lineBoundarySelection,
ageWrap, gformJoin, gangStart. Where the spec leaves a point open, the clauses rest on the model's choices of log entries 34, 35, 59. -/
def Obligations.SelectionAndGangEventsHaveTheirEffect : Prop :=
  ∀ s : State,
    (∀ (c : CoreId) (h : Hidx), s.ev = some (.ageWrap c h) → (s.ent c h).v = true → (s.ent c h).age = 255 →
      ∃ t, exec .ageWrap s = .next t ∧ (t.ent c h).age = 0
        ∧ ((s.ent c h).eff = 7 → (t.ent c h).urg = true ∧ (t.ent c h).eff = 7)
        ∧ ((s.ent c h).eff ≠ 7 → (t.ent c h).eff = (s.ent c h).eff + 1 ∧ (t.ent c h).urg = (s.ent c h).urg))
    ∧ (∀ (c : CoreId) (h : Hidx) (g : Gang), s.ev = some (.gangStart c h) → (s.ent c h).v = true → (s.ent c h).g = true →
      ((s.ent c h).st = 1 ∨ (s.ent c h).st = 2 ∨ (s.ent c h).st = 3) → (s.ent c h).gang = some g → s.leaderRuns h g = true →
      (s.core c).run = none →
      ∃ t, exec .gangStart s = .next t ∧ (t.core c).run = some h ∧ (t.core c).line = none ∧ (t.ent c h).st = 0)
    ∧ (∀ (c : CoreId) (h r : Hidx) (g : Gang), s.ev = some (.gangStart c h) → (s.ent c h).v = true → (s.ent c h).g = true →
      ((s.ent c h).st = 1 ∨ (s.ent c h).st = 2 ∨ (s.ent c h).st = 3) → (s.ent c h).gang = some g → s.leaderRuns h g = true →
      (s.core c).run = some r → (s.ent c r).st = 0 → (s.ent c r).gang = none →
      ∃ t, exec .gangStart s = .next t ∧ (t.core c).run = some h ∧ (t.core c).line = none ∧ (t.ent c h).st = 0 ∧ (t.ent c r).st = 1)
    ∧ (∀ (c : CoreId) (h : Hidx), s.ev = some (.gangStart c h) → ((s.ent c h).v = false ∨ (s.ent c h).g = false) → exec .gangStart s = .next s)
    ∧ (∀ (c : CoreId) (w : Who) (p : BitVec 4) (h : Hidx) (g : Gang), s.ev = some (.gformJoin c w p) → (s.core c).forming = some (h, g) →
      w.lref = (s.ent c h).lref → w.core = g.coreAt p.toNat →
      let j := (g.joined.filter fun m => decide (m.1 < p.toNat)) ++ (p.toNat, w.hidx) :: g.joined.filter fun m => decide (p.toNat < m.1)
      (j.length < g.sm1.toNat → exec .gformJoin s = .next (s.modEnt c h fun e => { e with gang := some { g with joined := j, formed := false } }))
      ∧ (g.sm1.toNat ≤ j.length →
        exec .gformJoin s = .next ((s.modEnt c h fun e => { e with gang := some { g with joined := j, formed := true } }).wake c h)))
    ∧ (∀ (c : CoreId) (w : Who) (p : BitVec 4) (h : Hidx) (g : Gang), s.ev = some (.gformJoin c w p) → (s.core c).forming = some (h, g) →
      w.lref ≠ (s.ent c h).lref →
      exec .gformJoin s = .next (((s.modEnt c h fun e => { e with gang := none }).setGangBits c h false false 0).deliver c h cBadGang true
        (g.form.toNat % 64 / 2) (w.core.setWidth 32) 0 g.form g.form))
    ∧ (s.me.run = none → s.me.stop = false → (∀ h, s.me.eligible h = false) → exec .lineBoundarySelection s = .next (s.leave s.cur).pass)
    ∧ (∀ h : Hidx, s.me.run = none → s.me.stop = false → s.me.choose = some h →
      ∃ t, exec .lineBoundarySelection s = .next t ∧ (t.core s.cur).run = some h ∧ (t.core s.cur).last = h ∧ (t.core s.cur).line = none
        ∧ (t.ent s.cur h).st = 0 ∧ (t.ent s.cur h).age = 0 ∧ (t.ent s.cur h).eff = (s.ent s.cur h).base)

/-- A request that meets no obstacle at its bank. It is performed on the line that the bank holds: a load answers the line's bytes, or POISON at its
first poisoned byte, and changes nothing; a store puts its bytes, clears the poison of the granules it covers, and of a poisoned granule that it
covers in part writes nothing and answers WPOISON; an atomic answers the old element and puts the new one; a BRED puts the combined element; BUPD's
lanes and BARINIT's words are put; DISCARD drops the line; memory stays as it is. A store or BRED of a DET page enters the quantum buffer, or is
refused. A miss fetches its line, and the fill installs it, or fails the request, and lets what waited go on; a copy slice serves a load from its
copy (spec/07, spec/10, spec/14, R146, R147, R150, R158, R159, R160, R205, R207, R281 to R286). Completes: bankRequest, bankMissFill,
writeBackAccept, copySliceLoad, copyInvalidate, invalidateAck, detRefusal, roomNotice, patrolRead, windowAccess. Where the spec leaves a point open,
the clauses rest on the model's choices of log entry 37. -/
def Obligations.BankEventsHaveTheirEffect : Prop :=
  ∀ s : State,
    (∀ (r : MemReq) (f : BankFacts), s.ev = some (.bankRequest r) → s.bankFacts (.bankRequest r) = some f → paRegion r.pa.toNat = 0 →
      s.sliceOwner (s.lineSlice r.who.pid r.pa.toNat) = some r.who.pid → s.isLost r.pa.toNat = false →
      let pl := s.placeFor f
      let bank := s.bankOf r.who.pid r.pa.toNat
      (r.det = true → isDetOp r.op = true →
        (s.qroom bank = true → exec .bankRequest s = .next (({ s with qbuf := s.qbuf ++ [qentry bank r] } : State).bankAnswer bank r .ok))
        ∧ (s.qroom bank = false → ∃ t, exec .bankRequest s = .next t ∧ t.mem = s.mem ∧ t.qbuf = s.qbuf
            ∧ t.refused = s.refused ++ [(bank, r.who.core.toNat)] ∧ .detRefusal r ∈ t.net))
      ∧ ((r.det = false ∨ isDetOp r.op = false) → s.keyOk r.key r.who.pid = false →
        exec .bankRequest s = .next (s.bankAnswer bank r (.fault cKeyEmpty r.fptr)))
      ∧ ((r.det = false ∨ isDetOp r.op = false) → s.keyOk r.key r.who.pid = true → (∀ x ∈ s.fills, x.1 ≠ pl ∧ s.anyPair x.2 f = false) →
        (∀ w ∈ s.invw, w.ln ≠ s.lineFor f ∧ s.anyPair w.reqs f = false) →
        (∀ l, s.cached pl = some l → r.op ≠ .discard → (opWrites r.op = true → l.shar = 0) → exec .bankRequest s = .next (s.performOn r l))
        ∧ (∀ l, s.cached pl = some l → r.op = .discard → l.shar = 0 → l.key = r.key →
          exec .bankRequest s = .next (({ s.dropLine pl with wbq := s.wbq.filter fun x => x.place != pl } : State).bankAnswer bank r .ok))
        ∧ (s.cached pl = none → r.op = .discard →
          exec .bankRequest s = .next (({ s with wbq := s.wbq.filter fun x => x.place != pl } : State).bankAnswer bank r .ok))
        ∧ (s.cached pl = none → r.op ≠ .discard → (∀ x ∈ s.wbq, x.place ≠ pl) →
          ∃ t, exec .bankRequest s = .next t ∧ Tab.find t.fills pl = some [.bankRequest r]
            ∧ t.net = s.net ++ [.bankMissFill (BitVec.ofNat 50 (s.lineFor f))] ∧ t.mem = s.mem)))
    ∧ (∀ (r : MemReq) (l : CLine) (pl : Nat), s.cached pl = some l → l.key = r.key → l.chk = lineCheck l.data → r.rref = none →
      (∀ h, r.ret ≠ .host h) → pastPort r = false → s.copyFor r = none → s.objsAt (r.pa.toNat / 64) = [] → takesPoison r = false →
      let off := r.pa.toNat % 64
      let m := reqMask r
      let partPoison (bm : BitVec 64) : Prop := ∃ i j, i < 64 ∧ j < 64 ∧ i / 32 = j / 32 ∧ bm.getLsbD i = true ∧ bm.getLsbD j = false
        ∧ l.poi.getLsbD (i / 32) = true
      let t := s.performOn r l
      let answers (b : RepBody) : Prop := t.mem = s.mem ∧ .memrepReceive ⟨r.who.core, r.ret, b, r.buoy, s.marked (s.bankOf r.who.pid r.pa.toNat)⟩ ∈ t.net
      let keeps : Prop := t.cached pl = some l
      (r.op = .load → r.det = false → (∀ i < 64, m.getLsbD i = true → l.poi.getLsbD (i / 32) = false) → keeps
        ∧ answers (.data r.fptr r.n (BitVec.ofNat 512 (lineBits l.data off r.n)) l.poi))
      ∧ (∀ i < 64, r.op = .load ∨ (∃ k u c d, r.op = .atom k u c d) → m.getLsbD i = true → l.poi.getLsbD (i / 32) = true →
        (∀ j < i, m.getLsbD j = true → l.poi.getLsbD (j / 32) = false) → keeps ∧ answers (.fault cPoison (fptrAt r.fptr (i - off))))
      ∧ ((r.op = .store ∨ (∃ k u, r.op = .bred k u)) → partPoison m → keeps ∧ answers (.fault cWpoison r.fptr))
      ∧ (r.op = .store → ¬partPoison m → answers .ok ∧ ∃ l' : CLine, t.cached pl = some l' ∧ l'.dirty = true ∧ l'.chk = lineCheck l'.data
          ∧ (∀ i < 64, lineByte l'.data i = if m.getLsbD i = true then lineByte (reqLine r) i else lineByte l.data i)
          ∧ ∀ g < 2, l'.poi.getLsbD g = (l.poi.getLsbD g && !fullGranule m g))
      ∧ (∀ (k : UpdKind) (u : Ty), r.op = .bred k u → l.poi = 0 → r.bm = BitVec.allOnes 64 → r.n = tyBits u / 8 → off + r.n ≤ 64 → 1 ≤ r.n → r.n ≤ 8 →
        answers .ok ∧ ∃ l' : CLine, t.cached pl = some l' ∧ l'.dirty = true
          ∧ lineBits l'.data off r.n = updElem k u (lineBits l.data off r.n) (lineBits r.data 0 r.n) % 256 ^ r.n
          ∧ ∀ i < 64, (i < off ∨ off + r.n ≤ i) → lineByte l'.data i = lineByte l.data i)
      ∧ (∀ (k : AtomKind) (u : Ty) (c d : Word), r.op = .atom k u c d → l.poi = 0 → r.bm = BitVec.allOnes 64 → r.n = tyBits u / 8 → off + r.n ≤ 64 →
        1 ≤ r.n → r.n ≤ 8 →
        answers (.data r.fptr r.n (BitVec.ofNat 512 (lineBits l.data off r.n)) 0) ∧ ∃ l' : CLine, t.cached pl = some l' ∧ l'.dirty = true
          ∧ lineBits l'.data off r.n = atomNew k u (lineBits l.data off r.n) c d % 256 ^ r.n
          ∧ ∀ i < 64, (i < off ∨ off + r.n ≤ i) → lineByte l'.data i = lineByte l.data i)
      ∧ (∀ (k : UpdKind) (u : Ty) (mask : BitVec 16), r.op = .bupd k u mask → l.poi = 0 → (u = .i32 ∨ u = .i64 ∨ u = .f32) →
        let n := tyBits u / 8
        answers .ok ∧ ∃ l' : CLine, t.cached pl = some l' ∧ l'.dirty = true
          ∧ ∀ i < 64 / n, lineBits l'.data (n * i) n = if mask.getLsbD i = true then updElem k u (lineBits l.data (n * i) n) (lineBits r.data (n * i) n) % 256 ^ n
              else lineBits l.data (n * i) n)
      ∧ (∀ (arr : BitVec 16) (byt : BitVec 48), r.op = .barinit arr byt → l.poi = 0 →
        answers .ok ∧ ∃ l' : CLine, t.cached pl = some l' ∧ l'.dirty = true
          ∧ l'.data = lineOf [BitVec.ofNat 64 ((if arr = 0 then 0 else 2 ^ 63) + arr.toNat * 2 ^ 32), byt.setWidth 64, 0,
              BitVec.ofNat 64 (field (lineWord l.data 3) 32 32 * 2 ^ 32), 0, 0, 0, 0]))
    ∧ (∀ m x : Nat, m < 2 ^ 32 → x < 2 ^ 32 → updElem .set .i32 m x = x ∧ updElem .add .i32 m x = (m + x) % 2 ^ 32
      ∧ updElem .mul .i32 m x = (m * x) % 2 ^ 32
      ∧ updElem .min .i32 m x = (if (BitVec.ofNat 32 m).slt (BitVec.ofNat 32 x) = true then m else x)
      ∧ updElem .max .i32 m x = (if (BitVec.ofNat 32 m).slt (BitVec.ofNat 32 x) = true then x else m)
      ∧ updElem .set .f32 m x = x ∧ updElem .add .f32 m x = f32Add m x ∧ updElem .mul .f32 m x = f32Mul m x
      ∧ updElem .min .f32 m x = f32Min m x ∧ updElem .max .f32 m x = f32Max m x)
    ∧ (∀ m x : Nat, m < 2 ^ 64 → x < 2 ^ 64 → updElem .add .i64 m x = (m + x) % 2 ^ 64 ∧ updElem .mul .i64 m x = (m * x) % 2 ^ 64
      ∧ updElem .min .i64 m x = (if (BitVec.ofNat 64 m).slt (BitVec.ofNat 64 x) = true then m else x)
      ∧ updElem .max .i64 m x = (if (BitVec.ofNat 64 m).slt (BitVec.ofNat 64 x) = true then x else m)
      ∧ ∀ c d : Word, c.toNat = x → atomNew .add .i64 m c d = (m + x) % 2 ^ 64 ∧ atomNew .and .i64 m c d = m &&& x ∧ atomNew .or .i64 m c d = m ||| x
          ∧ atomNew .xor .i64 m c d = m ^^^ x ∧ atomNew .swap .i64 m c d = x ∧ atomNew .cas .i64 m c d = (if m = x then d.toNat else m)
          ∧ atomNew .min .i64 m c d = (if (BitVec.ofNat 64 m).slt c = true then m else x)
          ∧ atomNew .max .i64 m c d = if (BitVec.ofNat 64 m).slt c = true then x else m)
    ∧ (∀ (l : BitVec 50) (r : MemReq) (rest : List Event), s.ev = some (.bankMissFill l) →
      let pl := placeOf (64 * l.toNat / 2 ^ 33 % 64) l.toNat
      Tab.find s.fills pl = some (.bankRequest r :: rest) → s.cached pl = none → s.homePlace r.who.pid r.pa.toNat = pl →
      let u : State := ({ s with fills := Tab.del s.fills pl } : State).corrects [2 * l.toNat, 2 * l.toNat + 1]
      (s.keyOk r.key r.who.pid = false → exec .bankMissFill s = .next ((u.failWith cKeyEmpty (.bankRequest r)).goOn rest))
      ∧ (s.keyOk r.key r.who.pid = true →
        (∀ x, u.fillFrom pl r.key = .ok x → exec .bankMissFill s = .next ((u.installLine x).goOn (.bankRequest r :: rest)))
        ∧ ∀ c, u.fillFrom pl r.key = .error c →
          exec .bankMissFill s = .next (((u.failWith c (.bankRequest r)).checkFailed l.toNat).goOn rest)))
    ∧ (∀ (pl : Nat) (key : BitVec 6),
      let ln := placeLine pl
      let good : Prop := (∀ k, Tab.find s.hkey ln = some k → k = s.keyIn key) ∧ ln ∉ s.badchk
      (good → ∃ x, s.fillFrom pl key = .ok x ∧ x.ln = ln ∧ x.data = s.memLine ln ∧ x.key = key ∧ x.dirty = false ∧ x.poi = s.poiAt ln
        ∧ x.chk = lineCheck x.data ∧ x.shar = 0 ∧ x.copy = false)
      ∧ (¬good → s.poiAt ln = 0 → s.fillFrom pl key = .error cPoison)
      ∧ (¬good → s.poiAt ln ≠ 0 → ∃ x, s.fillFrom pl key = .ok x ∧ x.poi = 3))
    ∧ (∀ (l : BitVec 50) (x : CLine), s.ev = some (.writeBackAccept l) → (s.wbq.find? fun y => y.ln == l.toNat) = some x →
      let t : State := { s with wbq := s.wbq.erase x }
      (paRegion (64 * x.ln) ≠ 4 → exec .writeBackAccept s = .next ((t.storeBack x).countSlice x.sl 67))
      ∧ (paRegion (64 * x.ln) = 4 →
        (s.torn ((s.sliceOwner x.sl).getD 0) (64 * x.ln) = false →
          exec .writeBackAccept s = .next (((t.storeBack x).countSlice x.sl 67).countLink x.sl (x.ln / 64) x.key))
        ∧ (s.torn ((s.sliceOwner x.sl).getD 0) (64 * x.ln) = true → exec .writeBackAccept s = .next t)))
    ∧ (∀ x : CLine, (s.storeBack x).memLine x.ln = x.data ∧ (s.storeBack x).poiAt x.ln = x.poi
      ∧ (x.ln ∈ (s.storeBack x).badchk ↔ x.chk ≠ lineCheck x.data)
      ∧ (paRegion (64 * x.ln) = 0 → Tab.find (s.storeBack x).hkey x.ln = some (s.keyIn x.key))
      ∧ ∀ a, (a < 64 * x.ln ∨ 64 * x.ln + 64 ≤ a) → Mem.read (s.storeBack x).mem a = Mem.read s.mem a)
    ∧ (∀ (sl : SliceId) (r : MemReq), s.ev = some (.copySliceLoad sl r) → s.sliceOwner sl.toNat = some r.who.pid → s.keyOk r.key r.who.pid = true →
      (∀ x : CLine, (s.lines.find? fun x => x.copy && x.sl == sl.toNat && x.ln == r.pa.toNat / 64) = some x →
        exec .copySliceLoad s = .next ((s.putLine x).bankAnswer (16 * sl.toNat + bankIn r.pa.toNat) r (opLine x r (s.overlay r)).2)
        ∧ (r.op = .load → x.chk = lineCheck x.data → x.key = r.key → x.poi = 0 → r.det = false → s.objsAt (r.pa.toNat / 64) = [] →
            (opLine x r (s.overlay r)).2 = .data r.fptr r.n (BitVec.ofNat 512 (lineBits x.data (r.pa.toNat % 64) r.n)) 0))
      ∧ ((∀ x ∈ s.lines, x.copy = true → x.sl = sl.toNat → x.ln ≠ r.pa.toNat / 64) → exec .copySliceLoad s = .next (s.emit (.bankRequest r))))
    ∧ (∀ (sl : SliceId) (l : BitVec 50), s.ev = some (.copyInvalidate sl l) →
      exec .copyInvalidate s = .next { s with
        lines := s.lines.filter fun x => !(x.copy && x.ln == l.toNat && x.sl == sl.toNat)
        net := s.net ++ [.invalidateAck l (BitVec.ofNat 2 (sl.toNat / 16))] })
    ∧ (∀ (l : BitVec 50) (d : BitVec 2) (w : InvWait), s.ev = some (.invalidateAck l d) → (s.invw.find? fun w => w.ln == l.toNat) = some w →
      w.dies &&& ~~~BitVec.ofNat 4 (2 ^ d.toNat) = 0 →
      ∃ t, exec .invalidateAck s = .next t ∧ t.net = s.net ∧ t.back = s.back ++ w.reqs ∧ (∀ x ∈ t.invw, x.ln ≠ w.ln)
        ∧ ∀ x ∈ t.lines, x.ln = w.ln → x.copy = false → x.shar = 0)
    ∧ (∀ (l : BitVec 50) (d : BitVec 2), s.ev = some (.invalidateAck l d) →
      (∀ w : InvWait, (s.invw.find? fun w => w.ln == l.toNat) = some w → w.dies &&& ~~~BitVec.ofNat 4 (2 ^ d.toNat) ≠ 0 →
        exec .invalidateAck s = .next { s with
          invw := s.invw.map fun x => if x.ln = w.ln then { x with dies := w.dies &&& ~~~BitVec.ofNat 4 (2 ^ d.toNat) } else x })
      ∧ ((∀ w ∈ s.invw, w.ln ≠ l.toNat) → exec .invalidateAck s = .next s))
    ∧ (∀ g : BitVec 51, s.ev = some (.patrolRead g) → g.toNat ∉ s.soft → exec .patrolRead s = .next s)
    ∧ (∀ g : BitVec 51, s.ev = some (.patrolRead g) → g.toNat ∈ s.soft →
      ∃ t, exec .patrolRead s = .next t ∧ g.toNat ∉ t.soft
        ∧ (t.slice (32 * g.toNat / 2 ^ 33 % 64)).ecc = (s.slice (32 * g.toNat / 2 ^ 33 % 64)).ecc + 1)
    ∧ (∀ (r : MemReq) (id : Nat), s.ev = some (.detRefusal r) → r.ret = .retained id →
      ∃ t, exec .detRefusal s = .next t ∧ ∀ x ∈ (t.core r.who.core).srb, x.id = id → x.marked = true)
    ∧ (∀ r : MemReq, s.ev = some (.detRefusal r) → (∀ id, r.ret ≠ .retained id) →
      ∃ t, exec .detRefusal s = .next t ∧ (t.core r.who.core).emark = (s.core r.who.core).emark ++ [r])
    ∧ (∀ (c : CoreId) (b : BitVec 10), s.ev = some (.roomNotice c b) →
      ∃ t, exec .roomNotice s = .next t ∧ (t.core c).emark = [] ∧ (∀ x ∈ (t.core c).srb, x.marked = false)
        ∧ (∀ x ∈ (s.core c).srb, x.marked = true → .lateRequestAtHome x.req ∈ t.net) ∧ ∀ r ∈ (s.core c).emark, .bankRequest r ∈ t.net)
    ∧ (∀ m : WindowReq, s.ev = some (.windowAccess m) →
      (s.core (BitVec.ofNat 11 (m.req.pa.toNat / 2 ^ 19))).part = m.req.who.pid → exec .windowAccess s = .next (s.windowDo m.req))

/-- A vector head enters the VX queue behind what is there, with its lanes, its broadcast value and its channels captured, marks its predicate or
general register pending, and the task goes on; VX will start it; no byte of memory but the pending mark changes (spec/06, spec/16, R117, R325,
R326). Completes: vadd, vsub, vmul, vaddSat, vsubSat, vmulSat, vfma, vfms, vmin, vmax, vminn, vmaxn, vand, vor, vxor, vsel, vlog3, vcmpEq, vcmpNe,
vcmpLt, vcmpLe, vcmpGt, vcmpGe, vcvt, vcvtSat, enc, encSat, dec, vbcast, vperm, vredAdd, vredMin, vredMax, vrcp, vrsq, vexp2, vlog2. Where the spec
leaves a point open, the clauses rest on the model's choices of log entry 30. -/
def Obligations.VectorHeadsEnterTheVxQueue : Prop :=
  ∀ (i : Instr) (q : Guard) (bs : List VSrc) (bc : Option GReg) (d : VDest) (s : State), vxForm i = some (q, bs, bc, d) →
    s.wsW offSbrd = 0 → s.myEnt.held = [] → s.myEnt.fences = [] →
    (∀ f ∈ s.myEnt.engf, f.eng ≠ .vx) → bs.forM s.streamOk = .ok () → (∀ r ∈ vxRegs i, s.rstatBusy r = false) → s.me.vxq.length < 2 →
    let x := { s.vxItem i q with bc := (bc.map s.g).getD 0, chans := bs.flatMap s.streamOf }
    let t := s.vxPush x
    exec i s = .next (match d with
        | .vec => t
        | .pred p => t.pendP s.cur s.me.blk p true
        | .gen r => t.pendG s.cur s.me.blk r true).advanceEng
      ∧ t.mem = s.mem ∧ t.me.vxq = s.me.vxq ++ [x] ∧ t.net = s.net ++ [.vxHeadStart s.cur]

/-- VLD and VST of the workspace: VLD enters the queue with the lanes that the bytes of the scratchpad hold, VST with its requests by line; without an
acting lane they enter it at once. Of memory, VST enters the queue with its requests and its mooring entry; VLD claims its entry, sends its requests
and waits, and enters the queue when its replies are in, with the lanes they bring (spec/16, R339 to R342). Completes: vld, vst. Where the spec
leaves a point open, the clauses rest on the model's choices of log entries 3, 60. -/
def Obligations.VectorMemoryHeadsIssue : Prop :=
  ∀ (o : VmemOp) (s : State), Quiet s → (∀ f ∈ s.myEnt.engf, f.eng ≠ .vx) → s.rstatBusy o.a = false → s.me.vxq.length < 2 →
    (∀ m : VMem, s.me.hold = none → s.vmem o = .ok m → m.ws = true →
      let bs := m.needed (s.actsOf o.q)
      let hi := bs.foldl max m.va
      bs ≠ [] → hi < 4096 * s.me.sblk.toNat → s.wsReady m.va (hi + 1 - m.va) = .ok () →
      ((∀ b ∈ bs, spad s.cur b / 32 ∉ s.poison ∧ s.sealedHit s.cur b 1 = false) →
        exec (.vld o) s = .next (s.vxPush { s.vxItem (.vld o) o.q with
          data := vldLanes s.me m fun b => Mem.read s.mem (spad s.cur b)
          bm := laneBytes m.t (laneActs (s.actsOf o.q) m.t) }).advanceEng)
      ∧ (vstScaled o m = .ok () →
        exec (.vst o) s = .next (s.vxPush { s.vxItem (.vst o) o.q with
          fptr := mkPtr 0 m.va, ws := true, reqs := (pieces 64 bs).map fun p => s.lateReq 0 .store 0 0 p }).advanceEng))
    ∧ (∀ m : VMem, s.me.hold = none → s.vmem o = .ok m → m.needed (s.actsOf o.q) = [] →
      exec (.vld o) s = .next (s.vxPush { s.vxItem (.vld o) o.q with
        data := vldLanes s.me m fun _ => 0, bm := laneBytes m.t (laneActs (s.actsOf o.q) m.t) }).advanceEng
      ∧ (vstScaled o m = .ok () →
        exec (.vst o) s = .next (s.vxPush { s.vxItem (.vst o) o.q with fptr := mkPtr m.tag m.va, ws := m.ws }).advanceEng))
    ∧ (∀ m : VMem, s.me.hold = none → s.vmem o = .ok m → m.ws = false → s.me.moor = [] →
      let bs := m.needed (s.actsOf o.q)
      let entry (dir : Bool) : Moor := ⟨true, .vx, dir, s.myIdx, s.myEnt.sid, bs.headD m.va, bs.foldl max m.va⟩
      bs ≠ [] → (∀ b ∈ bs, b < 2 ^ 56) →
      (∀ xs : List (Piece × AtcEntry), s.transPieces m.tag rRead 0 (pieces 64 bs) = .ok xs →
        (∀ x ∈ xs, s.pathFree x.1.a (s.receiver s.cur s.me.part (atcPa x.2 x.1.a) true x.2.det) false = .ok ()) → s.ownPending = false →
        s.me.orc < 64 → s.firstStep (xs.map (s.loadReq m.tag .load (.load 0))) = .ok () →
        ∃ t, exec (.vld o) s = .next t ∧ t.me.hold = some ⟨6, [BitVec.ofNat 64 (s.me.ids + 1), 0], none⟩ ∧ t.me.moorAt 0 = entry false
          ∧ t.me.orc = s.me.orc + 1 ∧ t.me.vxq = s.me.vxq)
      ∧ ∀ xs : List (Piece × AtcEntry), s.transPieces m.tag rWrite 0 (pieces 64 bs) = .ok xs → vstScaled o m = .ok () →
        let reqs := xs.map (s.engReq m.tag .vxLine)
        (∀ r ∈ reqs, s.pathFree (ptrVa r.fptr) (s.receiver s.cur s.me.part r.pa.toNat false r.det) true = .ok ()) → s.firstStep reqs = .ok () →
        ∃ (t : State) (x : VxItem), exec (.vst o) s = .next t ∧ t.mem = s.mem ∧ t.me.vxq = s.me.vxq ++ [x] ∧ x.i = .vst o
          ∧ x.reqs.length = reqs.length ∧ x.moor = [0] ∧ t.me.moorAt 0 = entry true ∧ t.net = s.net ++ [.vxHeadStart s.cur])
    ∧ ∀ (id i : Word) (x : Outst), s.me.hold = some ⟨6, [id, i], some .ok⟩ → (s.me.loads.find? fun x => x.id == id.toNat) = some x →
      ∃ t, exec (.vld o) s = .next t ∧ t.mem = s.mem ∧ t.net = s.net ++ [.vxHeadStart s.cur] ∧ t.me.vxq.length = s.me.vxq.length + 1

/-- MXCLR claims its accumulator and enters the MX queue; MXMUL and MXS3 claim two mooring entries over their source ranges and enter it; MXST enters it
with one mooring entry over its destination, with an empty mask without one; the lantern heads enter it (spec/06, spec/09, spec/17, R141, R191, R348
to R353, R355, R361). Completes: mxclr, mxmul, mxs3, mxst, mxstSat, rstat, rstatE. Where the spec leaves a point open, the clauses rest on the
model's choices of log entry 30. -/
def Obligations.MatrixHeadsEnterTheMxQueue : Prop :=
  ∀ s : State, Quiet s → (∀ f ∈ s.myEnt.engf, f.eng ≠ .mx) → s.me.mxq.length < 2 → s.me.mxprog.mv = false →
    (∀ acc : AReg, ((s.me.acc acc).own = .none ∨ (s.me.acc acc).own = .task s.myIdx) →
      exec (.mxclr acc) s = .next ((s.modCore s.cur fun k => k.setAcc acc { k.acc acc with own := .task s.myIdx }).mxPush
        (s.mxItem (.mxclr acc) 0 0 0 0 [])).advanceEng)
    ∧ (∀ o : MxmulOp, s.guardOn o.q = true → (s.me.acc o.acc).own = .task s.myIdx → s.me.moor = [] →
      let pa := s.g o.b
      let pb := s.g o.c
      let w := s.g o.d
      rowsOk pa (swSa w) (swAm1 w) (swKm1 w) = true → rowsOk pb (swSb w) (swKm1 w) (swBm1 w) = true →
      let ha := hull (rowSpans pa (swSa w) (swAm1 w) (swKm1 w))
      let hb := hull (rowSpans pb (swSb w) (swKm1 w) (swBm1 w))
      let t := s.modCore s.cur fun k => { k with moor :=
        [(0, ⟨true, .mx, false, s.myIdx, s.myEnt.sid, ha.1.toNat, ha.2.toNat⟩), (1, ⟨true, .mx, false, s.myIdx, s.myEnt.sid, hb.1.toNat, hb.2.toNat⟩)] }
      (mulFmt false pa = true → mulFmt false pb = true → exec (.mxmul o) s = .next (t.mxPush (s.mxItem (.mxmul o) pa pb w 0 [0, 1])).advanceEng)
      ∧ (mulFmt true pa = true → mulFmt true pb = true → exec (.mxs3 o) s = .next (t.mxPush (s.mxItem (.mxs3 o) pa pb w 0 [0, 1])).advanceEng))
    ∧ (∀ o : MxstOp, s.guardOn o.q = true → (s.me.acc o.acc).own = .task s.myIdx → s.g o.c = 0 →
      mxstOk o.t (s.g o.b) 0 (mxstStride (o.d.map s.g)) = .ok () →
      exec (.mxst o) s = .next (s.mxPush (s.mxItem (.mxst o) (s.g o.b) 0 0 (BitVec.ofInt 64 (mxstStride (o.d.map s.g))) [])).advanceEng
      ∧ exec (.mxstSat o) s = .next (s.mxPush (s.mxItem (.mxstSat o) (s.g o.b) 0 0 (BitVec.ofInt 64 (mxstStride (o.d.map s.g))) [])).advanceEng)
    ∧ (∀ o : MxstOp, s.guardOn o.q = true → (s.me.acc o.acc).own = .task s.myIdx → s.me.moor = [] → enabled (s.g o.c) ≠ [] →
      mxstOk o.t (s.g o.b) (s.g o.c) (mxstStride (o.d.map s.g)) = .ok () →
      let h := hull (mxstSpans o.t (s.g o.b) (s.g o.c) (mxstStride (o.d.map s.g)))
      let t := s.modCore s.cur fun k => { k with moor := [(0, ⟨true, .mx, true, s.myIdx, s.myEnt.sid, h.1.toNat, h.2.toNat⟩)] }
      let x (i : Instr) : MxItem := s.mxItem i (s.g o.b) 0 (s.g o.c) (BitVec.ofInt 64 (mxstStride (o.d.map s.g))) [0]
      exec (.mxst o) s = .next (t.mxPush (x (.mxst o))).advanceEng ∧ exec (.mxstSat o) s = .next (t.mxPush (x (.mxstSat o))).advanceEng)
    ∧ (∀ o : RstatOp, (s.me.acc o.acc).own = .task s.myIdx →
      exec (.rstat o) s = .next (s.mxPush (s.mxItem (.rstat o) 0 0 0 0 [])).advanceEng)
    ∧ ∀ o : RstatEOp, (s.me.acc o.acc).own = .task s.myIdx →
      exec (.rstatE o) s = .next (s.mxPush (s.mxItem (.rstatE o) 0 0 0 (s.g o.k) [])).advanceEng

/-- MXRSM resumes what MXPROG records for its owner; MXEDGE writes the masks or the origin; MXSPLIT changes the mode of a core whose accumulators 2 and
3 are free and answers 0, and BUSY where one of them is not, for a privileged task, and a tenant takes ILLEGAL_OP (spec/17, R354, R357, R358).
Completes: mxedge, mxsplitEnter, mxsplitLeave, mxrsm. -/
def Obligations.MatrixControlHeadsHaveTheirEffect : Prop :=
  ∀ s : State, Quiet s → s.myEnt.engf = [] →
    (∀ acc : AReg, s.me.mxq.length < 2 → s.me.mxprog.mv = true → s.me.mxprog.acc = acc → (s.me.acc acc).own = .task s.myIdx →
      exec (.mxrsm acc) s = .next (s.mxPush (s.mxItem (.mxrsm acc) 0 0 0 0 [])).advanceEng)
    ∧ (∀ o : MxacOp, exec (.mxedge o) s = .next (s.setG o.a (edgeVal (s.wsW offGeom) (s.wsW (offGeom + 8)) (s.g o.c))).advance)
    ∧ (∀ o : MxacOp, (s.wsW offTstat).getLsbD 63 = false →
      ∀ i ∈ [Instr.mxsplitEnter o, .mxsplitLeave o], exec i s = .next (s.faultAll cIllegalOp 1 (s.me.pc.setWidth 64)))
    ∧ ∀ o : MxacOp, (s.wsW offTstat).getLsbD 63 = true →
      (s.me.mxs = (s.g o.c).getLsbD 0 → exec (.mxsplitEnter o) s = .next (s.setG o.a 0).advance ∧ exec (.mxsplitLeave o) s = .next (s.setG o.a 0).advance)
      ∧ (s.me.mxs = false → (s.g o.c).getLsbD 0 = true → s.me.mxq = [] → (s.me.acc 2).own = .none → (s.me.acc 3).own = .none →
        ∃ t, exec (.mxsplitEnter o) s = .next t ∧ t.me.mxs = true ∧ (t.me.acc 2) = .cleared .remote ∧ (t.me.acc 3) = .cleared .remote)
      ∧ (s.me.mxs = false → (s.g o.c).getLsbD 0 = true → s.me.mxq = [] → ((s.me.acc 2).own ≠ .none ∨ (s.me.acc 3).own ≠ .none) →
        exec (.mxsplitEnter o) s = .next (s.setG o.a (8 <<< 56)).advance)
      ∧ (s.me.mxs = true → (s.g o.c).getLsbD 0 = false → s.me.mxrq = [] → s.me.inMx = [] →
        (∀ (p : Packet) (w : Who) (q : BitVec 2), .mxcmdReceive p w q ∈ s.net → p.dst ≠ s.cur) →
        ∃ t, exec (.mxsplitLeave o) s = .next t ∧ t.me.mxs = false ∧ (t.me.acc 2) = .cleared .none ∧ (t.me.acc 3) = .cleared .none)

/-- The remote command, once its block is read, goes out as one packet and the task waits; its answer is written into a pair of registers. A Gaussian
head enters the VX queue with its descriptor's offset, GRES with its register pending (spec/17, R359, R364, R366 to R368). Completes: mxrem, gmu,
gsum, gsub, gres. Where the spec leaves a point open, the clauses rest on the model's choices of log entries 30, 31. -/
def Obligations.RemoteAndGaussianHeadsHaveTheirEffect : Prop :=
  ∀ s : State, Quiet s →
    (∀ (o : RrOp) (ws : List Word) (b : RepBody), s.me.hold = some ⟨3, ws, some b⟩ → (∀ c a, b ≠ .fault c a) →
      BitVec.ofNat 10 (field (ws.getD 0 0) 54 10) = s.me.dev →
      exec (.mxrem o) s = .next ((s.emit (.mxcmdReceive ⟨s.me.dev, s.me.part, false, s.cur, s.me.dev, false, BitVec.ofNat 11 (field (ws.getD 0 0) 43 11), false, 0, 5,
        ws.take 8⟩ s.who (BitVec.ofNat 2 s.myEnt.qnum.toNat))).holdIn 7 []))
    ∧ (∀ (o : RrOp) (ws : List Word) (w0 w1 : Word), s.me.hold = some ⟨7, ws, some (.pair w0 w1)⟩ →
      exec (.mxrem o) s = .next ((s.setG o.a w0).setG (o.a + 1) w1).advance)
    ∧ ((∀ f ∈ s.myEnt.engf, f.eng ≠ .vx) → s.me.vxq.length < 2 →
      let enter (i : Instr) (b : GReg) : State :=
        s.vxPush { s.vxItem i .always with bc := BitVec.ofNat 64 ((s.g b).toNat % 2 ^ 19) }
      (∀ o : GmsgOp, s.descOk ((s.g o.b).toNat % 2 ^ 19) = true →
        exec (.gmu o) s = .next (enter (.gmu o) o.b).advanceEng ∧ exec (.gsub o) s = .next (enter (.gsub o) o.b).advanceEng)
      ∧ (∀ b : GReg, s.descOk ((s.g b).toNat % 2 ^ 19) = true → exec (.gsum b) s = .next (enter (.gsum b) b).advanceEng)
      ∧ ∀ o : RrOp, s.descOk ((s.g o.b).toNat % 2 ^ 19) = true →
        exec (.gres o) s = .next ((enter (.gres o) o.b).pendG s.cur s.me.blk o.a true).advanceEng)

/-- CXQ takes the next identifier of its channel and two mooring entries, puts the request into the copy queue and writes the identifier, so a plain
copy of two disjoint ranges; with the queue or the FIFO full CXQ.NB answers 2^56 instead and CXQ stalls; CXWAIT goes on past a transfer that is
complete without an error of its task, sleeps at one that is not, and raises BAD_XFER for one that was never taken (spec/18, R371, R383). Completes:
cxq, cxqNb, cxwait. -/
def Obligations.CopyHeadsQueueAndWait : Prop :=
  ∀ s : State, Quiet s → s.me.hold = none →
    (∀ (o : CxqOp) (q : CxReq), s.guardOn o.q = true → s.cxRequest o = .ok q → q.mode ≠ 4 → q.mode ≠ 6 → s.me.cxq.length < 2 →
      s.me.cxq.length + s.me.fifo.length < 8 → s.me.moor = [] →
      let id := s.me.cxNext q.cch
      let u := s.modCore s.cur fun k => { k with
        cxnext := Tab.set k.cxnext q.cch.toNat (id + 1)
        cxq := k.cxq ++ [{ q with id := id, moor := [0, 1] }]
        moor := [(0, ⟨true, .cx, false, s.myIdx, s.myEnt.sid, q.src.1.toNat, q.src.2.toNat⟩),
          (1, ⟨true, .cx, true, s.myIdx, s.myEnt.sid, q.dst.1.toNat, q.dst.2.toNat⟩)] }
      let t := ((u.setG o.a (id.setWidth 64)).emit (.cxTransferStart s.cur)).advanceEng
      exec (.cxq o) s = .next t ∧ exec (.cxqNb o) s = .next t)
    ∧ (∀ (o : CxqOp) (q : CxReq), s.guardOn o.q = true → s.cxRequest o = .ok q → (2 ≤ s.me.cxq.length ∨ 8 ≤ s.me.cxq.length + s.me.fifo.length) →
      exec (.cxqNb o) s = .next (s.setG o.a 0x0100000000000000).advanceEng ∧ exec (.cxq o) s = .next s.stall)
    ∧ (∀ o : CxqOp, s.guardOn o.q = true → s.me.cxq.length < 2 → s.me.cxq.length + s.me.fifo.length < 8 → s.me.moor = [] →
      let w (i : Nat) : Word := s.g (o.b + BitVec.ofNat 4 i)
      let n := field (w 0) 0 32
      let a := ptrVa (w 1)
      let b := ptrVa (w 2)
      field (w 0) 56 8 = 0 → field (w 0) 32 22 = 0 → n ≠ 0 → ptrBlog (w 1) = 0 → ptrBlog (w 2) = 0 → w 3 = 0 → a + n ≤ 2 ^ 56 → b + n ≤ 2 ^ 56 →
      (a + n ≤ b ∨ b + n ≤ a) →
      let ch : BitVec 2 := BitVec.ofNat 2 (field (w 0) 54 2)
      let id := s.me.cxNext ch
      let u := s.modCore s.cur fun k => { k with
        cxnext := Tab.set k.cxnext ch.toNat (id + 1)
        cxq := k.cxq ++ [⟨w 0, w 1, w 2, w 3, [], id, s.myIdx, s.who, [0, 1], none, none⟩]
        moor := [(0, ⟨true, .cx, false, s.myIdx, s.myEnt.sid, a, a + n - 1⟩), (1, ⟨true, .cx, true, s.myIdx, s.myEnt.sid, b, b + n - 1⟩)] }
      let t := ((u.setG o.a (id.setWidth 64)).emit (.cxTransferStart s.cur)).advanceEng
      exec (.cxq o) s = .next t ∧ exec (.cxqNb o) s = .next t)
    ∧ ∀ o : CxwaitOp, s.guardOn o.q = true →
      let g : BitVec 32 := (s.g o.b).setWidth 32
      let d := (g - s.me.cxDone o.n).toNat
      (2 ^ 31 ≤ d → (s.me.cxNext o.n - s.me.cxDone o.n).toNat ≤ d → (∀ r ∈ s.me.cxerr, r.cch = o.n → r.hidx ≠ s.myIdx) →
        exec (.cxwait o) s = .next s.advance)
      ∧ (d < (s.me.cxNext o.n - s.me.cxDone o.n).toNat → s.myEnt.g = false →
        exec (.cxwait o) s = .next (((s.modEnt s.cur s.myIdx fun e => { e with copy := ⟨true, o.n, g⟩ }).switchOut s.cur s.myIdx 3 s.me.pc).gangSwitch
          s.cur s.myIdx 3))
      ∧ ((s.me.cxNext o.n - s.me.cxDone o.n).toNat ≤ d → d < 2 ^ 31 →
        exec (.cxwait o) s = .next (s.faultHere cBadXfer g 0 s.me.pc))

/-- LD, LDNB and LDC of the workspace write the element that the bytes of the scratchpad make; LDC of a cached line likewise reads the read-only cache;
LD, LDNB and LDC of memory send their request, LDNB marks its register pending and goes on, LD and LDC hold their task; an answered LD or LDC goes
on, and one whose answer is a fault takes it at its head; the last reply writes the element and ends the pending mark. An illegal format or a
displacement of a scaled pointer raises FORMAT, an address or an element past either end PTR_OVERFLOW, and a range that a mooring entry holds
RANGE_LOCKED with the entry's index, also at ST, which takes no scaled pointer (spec/06, spec/09, spec/14, R121, R192, R270 to R272, R274 to R276,
R278). Completes: ld, ldnb, ldc, st. Where the spec leaves a point open, the clauses rest on the model's choices of log entry 3. -/
def Obligations.LoadsReadTheirElements : Prop :=
  ∀ (o : LsOp) (s : State), Quiet s →
    (∀ off : Nat, s.me.hold = none → s.guardOn o.q = true → s.address o.m (elemSize (elemTy o.t 0 0) 0) = .ok (.ws off) →
      s.wsReady off (elemSize (elemTy o.t 0 0) 0) = .ok () → s.sealedHit s.cur off (elemSize (elemTy o.t 0 0) 0) = false →
      s.spadPoison off (elemSize (elemTy o.t 0 0) 0) = none →
      let t := (s.setG o.a (putBits (elemTy o.t 0 0) (contained (elemTy o.t 0 0)
        (Mem.readN s.mem (spad s.cur off) (elemSize (elemTy o.t 0 0) 0))))).advance
      exec (.ld o) s = .next t ∧ exec (.ldnb o) s = .next t ∧ exec (.ldc o) s = .next t)
    ∧ (∀ (tag a : Nat) (e : AtcEntry) (r : RoLine), o.t ≠ .t4 → s.me.hold = none → s.guardOn o.q = true →
      s.address o.m (elemSize (elemTy o.t 0 0) 0) = .ok (.va tag a) → tagFmt tag = 0 → tagBlog tag = 0 →
      a % 64 + elemSize (elemTy o.t 0 0) 0 ≤ 64 → a < 2 ^ 56 → s.moorHit a (a + elemSize (elemTy o.t 0 0) 0 - 1) = none →
      s.me.atcFind s.myEnt.sid a = some e → e.rts.getLsbD rRead = true → s.me.roFind (atcPa e (a / 64 * 64) / 64) = some r →
      r.poi = 0 →
      ∃ t, exec (.ldc o) s = .next t ∧ t = ((s.modCore s.cur fun k => { k with ro := roPut k.ro r }).setG o.a
        (putBits (elemTy o.t 0 0) (contained (elemTy o.t 0 0) (lineBits r.data (a % 64) (elemSize (elemTy o.t 0 0) 0))))).advance)
    ∧ (∀ (tag a : Nat) (bs : List Nat) (xs : List (Piece × AtcEntry)) (t : State), s.me.hold = none → s.guardOn o.q = true →
      s.loadPlace o.t o.m = .ok (.va tag a, bs) → s.transPieces tag rRead 0 (pieces 64 bs) = .ok xs → s.ownPending = false →
      (xs.forM fun x => s.pathFree x.1.a (s.receiver s.cur s.me.part (atcPa x.2 x.1.a) true x.2.det) false) = .ok () →
      s.issueLoad true (xs.map (s.loadReq tag .load (.load 0))) (s.outst true false o.a o.t (mkPtr tag a) xs) = .ok t →
      exec (.ldnb o) s = .next (t.pendG t.cur t.me.blk o.a true).advance)
    ∧ (∀ (tag a : Nat) (e : AtcEntry), s.me.hold = none → s.guardOn o.q = true →
      s.address o.m (elemSize (elemTy o.t 0 0) 0) = .ok (.va tag a) → tagBlog tag = 0 →
      let n := elemSize (elemTy o.t (tagFmt tag) 0) (tagFmt tag)
      0 < n → a % 64 + n ≤ 64 → a + n ≤ 2 ^ 56 → s.moorHit a (a + n - 1) = none → s.me.atcFind s.myEnt.sid a = some e → e.rts.getLsbD rRead = true →
      s.ownPending = false → s.me.orc < 64 →
      (e.det = false → atBank s (atcPa e a) a false → 
        let r := s.loadReq tag .load (.load 0) (⟨a, n, BitVec.ofNat 64 (2 ^ n - 1)⟩, e)
        (∃ t, exec (.ld o) s = .next t ∧ asked s t r ∧ t.me.hold = some ⟨1, [], none⟩)
          ∧ ∃ t, exec (.ldnb o) s = .next t ∧ asked s t r ∧ (o.a ≠ 0 → (t.wsW offSbrd).getLsbD o.a.toNat = true))
      ∧ (atBank s (atcPa e (a / 64 * 64)) (a / 64 * 64) e.det → s.me.roFind (atcPa e (a / 64 * 64) / 64) = none →
        ∃ t, exec (.ldc o) s = .next t ∧ asked s t (asCommitted (s.loadReq tag .load (.load 0) (⟨a / 64 * 64, 64, 0⟩, e)))
          ∧ t.me.hold = some ⟨1, [], none⟩))
    ∧ (∀ (ws : List Word) (b : RepBody), s.me.hold = some ⟨1, ws, some b⟩ → (∀ c x, b ≠ .fault c x) →
      exec (.ld o) s = .next s.advance ∧ exec (.ldc o) s = .next s.advance)
    ∧ (∀ (ws : List Word) (c : Code) (x : Word), s.me.hold = some ⟨1, ws, some (.fault c x)⟩ → c ≠ cIllegalOp → c ≠ cIllegalLine →
      c ≠ cIllegalTarget →
      exec (.ld o) s = .next (s.faultHere c 0 x s.me.pc) ∧ exec (.ldc o) s = .next (s.faultHere c 0 x s.me.pc))
    ∧ (s.me.hold = none → s.guardOn o.q = true → o.m.base ≠ 0 →
      let p := s.g o.m.base
      let k := field p 56 4
      let va : Int := (field p 0 56 : Nat) + (match o.m.d with
        | .imm e => e.toInt
        | .idx r => if k = 0 then (s.g r).toInt * fmtWidth (field p 60 4) / 8 else (s.g r).toInt)
      let fault (c : Code) (d : BitVec 32) (a : Word) : Result := .next (s.faultHere c d a s.me.pc)
      let loads (r : Result) : Prop := exec (.ld o) s = r ∧ exec (.ldnb o) s = r ∧ exec (.ldc o) s = r
      let bad : Prop := fmtLegal (field p 60 4) k = false ∨ (k ≠ 0 ∧ ∃ e, o.m.d = .imm e ∧ e ≠ 0)
      (bad → loads (fault cFormat 0 p) ∧ exec (.st o) s = fault cFormat 0 p)
      ∧ (¬bad → (va < 0 ∨ 2 ^ 56 ≤ va) →
        let a := mkPtr (field p 56 8) (va % 2 ^ 56).toNat
        loads (fault cPtrOverflow 0 a) ∧ exec (.st o) s = fault cPtrOverflow 0 a)
      ∧ (¬bad → 0 ≤ va → va < 2 ^ 56 →
        let a := va.toNat
        let f := field p 60 4
        let bs := needed (elemTy o.t f k) f k a
        let m := elemSize (elemTy o.t f 0) f
        ((∃ b ∈ bs, 2 ^ 56 ≤ b) → loads (fault cPtrOverflow 0 (mkPtr (field p 56 8) a)))
        ∧ (∀ i, (∀ b ∈ bs, b < 2 ^ 56) → s.moorHit (bs.headD a) (bs.getLastD a) = some i →
          loads (fault cRangeLocked (BitVec.ofNat 32 i) (mkPtr (field p 56 8) (bs.headD a))))
        ∧ (k ≠ 0 → exec (.st o) s = fault cFormat 0 (mkPtr (field p 56 8) a))
        ∧ (k = 0 → 2 ^ 56 < a + m → exec (.st o) s = fault cPtrOverflow 0 (mkPtr (field p 56 8) a))
        ∧ ∀ i, k = 0 → a + m ≤ 2 ^ 56 → s.moorHit a (a + m - 1) = some i →
          exec (.st o) s = fault cRangeLocked (BitVec.ofNat 32 i) (mkPtr (field p 56 8) a)))
    ∧ ∀ (c : CoreId) (x : Outst), x.fault = none → x.atom = false → x.code = false → x.log = [] → x.fills = [] →
      let t := (((s.modCore c fun k => { k with orc := if x.cnt then k.orc - 1 else k.orc }).modCore c fun k => k.dropLoad x.id).setGAt c x.wpb
        x.reg (loadVal (s.core c) x.t (ptrFmt x.fptr) (ptrBlog x.fptr) (ptrVa x.fptr) fun b => Tab.get 0 x.got b)).pendG c x.wpb x.reg false
      (x.nb = true → s.loadDone c x = t)
      ∧ (x.nb = false → (s.core c).phaseOf x.hidx = some 1 → s.loadDone c x = t.answer c x.hidx .ok)

/-- ST of the workspace outside every register image writes the element's bytes there and no other byte of memory, and nothing else changes but the PC
and the counters (spec/14, R270, R278). Completes: st. -/
def Obligations.WorkspaceStoresWriteTheirBytes : Prop :=
  ∀ (o : LsOp) (s : State) (off : Nat), Quiet s → s.guardOn o.q = true → s.myEnt.g = false →
    let n := elemSize (elemTy o.t 0 0) 0
    s.address o.m n = .ok (.ws off) → s.wsReady off n = .ok () → s.sealedHit s.cur off n = false → s.me.imageHit none off n = false →
    (off + n ≤ 4096 * s.me.blk.toNat ∨ 4096 * s.me.blk.toNat + imageBytes ≤ off) → s.spadPoison off n = none →
    ∃ t, exec (.st o) s = .next t ∧ changedOnly (fun x => spad s.cur off ≤ x ∧ x < spad s.cur off + n) s t
      ∧ Mem.readN t.mem (spad s.cur off) n = contained (elemTy o.t 0 0) (s.g o.a).toNat % 256 ^ n

/-- Each byte that a task stores into its own register image reaches the bits that the image lets it write: the general and predicate registers, GEOM
but for its bit 127, LINK but for its upper byte and the vector registers whole; TSTAT, FADDR, handles, TID and SBRD not at all; FSTAT.fv only to 0
(spec/06, R119 to R130). -/
def Obligations.ImageStoresKeepTheProtectedBits : Prop :=
  ∀ (s : State) (c : CoreId) (blk : BitVec 7) (w j : Nat) (x : Byte), j < 8 → 8 * w + j < imageBytes →
    let off := 4096 * blk.toNat + 8 * w + j
    let old := Mem.read s.mem (spad c off)
    let new := Mem.read (s.storeByte c blk off x).mem (spad c off)
    (∀ a, a ≠ spad c off → Mem.read (s.storeByte c blk off x).mem a = Mem.read s.mem a)
      ∧ ((w < 16 ∨ (32 ≤ w ∧ w < 40) ∨ w = 43 ∨ 48 ≤ w) → new = x)
      ∧ (((16 ≤ w ∧ w < 32) ∨ w = 40 ∨ w = 42 ∨ w = 46 ∨ w = 47) → new = old)
      ∧ (w = 41 → new = if j = 7 then old &&& ~~~(x &&& 0x80) else old)
      ∧ (w = 44 → new = if j = 7 then (old &&& 0x80) ||| (x &&& 0x7F) else x)
      ∧ (w = 45 → new = if j = 7 then old else x)

/-- The late-translated heads of memory send their requests to their homes and go on: ST, BRED and BUPD with their data, BARINIT with its expectations,
DISCARD one request per line, so with a place in the retention buffer, a step of the home's buoy and a free path, in a page without DET; a BUPD
without a lane sends nothing. A scaled pointer raises FORMAT, an element or a line off its alignment MISALIGNED, and at BRED a moored range
RANGE_LOCKED (spec/09, spec/14, R192, R272, R278, R279, R282, R283, R285, R286). Sending one request: with a place in the retention buffer, a step
of the home's buoy and a free path, the request of a page without DET leaves for its home, its copy stays in the buffer, and the task goes on
(spec/09, spec/10, spec/14, R183, R196, R279). Completes: st, bredAdd, bredMin, bredMax, bupdSet, bupdAdd, bupdMul, bupdMin, bupdMax, discard,
barinit. Where the spec leaves a point open, the clauses rest on the model's choices of log entry 20. -/
def Obligations.LateHeadsSendTheirRequestsAndRetainThem : Prop :=
  (∀ s : State, Quiet s →
    (∀ (o : LsOp) (tag a : Nat), s.guardOn o.q = true → s.address o.m (elemSize (elemTy o.t 0 0) 0) = .ok (.va tag a) → tagBlog tag = 0 →
      let n := elemSize (elemTy o.t (tagFmt tag) 0) (tagFmt tag)
      let v := storeVal s.me o.t (tagFmt tag) (s.g o.a)
      a + n ≤ 2 ^ 56 → s.moorHit a (a + n - 1) = none →
      (∀ t, s.lateHead (s.lateReqs tag .store 0 a n v) = .ok t → exec (.st o) s = .next t)
      ∧ (0 < n → a % 64 + n ≤ 64 → atHome s a → s.detAt s.myEnt.sid a = false →
        ∃ t, exec (.st o) s = .next t
          ∧ lateSent s t (s.lateReq tag .store 0 (BitVec.ofNat 512 (v % 256 ^ n)) ⟨a, n, BitVec.ofNat 64 (2 ^ n - 1)⟩)))
    ∧ (∀ (o : LsOp) (tag a : Nat), s.guardOn o.q = true → s.address o.m (tyBits o.t / 8) = .ok (.va tag a) → tagBlog tag = 0 →
      let n := tyBits o.t / 8
      let v := (s.g o.a).toNat % 256 ^ n
      a % n = 0 → s.moorHit a (a + n - 1) = none →
      (∀ (k : UpdKind) (t : State), s.lateHead (s.lateReqs tag (.bred k o.t) 1 a n v) = .ok t →
        (k = .add → exec (.bredAdd o) s = .next t) ∧ (k = .min → exec (.bredMin o) s = .next t) ∧ (k = .max → exec (.bredMax o) s = .next t))
      ∧ (0 < n → atHome s a → s.detAt s.myEnt.sid a = false →
        let r (k : UpdKind) : MemReq := s.lateReq tag (.bred k o.t) 1 (BitVec.ofNat 512 v) ⟨a, n, BitVec.ofNat 64 (2 ^ n - 1)⟩
        (∃ t, exec (.bredAdd o) s = .next t ∧ lateSent s t (r .add)) ∧ (∃ t, exec (.bredMin o) s = .next t ∧ lateSent s t (r .min))
          ∧ ∃ t, exec (.bredMax o) s = .next t ∧ lateSent s t (r .max)))
    ∧ (∀ (o : LsOp) (tag a : Nat), s.guardOn o.q = true → s.address o.m (tyBits o.t / 8) = .ok (.va tag a) →
      let n := tyBits o.t / 8
      let all (c : Code) (d : BitVec 32) : Prop := ∀ i ∈ [Instr.bredAdd o, .bredMin o, .bredMax o], exec i s = .next (s.faultHere c d (mkPtr tag a) s.me.pc)
      (tagBlog tag ≠ 0 → all cFormat 0) ∧ (tagBlog tag = 0 → a % n ≠ 0 → all cMisaligned 0)
        ∧ ∀ j, tagBlog tag = 0 → a % n = 0 → s.moorHit a (a + n - 1) = some j → all cRangeLocked (BitVec.ofNat 32 j))
    ∧ (∀ (o : BupdOp) (b : BarinitOp) (m : Word), s.guardOn o.q = true → s.guardOn b.q = true → s.regImm o.mask = .ok m → s.vxBusy (o.v.setWidth 5) = false →
      o.b = b.b →
      let p := s.g b.b
      let all (c : Code) : Prop := ∀ i ∈ [Instr.bupdSet o, .bupdAdd o, .bupdMul o, .bupdMin o, .bupdMax o, .barinit b], exec i s = .next (s.faultHere c 0 p s.me.pc)
      ((ptrLegal p = false ∨ ptrBlog p ≠ 0) → all cFormat) ∧ (ptrLegal p = true → ptrBlog p = 0 → ptrVa p % 64 ≠ 0 → all cMisaligned))
    ∧ (∀ (o : BupdOp) (m : Word), s.guardOn o.q = true → s.regImm o.mask = .ok m → s.vxBusy (o.v.setWidth 5) = false → ptrLegal (s.g o.b) = true →
      ptrBlog (s.g o.b) = 0 → ptrVa (s.g o.b) % 64 = 0 → s.moorHit (ptrVa (s.g o.b)) (ptrVa (s.g o.b) + 63) = none →
      let bm := bupdMask o.t (m.setWidth 16)
      (bm = 0 → exec (.bupdSet o) s = .next s.advance ∧ exec (.bupdAdd o) s = .next s.advance ∧ exec (.bupdMul o) s = .next s.advance
        ∧ exec (.bupdMin o) s = .next s.advance ∧ exec (.bupdMax o) s = .next s.advance)
      ∧ (bm ≠ 0 → atHome s (ptrVa (s.g o.b)) →
        let r (k : UpdKind) : MemReq :=
          s.lateReq (field (s.g o.b) 56 8) (.bupd k o.t (m.setWidth 16)) 2 (s.v (o.v.setWidth 5)) ⟨ptrVa (s.g o.b), 64, bm⟩
        (∃ t, exec (.bupdSet o) s = .next t ∧ lateSent s t (r .set)) ∧ (∃ t, exec (.bupdAdd o) s = .next t ∧ lateSent s t (r .add))
          ∧ (∃ t, exec (.bupdMul o) s = .next t ∧ lateSent s t (r .mul)) ∧ (∃ t, exec (.bupdMin o) s = .next t ∧ lateSent s t (r .min))
          ∧ ∃ t, exec (.bupdMax o) s = .next t ∧ lateSent s t (r .max)))
    ∧ (∀ o : BarinitOp, s.guardOn o.q = true → ptrLegal (s.g o.b) = true → ptrBlog (s.g o.b) = 0 → ptrVa (s.g o.b) % 64 = 0 →
      s.moorHit (ptrVa (s.g o.b)) (ptrVa (s.g o.b) + 63) = none → atHome s (ptrVa (s.g o.b)) →
      ∃ t, exec (.barinit o) s = .next t ∧ lateSent s t (s.lateReq (field (s.g o.b) 56 8) (.barinit ((s.g o.a).setWidth 16) ((s.g o.c).setWidth 48)) 5 0
        ⟨ptrVa (s.g o.b), 64, BitVec.allOnes 64⟩))
    ∧ ∀ (o : DiscardOp) (tag a : Nat), s.guardOn o.q = true → s.address o.m 64 = .ok (.va tag a) → tagBlog tag = 0 → a % 64 = 0 →
      let n := (s.g o.a).toNat % 4096 + 1
      let r (i : Nat) : MemReq := s.lateReq tag .discard 3 0 ⟨a + 64 * i, 64, BitVec.allOnes 64⟩
      a + 64 * n ≤ 2 ^ 56 → s.moorHit a (a + 64 * n - 1) = none → s.latePathFree (a + 64 * n - 1) = .ok () →
      (∀ t, s.latePathFree a = .ok () → s.issueLate ((List.range n).map r) = .ok t → exec (.discard o) s = .next t.advance)
      ∧ (atHome s a → (n = 1 → ∃ t, exec (.discard o) s = .next t ∧ lateSent s t (r 0))
        ∧ ∃ (t : State) (b : Option Sys2Proof.Step), exec (.discard o) s = .next t ∧ t.mem = s.mem
          ∧ .lateRequestAtHome { r 0 with buoy := b, ret := .retained (s.me.ids + 1) } ∈ t.net))
  ∧ (∀ (s : State) (r : MemReq) (b : BuoyId), Quiet s → r.buoy = some ⟨some b, 0⟩ → s.me.srb.length < 64 → 0 < (s.me.buoy b).val →
    s.latePathFree (ptrVa r.fptr) = .ok () → s.detAt r.who.sid (ptrVa r.fptr) = false →
    ∃ t : State, s.lateHead [r] = .ok t.advance ∧ lateSent s t r ∧ (t.me.buoy b).val = (s.me.buoy b).val - 1)

/-- The eight ATOM heads hold their task with their request sent and go on when it is answered; the element as it was before reaches their register;
what they make of the element: the sum, the logic, the smaller and the larger, the operand, or the operand D where the element equals C; a scaled
pointer raises FORMAT, an element off its alignment MISALIGNED, a moored one RANGE_LOCKED, and the channel word stays (spec/09, spec/14, R192, R272,
R281). Completes: atomAdd, atomAnd, atomOr, atomXor, atomMin, atomMax, atomSwap, atomCas. -/
def Obligations.AtomicHeadsHaveTheirEffect : Prop :=
  (∀ (o : AtomOp) (s : State) (ws : List Word) (b : RepBody), s.me.hold = some ⟨1, ws, some b⟩ → (∀ c x, b ≠ .fault c x) →
    exec (.atomAdd o) s = .next s.advance ∧ exec (.atomAnd o) s = .next s.advance ∧ exec (.atomOr o) s = .next s.advance
      ∧ exec (.atomXor o) s = .next s.advance ∧ exec (.atomMin o) s = .next s.advance ∧ exec (.atomMax o) s = .next s.advance
      ∧ exec (.atomSwap o) s = .next s.advance ∧ exec (.atomCas o) s = .next s.advance)
  ∧ (∀ (o : AtomOp) (s : State) (e : AtcEntry), Quiet s → s.me.hold = none → s.guardOn o.q = true → able s o.c → s.ownPending = false → s.me.orc < 64 →
    let p := s.g o.b
    let n := tyBits o.t / 8
    ptrLegal p = true → ptrBlog p = 0 → 0 < n → ptrVa p % n = 0 → s.moorHit (ptrVa p) (ptrVa p + n - 1) = none → s.me.atcFind s.myEnt.sid (ptrVa p) = some e →
    e.rts.getLsbD rRead = true → e.rts.getLsbD rWrite = true → toBankFrom s (atcPa e (ptrVa p)) (ptrVa p) e.det →
    let x := s.take o.c
    let r (k : AtomKind) : MemReq :=
      { s.loadReq (field p 56 8) (.atom k o.t x.1 (s.g o.d)) (.load 0) (⟨ptrVa p, n, BitVec.ofNat 64 (2 ^ n - 1)⟩, e) with det := false }
    let sends (i : Instr) (k : AtomKind) : Prop := ∃ t, exec i s = .next t ∧ asked x.2 t (r k) ∧ t.me.hold = some ⟨1, [], none⟩
    sends (.atomAdd o) .add ∧ sends (.atomAnd o) .and ∧ sends (.atomOr o) .or ∧ sends (.atomXor o) .xor ∧ sends (.atomMin o) .min
      ∧ sends (.atomMax o) .max ∧ sends (.atomSwap o) .swap ∧ sends (.atomCas o) .cas)
  ∧ (∀ (o : AtomOp) (s : State), Quiet s → s.me.hold = none → s.guardOn o.q = true → able s o.c →
    let p := s.g o.b
    let n := tyBits o.t / 8
    let all (c : Code) (d : BitVec 32) : Prop :=
      ∀ i ∈ [Instr.atomAdd o, .atomAnd o, .atomOr o, .atomXor o, .atomMin o, .atomMax o, .atomSwap o, .atomCas o], exec i s = .next (s.faultHere c d p s.me.pc)
    ((ptrLegal p = false ∨ ptrBlog p ≠ 0) → all cFormat 0) ∧ (ptrLegal p = true → ptrBlog p = 0 → ptrVa p % n ≠ 0 → all cMisaligned 0)
      ∧ ∀ j, ptrLegal p = true → ptrBlog p = 0 → ptrVa p % n = 0 → s.moorHit (ptrVa p) (ptrVa p + n - 1) = some j → all cRangeLocked (BitVec.ofNat 32 j))
  ∧ (∀ (s : State) (c : CoreId) (x : Outst), x.fault = none → x.nb = false → x.atom = true → x.code = false → (s.core c).phaseOf x.hidx = some 1 →
    x.log = [] → x.fills = [] →
    s.loadDone c x = ((((s.modCore c fun k => { k with orc := if x.cnt then k.orc - 1 else k.orc }).modCore c fun k => k.dropLoad x.id).setGAt c x.wpb x.reg
      (putBits x.t ((List.range (tyBits x.t / 8)).map fun i => (Tab.get 0 x.got (ptrVa x.fptr + i)).toNat * 256 ^ i).sum)).pendG c x.wpb x.reg
        false).answer c x.hidx .ok)
  ∧ ∀ (t : Ty) (old : Nat) (c d : Word), (t = .i32 ∨ t = .z32 ∨ t = .i64 ∨ t = .z64) → old < 2 ^ tyBits t →
    let w := tyBits t
    let x := c.toNat % 2 ^ w
    let v (n : Nat) : Int := if t.isSigned = true ∧ 2 ^ (w - 1) ≤ n then (n : Int) - 2 ^ w else n
    atomNew .add t old c d = (old + x) % 2 ^ w ∧ atomNew .and t old c d = old &&& x ∧ atomNew .or t old c d = old ||| x
      ∧ atomNew .xor t old c d = old ^^^ x ∧ atomNew .min t old c d = (if v old ≤ v x then old else x)
      ∧ atomNew .max t old c d = (if v old ≤ v x then x else old) ∧ atomNew .swap t old c d = x
      ∧ atomNew .cas t old c d = if old = x then d.toNat % 2 ^ w else old

/-- BAR and BAR.Q release, send their arrival, write the wait record and put the wait to the end of the line, BAR.Q with its close report; QCLOSE sends
its report and holds the task until the notice of its quantum; DRAINST reads and clears the count of store faults, and delivers a record if there is
one; a fence goes on and is remembered, unless its accesses are performed, SYSTEM only with no notice owed; a head of a kind that it orders stalls
until they are, and takes a held fault that the fence waits for; loads and late stores stall behind a VX head that has still to consume its slots; a
service core goes on past its fence; RO.INV empties the cache (spec/12, spec/14, R231 to R234, R277, R287, R290, R291). Completes: roInv, bar, barQ,
qclose, drainst, fenceTask, fenceCore, fenceGang, fenceDie, fenceDevice, fenceSystem, serviceCoreFence. Where the spec leaves a point open, the
clauses rest on the model's choices of log entries 8, 24, 59. -/
def Obligations.SynchronizationHeadsHaveTheirEffect : Prop :=
  (∀ s : State, Quiet s → Idle s → s.me.decrs = [] →
    (∀ (b : GReg) (e : AtcEntry), ptrLegal (s.g b) = true → ptrBlog (s.g b) = 0 → ptrVa (s.g b) % 64 = 0 →
      s.me.atcFind s.myEnt.sid (ptrVa (s.g b)) = some e → e.rts.getLsbD rWrite = true →
      let pa := atcPa e (ptrVa (s.g b))
      let rcv := s.receiver s.cur s.me.part pa false e.det
      let y := receiverBuoy pa rcv
      s.pathFree (ptrVa (s.g b)) rcv true = .ok () → (∀ z, y = some z → 0 < (s.me.buoy z).val) → s.myEnt.wait = (false, false) →
      let rec_ (q : Bool) : BarWait := ⟨true, q, false, false, false, BitVec.ofNat 2 s.myEnt.qnum.toNat, BitVec.ofNat 50 (pa / 64), 0, 0, false⟩
      let arrive : Event := .barrierArrive ⟨s.who, BitVec.ofNat 56 pa, e.key, s.g b, s.me.pc, some (s.stepOf s.cur y)⟩
      let go (q : Bool) : State := (s.takeStep s.cur y (.arrive s.me.pc ⟨s.myIdx, .step, s.g b, s.myEnt.sid, rcv, true⟩)).modEnt s.cur s.myIdx
        fun x => { x with bar := rec_ q }
      exec (.bar b) s = .next (((go false).emit arrive).atEnd .barWait).advance
        ∧ exec (.barQ b) s = .next ((((go true).emit arrive).emit (.closeReport s.cur s.who.lref)).atEnd .barWait).advance)
    ∧ (s.myEnt.wait.1 = false →
      ∃ t, exec .qclose s = .next t ∧ .closeReport s.cur s.who.lref ∈ t.net ∧ t.me.hold = some ⟨2, [s.myEnt.qnum.setWidth 64], none⟩)
    ∧ (∀ a : GReg, s.myEnt.wait = (false, false) →
      let t := ((s.setG a (BitVec.ofNat 64 (drnOf (s.wsW offTstat)))).setWsW offTstat (drnClear (s.wsW offTstat))).advance
      (s.me.sfq = [] → exec (.drainst a) s = .next t)
      ∧ ∀ l : Line, s.me.line = some l → s.myEnt.ganged = false →
        exec (.drainst a) s = .next (t.deliverSfq t.cur t.myIdx (nextPc s.me.pc (headCount l))))
    ∧ (∀ o : FenceOp,
      let t := (s.modEnt s.cur s.myIdx fun e => { e with fences := [] }).advance
      exec (.fenceTask o) s = .next t ∧ exec (.fenceCore o) s = .next t ∧ exec (.fenceGang o) s = .next t ∧ exec (.fenceDie o) s = .next t
        ∧ exec (.fenceDevice o) s = .next t ∧ (s.me.rcc = 0 → exec (.fenceSystem o) s = .next t)))
  ∧ (∀ (s : State) (o : FenceOp), Quiet s →
    let after (system : Bool) : State := (s.modEnt s.cur s.myIdx fun e =>
      { e with fences := [s.fenceWait o.pred o.succ system].filter fun x => x.succ != 0 && !s.fenceOver x }).advance
    exec (.fenceTask o) s = .next (after false) ∧ exec (.fenceCore o) s = .next (after false) ∧ exec (.fenceGang o) s = .next (after false)
      ∧ exec (.fenceDie o) s = .next (after false) ∧ exec (.fenceDevice o) s = .next (after false) ∧ exec (.fenceSystem o) s = .next (after true)
      ∧ exec .roInv s = .next (s.modCore s.cur fun k => { k with ro := [], loads := k.loads.map fun x => { x with fresh := false } }).advance)
  ∧ (∀ (s : State) (f : FenceWait), s.wsW offSbrd = 0 → s.me.hold = none → f ∈ s.myEnt.fences → s.fenceOver f = false →
    s.myEnt.held = [] → (f.succ.getLsbD 0 = true → (∀ o : LsOp, s.guardOn o.q = true →
        exec (.ld o) s = .next s.stall ∧ exec (.ldnb o) s = .next s.stall ∧ exec (.ldc o) s = .next s.stall) ∧ exec .roInv s = .next s.stall)
    ∧ (f.succ.getLsbD 1 = true → ∀ rs, s.lateHead rs = .error .stall))
  ∧ (∀ (s : State) (o : LsOp) (rs : List MemReq), s.wsW offSbrd = 0 → s.me.hold = none → s.takeNames ≠ [] → s.guardOn o.q = true →
    exec (.ld o) s = .next s.stall ∧ exec (.ldnb o) s = .next s.stall ∧ exec (.ldc o) s = .next s.stall ∧ s.lateHead rs = .error .stall)
  ∧ (∀ (s : State) (f : FenceWait) (x : HeldFault), s.takeNames = [] → f ∈ s.myEnt.fences → s.myEnt.held = [x] → x.id ∈ f.names →
    (f.succ.getLsbD 0 = true → exec .roInv s = .next (trapState s (.held x))) ∧ (f.succ.getLsbD 1 = true → ∀ rs, s.lateHead rs = .error (.held x)))
  ∧ (∀ (s : State) (sc : BitVec 3) (o : FenceOp),
    exec (.serviceCoreFence sc o) s = .next (s.modSlice s.svcCur.toNat fun k => { k with svc := k.svc.drop 1 }))
  ∧ ∀ (s : State) (ws : List Word) (b : RepBody), s.me.hold = some ⟨2, ws, some b⟩ →
    exec .qclose s = .next (s.noteWait s.cur s.myIdx false).advance

/-- The channel heads: CBIND defines a free ring inside the workspace and its handle, or raises BAD_HANDLE; CUNBIND clears the entry and the handle;
CADV frees slots and starts at word 0; CFILL reads the count; CWAIT goes on at the count it waits for, and a count past the ring raises BAD_HANDLE;
CSEND and CSEND.EOS send one packet of the named registers, or the request of a rectangle; CMASK and CUNMASK set and clear mask bits (spec/15, R297
to R303). Completes: cbind, cunbind, cadv, cfill, cwait, csend, csendEos, cmask, cunmask. Where the spec leaves a point open, the clauses rest on
the model's choices of log entry 16. -/
def Obligations.ChannelHeadsHaveTheirEffect : Prop :=
  ∀ s : State, Quiet s →
    (∀ (h : Handle) (b : GReg),
      let w := s.g b
      let ch : Chan := BitVec.ofNat 5 (field w 56 5)
      (field w 62 2 = 0 → field w 53 3 = 0 → field w 0 32 = 0 → 4096 * s.me.blk.toNat + imageBytes ≤ 64 * field w 40 13 →
        64 * field w 40 13 + (64 * (field w 32 8 + 1) + (field w 32 8 + 2) / 2) ≤ 4096 * (s.me.blk.toNat + s.myEnt.nblk) →
        (s.me.chan ch).v = false → w.getLsbD 61 = false →
        exec (.cbind h b) s = .next (((s.modCore s.cur fun k => k.setChan ch
          { ChanEnt.reset with v := true, base := BitVec.ofNat 13 (field w 40 13), sm1 := BitVec.ofNat 8 (field w 32 8) }).setH h
            (BitVec.ofNat 64 (2 ^ 63 + ch.toNat * 2 ^ 52))).advance))
      ∧ (field w 62 2 = 3 ∨ field w 53 3 ≠ 0 ∨ field w 0 20 ≠ 0 ∨ field w 32 8 < field w 24 8 →
        exec (.cbind h b) s = .next (s.faultHere cBadHandle (h.setWidth 32) 0 s.me.pc)))
    ∧ (∀ h : Handle, (s.h h).getLsbD 63 = true → s.me.inChan = [] → (s.me.chan (s.chanOf h)).bh = false →
      exec (.cunbind h) s = .next ((((s.modCore s.cur fun k => k.setChan (s.chanOf h) .reset).modCore s.cur fun k => { k with inChan := [] }).setH h 0).advance))
    ∧ (∀ o : HandleOp, s.guardOn o.q = true →
      let ch := s.chanOf o.h
      let e := s.me.chan ch
      ((s.h o.h).getLsbD 63 = true → field (s.h o.h) 57 2 = 0 → e.v = true → o.n.toNat ≤ e.fill →
        exec (.cadv o) s = .next (((s.freeSlots ch o.n.toNat false).2.setH o.h
          (putField (putField (s.h o.h) 62 1 (if (s.freeSlots ch o.n.toNat false).1 then 1 else 0)) 59 3 0)).advance))
      ∧ ((s.h o.h).getLsbD 63 = true → o.n.toNat ≤ e.sm1.toNat + 1 → o.n.toNat ≤ e.fill → exec (.cwait o) s = .next s.advance)
      ∧ ((s.h o.h).getLsbD 63 = true → e.sm1.toNat + 1 < o.n.toNat →
        exec (.cwait o) s = .next (s.faultHere cBadHandle (o.h.setWidth 32) 0 s.me.pc)))
    ∧ (∀ (a : GReg) (h : Handle), (s.h h).getLsbD 63 = true →
      exec (.cfill a h) s = .next (s.setG a (BitVec.ofNat 64 (s.me.chan (s.chanOf h)).fill)).advance)
    ∧ (∀ o : CsendOp, s.guardOn o.q = true →
      let w := s.g o.a
      let pkt (eos : Bool) (dst : CoreId) : Packet :=
        ⟨s.me.dev, s.me.part, false, s.cur, BitVec.ofNat 10 (field w 54 10), false, dst, eos, BitVec.ofNat 5 (field w 26 5), 3,
          (List.range o.n.toNat).map fun i => s.g (o.b + BitVec.ofNat 4 i)⟩
      let one (eos : Bool) : Event := .chanPacketReceive (pkt eos (BitVec.ofNat 11 (field w 42 11)))
      let all (eos : Bool) : Event := mcAt (s.cur.toNat % 64) (s.cur.toNat / 64) (pkt eos s.cur)
        ⟨BitVec.ofNat 6 (field w 47 6), BitVec.ofNat 5 (field w 42 5), BitVec.ofNat 6 (field w 36 6), BitVec.ofNat 5 (field w 31 5)⟩
      (s.destOk w = true → w.getLsbD 53 = false → (∀ k, .chanPacketReceive k ∈ s.net → k.src = s.cur → (s.core k.dst).inChan.length < 4) →
        (field w 54 10 = s.me.dev.toNat →
          exec (.csend o) s = .next (s.emit (one false)).advance ∧ exec (.csendEos o) s = .next (s.emit (one true)).advance)
        ∧ (field w 54 10 ≠ s.me.dev.toNat →
          exec (.csend o) s = .next ({ s with out := s.out ++ [one false] }).advance
            ∧ exec (.csendEos o) s = .next ({ s with out := s.out ++ [one true] }).advance))
      ∧ (s.destOk w = true → w.getLsbD 53 = true → s.me.retry.length < 16 →
        exec (.csend o) s = .next (s.emit (all false)).advance ∧ exec (.csendEos o) s = .next (s.emit (all true)).advance)
      ∧ (s.destOk w = false → exec (.csend o) s = .next (s.faultHere cBadDest 0 0 s.me.pc)
        ∧ exec (.csendEos o) s = .next (s.faultHere cBadDest 0 0 s.me.pc)))
    ∧ ∀ o : GiOp, s.guardOn o.q = true → ableOpd s o.c →
      let r := readsOne s o.c
      exec (.cmask o) s = .next (r.2.modCore r.2.cur fun k => { k with cmask := k.cmask ||| r.1.setWidth 3 }).advance
        ∧ (r.1.getLsbD 2 = false →
          exec (.cunmask o) s = .next (r.2.modCore r.2.cur fun k => { k with cmask := k.cmask &&& ~~~(r.1.setWidth 3) }).advance)
        ∧ (r.1.getLsbD 2 = true → r.2.me.inMx = [] →
          ∃ t, exec (.cunmask o) s = .next t ∧ t.me.cmask = r.2.me.cmask &&& ~~~(r.1.setWidth 3) ∧ t.net = r.2.net ∧ t.mem = r.2.mem)

/-- SETPRIO sets base and effective priority; YIELD, SLEEP, END, GFORM and GREL put their action to the end of the line; DECR sends its count to the
handler entry that its reference names; a bad gang word or a GREL outside a gang raises BAD_GANG, a bad reference BAD_DEST (spec/15, R304, R305,
R307, R313, R314). Completes: setprio, yield, sleep, endTask, decr, gform, grel. Where the spec leaves a point open, the clauses rest on the model's
choices of log entries 15, 59. -/
def Obligations.TaskHeadsHaveTheirEffect : Prop :=
  let act (t : State) (k : EndKind) : State := (t.modEnt t.cur t.myIdx fun e => { e with ends := e.ends ++ [⟨k, t.me.pc⟩] }).advance
  ∀ s : State, Quiet s →
    (∀ o : GiOp, s.guardOn o.q = true → ableOpd s o.c →
      let r := readsOne s o.c
      exec (.setprio o) s = .next (r.2.modEnt r.2.cur r.2.myIdx fun e => { e with base := r.1.setWidth 3, eff := r.1.setWidth 3 }).advance)
    ∧ exec .yield s = .next (act s .yield)
    ∧ exec .sleep s = .next (act s .sleep)
    ∧ exec .endTask s = .next (act s .fin)
    ∧ (∀ o : DecrOp, s.guardOn o.q = true → ableOpd s o.c →
      let r := readsOne s o.c
      let d := s.g o.a
      (field d 27 5 = 0 → field d 0 10 = 0 →
        exec (.decr o) s = .next ((r.2.modCore r.2.cur fun k => { k with decrs := k.decrs ++ [(r.2.myIdx, s.me.ids + 1)], ids := s.me.ids + 1 }).emit
          (.decrApply r.2.me.part (BitVec.ofNat 11 (field d 16 11)) (BitVec.ofNat 6 (field d 10 6)) (r.1.setWidth 32) (some (r.2.who, s.me.ids + 1)))).advance)
      ∧ (field d 27 5 ≠ 0 ∨ field d 0 10 ≠ 0 → exec (.decr o) s = .next (s.faultHere cBadDest 0 0 s.me.pc)))
    ∧ (∀ b : Src, able s b →
      (s.gangOk (s.take b).1 = true →
        exec (.gform b) s = .next (act (s.take b).2 (.gform (s.take b).1)))
      ∧ (s.gangOk (s.take b).1 = false → exec (.gform b) s = .next (s.faultHere cBadGang 0 0 s.me.pc)))
    ∧ (s.myEnt.ganged = true → exec .grel s = .next (act s .grel))
    ∧ (s.myEnt.ganged = false → exec .grel s = .next (s.faultHere cBadGang 0 0 s.me.pc))

/-- CRD reads every control register of R131 into its register, GEOM into a pair; CWR writes GEOM, CAPMX for a privileged task, clears FSTAT.fv, sets
the priority, and has no other effect (spec/06, spec/15, R131, R316). Completes: crd, cwr. -/
def Obligations.ControlRegistersReadAndWrite : Prop :=
  ∀ (o : CrOp) (s : State), Quiet s → s.guardOn o.q = true →
    let w := s.g o.a
    let rd (n : BitVec 8) (x : Word) : Prop := o.n = n → exec (.crd o) s = .next (s.setG o.a x).advance
    rd 0 (BitVec.ofNat 64 (4096 * s.me.blk.toNat))
      ∧ (o.n = 1 → exec (.crd o) s = .next ((s.setG o.a (s.wsW offGeom)).setG (o.a + 1) (s.wsW (offGeom + 8))).advance)
      ∧ rd 2 (BitVec.ofNat 64 (s.me.dev.toNat * 2 ^ 48 + s.me.sblk.toNat * 2 ^ 40 + s.me.part.toNat * 2 ^ 36 + (if s.me.mxs then 2 ^ 35 else 0)
        + s.cur.toNat * 2 ^ 22 + 1))
      ∧ rd 3 (if (s.wsW offTstat).getLsbD 63 then s.me.capmx else 0)
      ∧ rd 4 (s.wsW offTstat) ∧ rd 5 (s.wsW offFstat) ∧ rd 6 (s.wsW offFaddr)
      ∧ rd 7 (BitVec.ofNat 64 ((if s.me.mxprog.mv then 2 ^ 63 else 0) + s.me.mxprog.acc.toNat * 2 ^ 60 + s.me.mxprog.arow.toNat * 2 ^ 48
        + s.me.mxprog.brow.toNat * 2 ^ 40))
      ∧ rd 8 ((s.me.cxDone 0).setWidth 64) ∧ rd 9 ((s.me.cxDone 1).setWidth 64) ∧ rd 10 ((s.me.cxDone 2).setWidth 64) ∧ rd 11 ((s.me.cxDone 3).setWidth 64)
      ∧ rd 12 (BitVec.ofNat 64 s.me.orc) ∧ rd 13 (s.myEnt.qnum.setWidth 64)
      ∧ rd 14 (BitVec.ofNat 64 (s.myEnt.age.toNat * 2 ^ 8 + s.myEnt.eff.toNat * 2 ^ 4 + s.myEnt.base.toNat))
      ∧ (∀ b : BuoyId, rd (64 + b.setWidth 8) (BitVec.ofNat 64 ((s.me.buoy b).ceil * 2 ^ 24 + (s.me.buoy b).unm * 2 ^ 16 + (s.me.buoy b).val)))
      ∧ (o.n = 1 → exec (.cwr o) s = .next ((s.setWsW offGeom w).setWsW (offGeom + 8) (s.g (o.a + 1) &&& 0x7FFFFFFFFFFFFFFF)).advance)
      ∧ (o.n = 3 → exec (.cwr o) s = .next (if (s.wsW offTstat).getLsbD 63 then s.modCore s.cur fun k => { k with capmx := w } else s).advance)
      ∧ (o.n = 5 → exec (.cwr o) s = .next (if w.getLsbD 63 then s.setWsW offFstat (putField (s.wsW offFstat) 63 1 0) else s).advance)
      ∧ (o.n = 14 → exec (.cwr o) s = .next (s.modEnt s.cur s.myIdx fun e => { e with base := w.setWidth 3, eff := w.setWidth 3 }).advance)
      ∧ ((∀ n ∈ [(1 : BitVec 8), 3, 5, 14], o.n ≠ n) → exec (.cwr o) s = .next s.advance)

/-- The heads that await an answer end with it: LAUNCH, SPAWN, CANCEL, SCRUB and the space heads write the status word, SPAWN after its placement; TBLD
writes its table, LOGCTL its descriptor; the other LOGCTL forms act at once for a privileged task, and a tenant takes ILLEGAL_OP (spec/15, spec/18,
R296, R309, R311, R312, R315, R318 to R320, R386 to R389). Completes: spawn, launch, launchBar, cancelLaunch, cancelGraph, cancelPhase, cancelJob,
tbld, scrub, logctlDefine, logctlDisable, logctlSequence, map, grant, unmap, spqry. Where the spec leaves a point open, the clauses rest on the
model's choices of log entry 15. -/
def Obligations.AnsweredHeadsEndWithTheirStatus : Prop :=
  ∀ s : State,
    (∀ (ws : List Word) (w : Word), s.me.hold = some ⟨4, ws, some (.status w)⟩ →
      (∀ o : RrOp, exec (.launch o) s = .next (s.setG o.a w).advance ∧ exec (.launchBar o) s = .next (s.setG o.a w).advance
        ∧ exec (.scrub o) s = .next (s.setG o.a w).advance ∧ (field w 56 8 ≠ 0 → exec (.spawn o) s = .next (s.setG o.a w).advance))
      ∧ (∀ o : CancelOp, exec (.cancelLaunch o) s = .next (s.setG o.a w).advance ∧ exec (.cancelGraph o) s = .next (s.setG o.a w).advance
        ∧ exec (.cancelPhase o) s = .next (s.setG o.a w).advance ∧ exec (.cancelJob o) s = .next (s.setG o.a w).advance)
      ∧ (∀ o : SpaceOp, exec (.map o) s = .next (s.setG o.a w).advance ∧ exec (.grant o) s = .next (s.setG o.a w).advance
        ∧ exec (.unmap o) s = .next (s.setG o.a w).advance)
      ∧ (∀ o : SpqryOp, (∀ r, o.c = .reg r → field (s.g r) 0 3 ≤ 1) → exec (.spqry o) s = .next (s.setG o.a w).advance))
    ∧ (∀ (o : RrOp) (ws : List Word) (w : Word), s.me.hold = some ⟨5, ws, some (.status w)⟩ →
      (field w 56 8 ≠ 5 → exec (.spawn o) s = .next (s.setG o.a w).advance)
      ∧ (field w 56 8 = 5 →
        let u : BuoyId := BitVec.ofNat 7 (s.myEnt.lref.toNat / 2 ^ 26)
        0 < (s.me.buoy u).val →
        exec (.spawn o) s = .next (((s.takeStep s.cur (some u) .other).emit
          (.spawnMemberRemove ⟨s.who, (s.wsW offTstat).getLsbD 63, lineOf [], 0, some (s.stepOf s.cur (some u))⟩)).setG o.a w).advance))
    ∧ (∀ (n : Bool) (b : GReg) (c : Src) (ws : List Word), s.me.hold = some ⟨3, ws, some .ok⟩ → Quiet s → able s c → s.me.tableBusy n = false →
      let tab := Table.build ((List.range 256).map fun i => BitVec.ofNat 19 (field (ws.getD (i / 2) 0) (32 * (i % 2)) 19)) ((s.take c).1.toNat % 256)
      exec (.tbld n b c) s = .next ((s.take c).2.modCore (s.take c).2.cur fun k => if n then { k with t1 := tab } else { k with t0 := tab }).advance)
    ∧ (∀ (o : LogOp) (w0 w1 w2 w3 d : Word), s.me.hold = some ⟨3, [w0, w1, w2, w3, d], some .ok⟩ →
      let t := (s.take o.b).2
      (w0 = 0x8000000000000000 ∧ w2 = 0 ∧ w3 = 0 → exec (.logctlDefine o) s = .next ((t.modSlice (t.kernel t.me.part) fun k =>
        { k with rdesc := Tab.set k.rdesc d.toNat [w0, w1, w2, w3] }).setG o.a 0).advance)
      ∧ (¬(w0 = 0x8000000000000000 ∧ w2 = 0 ∧ w3 = 0) → exec (.logctlDefine o) s = .next (t.setG o.a 2).advance))
    ∧ ∀ o : LogOp, Quiet s → s.guardOn o.q = true → able s o.b →
      ((s.wsW offTstat).getLsbD 63 = true →
        exec (.logctlDisable o) s = .next (((s.take o.b).2.modSlice ((s.take o.b).2.kernel (s.take o.b).2.me.part) fun k =>
          { k with rdesc := Tab.del k.rdesc (field (s.take o.b).1 0 5) }).setG o.a 0).advance
        ∧ exec (.logctlSequence o) s = .next ((s.take o.b).2.setG o.a (BitVec.ofNat 64
          (field (Tab.get 0 ((s.take o.b).2.slice ((s.take o.b).2.kernel (s.take o.b).2.me.part)).logctl 2) 32 32))).advance)
      ∧ ((s.wsW offTstat).getLsbD 63 = false →
        exec (.logctlDisable o) s = .next (s.faultAll cIllegalOp 1 (s.me.pc.setWidth 64))
          ∧ exec (.logctlSequence o) s = .next (s.faultAll cIllegalOp 1 (s.me.pc.setWidth 64))
          ∧ (s.me.hold = none → exec (.logctlDefine o) s = .next (s.faultAll cIllegalOp 1 (s.me.pc.setWidth 64))))

/-- What the heads that await an answer send: LAUNCH, LAUNCH.BAR, SPAWN and SCRUB read the 64 bytes of their message, TBLD its image, LOGCTL its
descriptor, each with a first request to its bank. With its message read, LAUNCH sends it to the home of its queue, LAUNCH.BAR with bit 36 of word 1
set, SPAWN its member-add, and after it its placement, and SCRUB asks the kernel of the partition it names; CANCEL sends its request to the object;
the space heads their request to the home of gB, each with a step of that slice's buoy; a SPQRY selector above 1 is ILLEGAL_OP (spec/01, spec/15,
spec/18, R26, R295, R309, R311, R312, R315, R319, R386 to R389). Completes: spawn, launch, launchBar, cancelLaunch, cancelGraph, cancelPhase,
cancelJob, tbld, scrub, logctlDefine, map, grant, unmap, spqry. Where the spec leaves a point open, the clauses rest on the model's choices of log
entries 15, 29. -/
def Obligations.MessageHeadsSendTheirRequest : Prop :=
  ∀ s : State, Quiet s →
    (∀ (o : RrOp) (ws : List Word), s.me.hold = some ⟨3, ws, some .ok⟩ →
      let q := field (ws.getD 1 0) 33 3
      let b : BuoyId := BitVec.ofNat 7 (s.queueHome s.me.part q)
      let l : BuoyId := BitVec.ofNat 7 (s.myEnt.lref.toNat / 2 ^ 26)
      let sent (y : BuoyId) : State := s.takeStep s.cur (some y) (.task s.myIdx)
      let step (y : BuoyId) : Sys2Proof.Step := s.stepOf s.cur (some y)
      let msg (x : List Word) : LaunchReq :=
        ⟨s.me.part, BitVec.ofNat 3 q, lineOf x, s.myEnt.sid, s.myEnt.lref, (s.wsW offTstat).getLsbD 63, .core, s.cur, s.myIdx, some (step b)⟩
      (0 < (s.me.buoy b).val →
        exec (.launch o) s = .next (((sent b).emit (.launchMessageAtHome (msg ws))).holdIn 4 [])
        ∧ exec (.launchBar o) s = .next (((sent b).emit (.launchMessageAtHome (msg (ws.set 1 (putField (ws.getD 1 0) 36 1 1))))).holdIn 4 []))
      ∧ (0 < (s.me.buoy l).val →
        exec (.spawn o) s = .next (((sent l).emit (.spawnMemberAdd ⟨s.who, (s.wsW offTstat).getLsbD 63, lineOf ws, 0, some (step l)⟩)).holdIn 4 ws))
      ∧ (let p : Pid := BitVec.ofNat 4 (field (ws.getD 0 0) 60 4)
        let k : BuoyId := BitVec.ofNat 7 (s.kernel p)
        let ack : Event := .memrepReceive ⟨s.cur, .held s.myIdx, .status (statusWord (s.scrubCode s.who ws) 0), some (step k), false⟩
        let run : Event := .scrubRun ⟨s.who, p, BitVec.ofNat 5 (field (ws.getD 0 0) 55 5), BitVec.ofNat 32 (field (ws.getD 1 0) 32 32), ws.getD 2 0,
          ws.getD 4 0 ++ ws.getD 3 0, s.time⟩
        0 < (s.me.buoy k).val →
        (s.scrubCode s.who ws = 0 → exec (.scrub o) s = .next ((((sent k).emit run).emit ack).holdIn 4 []))
        ∧ (s.scrubCode s.who ws ≠ 0 → exec (.scrub o) s = .next (((sent k).emit ack).holdIn 4 []))))
    ∧ (s.me.hold = none →
      let first (i : Instr) (t : State) (p : Word) (n : Nat) (e : AtcEntry) (ws : List Word) : Prop := ∃ u, exec i s = .next u
        ∧ asked t u (t.loadReq (field p 56 8) .load (.load 0) (⟨ptrVa p, n, BitVec.ofNat 64 (2 ^ n - 1)⟩, e)) ∧ u.me.hold = some ⟨3, ws, none⟩
      let reads (p : Word) (n : Nat) (e : AtcEntry) : Prop := s.me.atcFind s.myEnt.sid (ptrVa p) = some e ∧ e.rts.getLsbD rRead = true ∧ e.det = false
        ∧ s.moorHit (ptrVa p) (ptrVa p + n - 1) = none ∧ s.ownPending = false ∧ atBank s (atcPa e (ptrVa p)) (ptrVa p) false
      (∀ (o : RrOp) (e : AtcEntry), ptrLegal (s.g o.b) = true → ptrBlog (s.g o.b) = 0 → ptrVa (s.g o.b) % 64 = 0 → reads (s.g o.b) 64 e →
        first (.launch o) s (s.g o.b) 64 e [8] ∧ first (.launchBar o) s (s.g o.b) 64 e [8] ∧ first (.spawn o) s (s.g o.b) 64 e [8]
          ∧ ((s.wsW offTstat).getLsbD 63 = true → first (.scrub o) s (s.g o.b) 64 e [8]))
      ∧ (∀ (o : LogOp) (e : AtcEntry), s.guardOn o.q = true → able s o.b → (s.wsW offTstat).getLsbD 63 = true →
        let w := (s.take o.b).1
        let p : Word := BitVec.ofNat 64 (field w 5 51 * 32)
        reads p 32 e → first (.logctlDefine o) s p 32 e [4, BitVec.ofNat 64 (field w 0 5)])
      ∧ ∀ (n : Bool) (b : GReg) (c : Src) (e : AtcEntry), able s c → s.me.tableBusy n = false →
        let p := s.g b
        ptrLegal p = true → ptrBlog p = 0 → ptrVa p % 4096 + 1024 ≤ 4096 → ptrVa p % 64 = 0 → s.moorHit (ptrVa p) (ptrVa p + 1023) = none →
        s.me.atcFind s.myEnt.sid (ptrVa p) = some e → e.rts.getLsbD rRead = true → e.det = false → s.ownPending = false →
        (∀ i, i < 16 → atBank s (atcPa e (ptrVa p + 64 * i)) (ptrVa p + 64 * i) false) →
        ∃ (u : State) (y : Option Sys2Proof.Step), exec (.tbld n b c) s = .next u ∧ u.me.hold = some ⟨3, [128], none⟩
          ∧ .bankRequest { s.loadReq (field p 56 8) .load (.load (s.me.ids + 1)) (⟨ptrVa p, 64, BitVec.allOnes 64⟩, e) with buoy := y } ∈ u.net)
    ∧ (∀ o : RrOp, s.me.hold = none → (s.wsW offTstat).getLsbD 63 = false → exec (.scrub o) s = .next (s.faultAll cIllegalOp 1 (s.me.pc.setWidth 64)))
    ∧ (∀ (o : RrOp) (ws : List Word) (w : Word), s.me.hold = some ⟨4, ws, some (.status w)⟩ → field w 56 8 = 0 →
      exec (.spawn o) s = .next ((s.emit (.spawnPlace ⟨s.who, (s.wsW offTstat).getLsbD 63, lineOf ws, w.setWidth 32, none⟩)).holdIn 5 []))
    ∧ (∀ o : CancelOp, s.me.hold = none → able s o.b →
      let r : ObjRef := (s.take o.b).1.setWidth 32
      let b : BuoyId := BitVec.ofNat 7 (r.toNat / 2 ^ 26)
      let t := (s.take o.b).2
      let go (l : Level) : Result := .next (((t.takeStep t.cur (some b) (.task t.myIdx)).emit
        (.cancelAtObject ⟨s.me.part, some l, r, s.cur, s.myIdx, some (t.stepOf t.cur (some b)), true⟩)).holdIn 4 [])
      0 < (t.me.buoy b).val →
      exec (.cancelLaunch o) s = go .launch ∧ exec (.cancelGraph o) s = go .graph ∧ exec (.cancelPhase o) s = go .phase
        ∧ exec (.cancelJob o) s = go .job)
    ∧ (∀ o : SpaceOp, s.me.hold = none → s.guardOn o.q = true →
      let b : BuoyId := BitVec.ofNat 7 (s.home s.me.part s.myEnt.sid (field (s.g o.b) 0 56))
      let c := s.g o.c
      let d := s.g o.d
      let y : Option Sys2Proof.Step := some (s.stepOf s.cur (some b))
      let ask (e : Event) : Result := .next (((s.takeStep s.cur (some b) (.space s.myIdx (.held s.myIdx) (s.g o.b))).emit e).holdIn 4 [])
      let req (grant : Bool) : MapReq := ⟨s.who, grant, (s.g o.b).setWidth 56, c.setWidth 56, BitVec.ofNat 12 (field d 52 12), BitVec.ofNat 4 (field d 48 4),
        BitVec.ofNat 3 (field d 45 3), field d 0 32, 0, none, field d 32 13 != 0, y, .held s.myIdx⟩
      0 < (s.me.buoy b).val →
      exec (.map o) s = ask (.mapAtHome (req false)) ∧ exec (.grant o) s = ask (.mapAtHome (req true))
        ∧ exec (.unmap o) s = ask (.unmapAtCoordinator ⟨s.who, (s.g o.b).setWidth 56, c.getLsbD 63, field c 0 32, d.setWidth 32, field c 32 31 != 0, y,
          .held s.myIdx⟩))
    ∧ ∀ o : SpqryOp, s.me.hold = none → s.guardOn o.q = true →
      let b : BuoyId := BitVec.ofNat 7 (s.home s.me.part s.myEnt.sid (field (s.g o.b) 0 56))
      (∀ v : Word, (o.c = .imm v ∨ ∃ r, o.c = .reg r ∧ field (s.g r) 0 3 ≤ 1 ∧ v = BitVec.ofNat 64 (field (s.g r) 0 3)) → 0 < (s.me.buoy b).val →
        exec (.spqry o) s = .next (((s.takeStep s.cur (some b) (.space s.myIdx (.held s.myIdx) (s.g o.b))).emit
          (.spqryAtHome ⟨s.who, (s.g o.b).setWidth 56, v.setWidth 1, some (s.stepOf s.cur (some b)), .held s.myIdx⟩)).holdIn 4 []))
      ∧ ∀ r : GReg, o.c = .reg r → 1 < field (s.g r) 0 3 → exec (.spqry o) s = .next (s.faultAll cIllegalOp 0 (s.me.pc.setWidth 64))

/-- The homes translate: a miss is answered from its record and its core noted as a holder, or with NOT_MAPPED; a late-translated request goes on to
what it reaches with the record's key and one more in flight, or is refused; its landing takes the count back; a query answers with the record's
fields (spec/09, spec/18, R182, R183, R186, R389). Host-assisted service: the kernel lets a held access translate again, answers it itself, or fails
it with the code of its record; the access is held no more (spec/09, spec/10, R189, R200, R201). Completes: lateRequestAtHome, landedNotice,
translationMiss, spqryAtHome, serviceRetry, serviceFail, serviceTranslationAnswer. Where the spec leaves a point open, the clauses rest on the
model's choices of log entry 39. -/
def Obligations.HomesTranslateForwardAndAnswerHeldAccesses : Prop :=
  (∀ s : State,
    (∀ m : MissReq, s.ev = some (.translationMiss m) →
      let home := s.home m.who.pid m.who.sid (ptrVa m.fptr)
      s.sliceOwner home = some m.who.pid → s.mode m.who.pid 0 = false → s.mode m.who.pid 1 = false →
      (∀ (i : Nat) (d : DRec) (x : Space), s.recFind home m.who.sid (ptrVa m.fptr) = some (i, d) → d.wd = false →
        Tab.find s.spaces m.who.sid.toNat = some x →
        ∃ t, exec .translationMiss s = .next t ∧ t.mem = s.mem
          ∧ sentReply s t [] m.who.core m.ret (.xlate ⟨true, d.psz, d.rts, d.det, d.key, d.loge, d.logr, d.sid, d.vpn, d.ppn⟩) m.buoy
          ∧ ∃ y, Tab.find t.spaces m.who.sid.toNat = some y ∧ m.who.core.toNat ∈ y.hold)
      ∧ (s.recFind home m.who.sid (ptrVa m.fptr) = none →
        ∃ t, exec .translationMiss s = .next t ∧ t.mem = s.mem ∧ sentReply s t [] m.who.core m.ret (.fault cNotMapped m.fptr) m.buoy))
    ∧ (∀ r : MemReq, s.ev = some (.lateRequestAtHome r) →
      let va := ptrVa r.fptr
      let home := s.home r.who.pid r.who.sid va
      s.sliceOwner home = some r.who.pid → s.mode r.who.pid 1 = false →
      (∀ (i : Nat) (d : DRec), s.recFind home r.who.sid va = some (i, d) → d.wd = false → d.rts.getLsbD 2 = true →
        let pa : PA := BitVec.ofNat 56 (d.ppn.toNat * 4096 + va % 2 ^ pageShift d.psz)
        paRegion pa.toNat = 0 →
        ∃ t, exec .lateRequestAtHome s = .next t ∧ t.mem = s.mem ∧ Tab.find t.recs i = some { d with infl := d.infl + 1 }
          ∧ t.net = s.net ++ [.bankRequest
            { r with pa := pa, key := d.key, det := d.det && isDetOp r.op, rref := some (BitVec.ofNat 21 i) }])
      ∧ (∀ (i : Nat) (d : DRec), s.recFind home r.who.sid va = some (i, d) → d.wd = false → d.rts.getLsbD 2 = false →
        ∃ t, exec .lateRequestAtHome s = .next t ∧ t.mem = s.mem ∧ t.recs = s.recs ∧ sentReply s t [] r.who.core r.ret (.fault cNoRight r.fptr) r.buoy))
    ∧ (∀ (sl : SliceId) (r : RecRef) (d : DRec), s.ev = some (.landedNotice sl r) → s.recAt r = some d →
      exec .landedNotice s = .next { s with recs := Tab.set s.recs r.toNat { d with infl := d.infl - 1 } })
    ∧ ∀ m : SpqryReq, s.ev = some (.spqryAtHome m) →
      let home := s.home m.who.pid m.who.sid m.va.toNat
      s.sliceOwner home = some m.who.pid →
      ∃ t, exec .spqryAtHome s = .next t ∧ t.mem = s.mem ∧ sentReply s t [] m.who.core m.ret (.status (
        match s.recFind home m.who.sid m.va.toNat with
        | none => BitVec.ofNat 64 (18 * 2 ^ 56)
        | some (_, d) =>
          if d.wd then BitVec.ofNat 64 (12 * 2 ^ 56)
          else if m.sel = 1 then BitVec.ofNat 64 (d.vpn.toNat * 4096)
          else BitVec.ofNat 64 (d.psz.toNat * 2 ^ 53 + d.rts.toNat * 2 ^ 49 + (if d.det then 2 ^ 48 else 0) + d.key.toNat * 2 ^ 42
            + (if d.loge then 2 ^ 41 else 0) + d.logr.toNat * 2 ^ 36 + d.dep.toNat * 2 ^ 32))) m.buoy)
  ∧ (∀ (s : State) (sl : SliceId) (i : Byte) (n : Nat) (k : SfRec),
    let freed (t : State) : Prop := t.mem = s.mem ∧ ∀ x ∈ (t.slice sl.toNat).holdb, x.1 ≠ n
    (∀ m : MissReq, s.heldWith sl i = some (n, k, .translationMiss m) →
      (s.ev = some (.serviceRetry sl i) → ∃ t, exec .serviceRetry s = .next t ∧ freed t ∧ t.net = .translationMiss m :: s.net)
      ∧ (s.ev = some (.serviceFail sl i) → ∃ t, exec .serviceFail s = .next t ∧ freed t
        ∧ sentReply s t [] m.who.core m.ret (.fault (if k.code = 0 then cNotMapped else k.code) m.fptr) m.buoy)
      ∧ ∀ (j : Nat) (d : DRec), s.ev = some (.serviceTranslationAnswer sl i) → s.recFind sl.toNat m.who.sid (ptrVa m.fptr) = some (j, d) → d.wd = false →
        (s.mode m.who.pid 1 = false ∨ hasRights d.rts m.need = true) →
        ∃ t, exec .serviceTranslationAnswer s = .next t ∧ freed t
          ∧ sentReply s t [] m.who.core m.ret (.xlate ⟨true, d.psz, d.rts, d.det, d.key, d.loge, d.logr, d.sid, d.vpn, d.ppn⟩) m.buoy)
    ∧ ∀ r : MemReq, s.heldWith sl i = some (n, k, .lateRequestAtHome r) →
      (s.ev = some (.serviceRetry sl i) → ∃ t, exec .serviceRetry s = .next t ∧ freed t ∧ t.net = .lateRequestAtHome r :: s.net)
      ∧ (s.ev = some (.serviceFail sl i) → ∃ t, exec .serviceFail s = .next t ∧ freed t
        ∧ sentReply s t [] r.who.core r.ret (.fault k.code r.fptr) r.buoy))

/-- MAP commits its pages one by one: a page that passes makes a child record with the rights asked for, one deeper, first in its source's list, and the
reply counts it; one that does not ends the MAP with its status. A record that arrives stands in its home and its space counts it. The service
kernel makes and removes spaces (spec/09, spec/18, R178 to R181, R184, R387). Completes: mapAtHome, mapForward, recordCreation, sidAllocation. Where
the spec leaves a point open, the clauses rest on the model's choices of log entry 40. -/
def Obligations.MapCommitsPageByPage : Prop :=
  ∀ s : State,
    (∀ (m : MapReq) (i : Nat) (d : DRec), s.ev = some (.mapAtHome m) → m.root = none → m.grant = false → m.bad = false → m.psz.toNat < 5 → m.n = 1 → m.done = 0 →
      m.sva.toNat % pageSize m.psz = 0 → s.sliceOwner (s.mapHome m) = some m.who.pid → s.mapCheck m = 0 →
      s.recFind (s.mapHome m) m.who.sid m.sva.toNat = some (i, d) → d.stub = false → i < 2 ^ 21 → s.recAt (BitVec.ofNat 21 i) = some d →
      ∃ (t : State) (ref : RecRef) (new : DRec), exec .mapAtHome s = .next t ∧ t.mem = s.mem
        ∧ sentReply s t [.recordCreation (BitVec.ofNat 6 (s.mapHome m)) ref new] m.who.core m.ret (.status 1) m.buoy
        ∧ new.sid = m.tsid ∧ new.rts = m.r ∧ new.psz = m.psz ∧ new.dep = d.dep + 1 ∧ new.par = BitVec.ofNat 21 i ∧ new.sib = d.chd ∧ new.key = d.key
        ∧ new.wd = false ∧ new.stub = false ∧ new.infl = 0 ∧ new.vpn = BitVec.ofNat 44 (m.tva.toNat / 4096)
        ∧ t.recAt (BitVec.ofNat 21 i) = some { d with chd := ref })
    ∧ (∀ m : MapReq, s.ev = some (.mapAtHome m) → m.root = none → m.bad = false → m.psz.toNat < 5 → m.n = 1 → m.done = 0 →
      m.sva.toNat % pageSize m.psz = 0 → s.sliceOwner (s.mapHome m) = some m.who.pid → s.mapCheck m ≠ 0 →
      ∃ t, exec .mapAtHome s = .next t ∧ t.mem = s.mem ∧ t.recs = s.recs
        ∧ sentReply s t [] m.who.core m.ret (.status (BitVec.ofNat 64 (s.mapCheck m * 2 ^ 56))) m.buoy)
    ∧ (∀ m : MapReq, s.ev = some (.mapForward m) → m.n = m.done + 1 →
      exec .mapForward s = .next (if s.mapCheck m = 0 then (s.mapCommit m).mapReply (s.mapHome m) { m with done := m.done + 1 } 0
        else s.mapReply (s.mapHome m) m (s.mapCheck m)))
    ∧ (∀ (src : SliceId) (ref : RecRef) (d : DRec) (x : Space), s.ev = some (.recordCreation src ref d) → Tab.find s.spaces d.sid.toNat = some x →
      (∀ h ∈ s.homesOf x.pid d.sid (recBase d) (pageSize d.psz), h = recSlice ref) →
      exec .recordCreation s = .next { s with
        recs := Tab.set s.recs ref.toNat d
        spaces := Tab.set s.spaces d.sid.toNat { x with count := x.count + 1 } })
    ∧ (∀ (src : SliceId) (ref : RecRef) (d : DRec) (x : Space), s.ev = some (.recordCreation src ref d) → Tab.find s.spaces d.sid.toNat = some x →
      let others := (s.placesOf x.pid d).filter (· != recSlice ref)
      ∃ t, exec .recordCreation s = .next t ∧ t.mem = s.mem ∧ t.net = s.net
        ∧ Tab.find t.spaces d.sid.toNat = some { x with count := x.count + 1 + others.length }
        ∧ (others ≠ [] → ∃ y ∈ t.recs, y.2 = { d with stub := true, par := ref, chd := noRec, sib := noRec }))
    ∧ (∀ m : MapReq, s.ev = some (.mapAtHome m) → s.sliceOwner (s.mapHome m) = some m.who.pid → m.root = none →
      ((m.bad = true ∨ 5 ≤ m.psz.toNat ∨ m.n = 0 ∨ 256 < m.n) → exec .mapAtHome s = .next (s.mapReply (s.mapHome m) m 2))
      ∧ (m.bad = false → m.psz.toNat < 5 → 1 ≤ m.n → m.n ≤ 256 →
        (m.sva.toNat % pageSize m.psz ≠ 0 → exec .mapAtHome s = .next (s.mapReply (s.mapHome m) m 3))
        ∧ (m.sva.toNat % pageSize m.psz = 0 → exec .mapAtHome s = .next (s.mapPages (s.mapHome m) m (m.n - m.done)))))
    ∧ (∀ m : MapReq, s.ev = some (.mapForward m) → exec .mapForward s = .next (s.mapPages (s.mapHome m) m (m.n - m.done)))
    ∧ (∀ (home : Nat) (m : MapReq) (n : Nat), s.mapPages home m 0 = s.mapReply home m 0
      ∧ (s.mapHome m ≠ home → s.mapPages home m (n + 1) = s.emit (.mapForward m))
      ∧ (s.mapHome m = home → s.mapCheck m ≠ 0 → s.mapPages home m (n + 1) = s.mapReply home m (s.mapCheck m))
      ∧ (s.mapHome m = home → s.mapCheck m = 0 → s.mapPages home m (n + 1) = (s.mapCommit m).mapPages home { m with done := m.done + 1 } n))
    ∧ (∀ (m : MapReq) (i : Nat) (d : DRec), m.root = none → m.grant = true → s.recFind (s.mapHome m) m.who.sid (m.sva.toNat + m.done * pageSize m.psz) = some (i, d) →
      d.stub = false → i < 2 ^ 21 → s.recAt (BitVec.ofNat 21 i) = some d →
      let t := s.mapCommit m
      (∃ (ref : RecRef) (new : DRec), .recordCreation (BitVec.ofNat 6 (s.mapHome m)) ref new ∈ t.net ∧ new.sid = m.tsid ∧ new.rts = m.r ∧ new.wd = false
        ∧ new.infl = 0 ∧ new.vpn = BitVec.ofNat 44 ((m.tva.toNat + m.done * pageSize m.psz) / 4096) ∧ new.ppn = d.ppn ∧ new.key = d.key ∧ new.dep = d.dep
        ∧ new.par = d.par ∧ new.chd = d.chd ∧ new.sib = d.sib)
      ∧ t.recAt (BitVec.ofNat 21 i) = some { d with par := noRec, chd := noRec, sib := noRec, wd := true })
    ∧ ∀ (p : Pid) (sid : Sid), sid ≠ 0 →
      (s.ev = some (.sidAllocation p sid true) → Tab.find s.spaces sid.toNat = none →
        exec .sidAllocation s = .next { s with spaces := Tab.set s.spaces sid.toNat ⟨p, 0, []⟩ })
      ∧ (s.ev = some (.sidAllocation p sid false) → exec .sidAllocation s = .next { s with spaces := Tab.del s.spaces sid.toNat })

/-- UNMAP and withdrawal: the coordinator answers at once and sends one part to every home; a record is marked and its children are asked, one that
another walk has marked is acknowledged once that walk is done; a home acknowledges when its children have; when all have, every holder of their
spaces is sent a shootdown, its ATC entries of the page go, and the records are removed and unlinked; the last part posts the completion DECR
(spec/09, spec/18, R184, R185, R388). Completes: unmapAtCoordinator, unmapPart, withdrawMessage, withdrawAck, shootdown, shootdownAck,
recordRemoval, withdrawCompletionPost. Where the spec leaves a point open, the clauses rest on the model's choices of log entry 52. -/
def Obligations.WithdrawalMarksShootsAndRemoves : Prop :=
  ∀ s : State,
    (∀ u : UnmapReq, s.ev = some (.unmapAtCoordinator u) → s.sliceOwner (s.home u.who.pid u.who.sid u.start.toNat) = some u.who.pid →
      let first := u.start.toNat / 2 ^ 21
      let last := (u.start.toNat + 4096 * u.len - 1) / 2 ^ 21
      let parts : List SliceId :=
        (((List.range (last - first + 1)).map fun i => s.home u.who.pid u.who.sid ((first + i) * 2 ^ 21)).eraseDups).map (BitVec.ofNat 6)
      (unmapCheck u = 0 → ∃ t, exec .unmapAtCoordinator s = .next t ∧ t.mem = s.mem ∧ t.recs = s.recs
        ∧ t.unmaps = s.unmaps ++ [⟨s.names, u, parts⟩]
        ∧ sentReply s t (parts.map fun x => .unmapPart s.names x) u.who.core u.ret (.status 0) u.buoy)
      ∧ (unmapCheck u ≠ 0 → ∃ t, exec .unmapAtCoordinator s = .next t ∧ t.mem = s.mem ∧ t.recs = s.recs ∧ t.unmaps = s.unmaps
        ∧ sentReply s t [] u.who.core u.ret (.status (BitVec.ofNat 64 (unmapCheck u * 2 ^ 56))) u.buoy))
    ∧ (∀ (id : Nat) (sl : SliceId) (u : Unmap), s.ev = some (.unmapPart id sl) → (s.unmaps.find? fun u => u.id == id) = some u →
      s.mode u.req.who.pid 2 = false →
      exec .unmapPart s = .next (s.unmapWalk id sl u.req)
        ∧ (s.unmapRoots sl.toNat u.req = [] → exec .unmapPart s = .next (s.emit (.withdrawCompletionPost id sl))))
    ∧ (∀ (id : Nat) (r : RecRef), s.ev = some (.withdrawMessage id r) →
      (s.recAt r = none → exec .withdrawMessage s = .next (s.emit (.withdrawAck id r)))
      ∧ (∀ d : DRec, s.recAt r = some d → d.wd = false →
        ∃ t, exec .withdrawMessage s = .next t ∧ t.mem = s.mem ∧ t.recAt r = some { d with wd := true }
          ∧ t.net = s.net ++ (if s.kidsOf r = [] then [.withdrawAck id r] else (s.kidsOf r).map (.withdrawMessage id))
          ∧ ∀ w ∈ s.wds, w.id = id → { w with recs := w.recs ++ [r], owed := w.owed ++ (s.kidsOf r).map (·, r) } ∈ t.wds)
      ∧ ∀ d : DRec, s.recAt r = some d → d.wd = true →
        ∃ t, exec .withdrawMessage s = .next t ∧ t.mem = s.mem ∧ t.recs = s.recs
          ∧ t.net = s.net ++ [if s.walkOpen r then .withdrawMessage id r else .withdrawAck id r])
    ∧ (∀ (id : Nat) (r p : RecRef) (w : Withdraw), s.ev = some (.withdrawAck id r) → (s.wds.find? fun w => w.id == id) = some w →
      (w.owed.find? fun x => x.1 == r) = some (r, p) →
      let left := w.owed.erase (r, p)
      ∃ t, exec .withdrawAck s = .next t ∧ t.mem = s.mem ∧ t.recs = s.recs ∧ (∃ y ∈ t.wds, y.id = id ∧ y.owed = left)
        ∧ ((∀ x ∈ left, x.2 ≠ p) → (∃ x ∈ left, x.1 = p) → t.net = s.net ++ [.withdrawAck id p])
        ∧ (left ≠ [] → ((∃ x ∈ left, x.2 = p) ∨ ∀ x ∈ left, x.1 ≠ p) → t.net = s.net)
        ∧ (left = [] → ∃ cores : List Nat, cores.Nodup
          ∧ (∀ n, n ∈ cores ↔ ∃ q ∈ w.recs, ∃ (d : DRec) (x : Space), s.recAt q = some d ∧ Tab.find s.spaces d.sid.toNat = some x ∧ n ∈ x.hold)
          ∧ t.net = s.net ++ (if cores = [] then [.recordRemoval id]
            else cores.map fun n => .shootdown (BitVec.ofNat 11 n) id (BitVec.ofNat 56 w.lo) (BitVec.ofNat 56 w.hi))))
    ∧ (∀ (c : CoreId) (id : Nat) (lo hi : PA), s.ev = some (.shootdown c id lo hi) →
      ∃ t, exec .shootdown s = .next t ∧ t.mem = s.mem ∧ t.net = s.net ++ [.shootdownAck c id]
        ∧ ∀ e, e ∈ (t.core c).atc ↔ e ∈ (s.core c).atc ∧
          ¬(e.ppn.toNat * 4096 < lo.toNat + (hi.toNat - lo.toNat) ∧ lo.toNat < e.ppn.toNat * 4096 + 2 ^ pageShift e.psz))
    ∧ (∀ (c : CoreId) (id : Nat) (w : Withdraw), s.ev = some (.shootdownAck c id) → (s.wds.find? fun w => w.id == id) = some w →
      w.shoot = [c.toNat] → ∃ t, exec .shootdownAck s = .next t ∧ t.mem = s.mem ∧ t.net = s.net ++ [.recordRemoval id])
    ∧ (∀ (c : CoreId) (id : Nat) (w : Withdraw), s.ev = some (.shootdownAck c id) → (s.wds.find? fun w => w.id == id) = some w →
      let left := w.shoot.filter (· != c.toNat)
      ∃ t, exec .shootdownAck s = .next t ∧ t.mem = s.mem ∧ t.recs = s.recs ∧ t.net = s.net ++ (if left = [] then [.recordRemoval id] else [])
        ∧ (∀ x ∈ t.wds, x.id = id → x.shoot = left)
        ∧ ∀ r ∈ w.recs, ∀ d : DRec, s.recAt r = some d → (∀ e ∈ (s.core c).ents, e.2.v = true → e.2.sid ≠ d.sid) →
          ∀ y, Tab.find t.spaces d.sid.toNat = some y → c.toNat ∉ y.hold)
    ∧ (∀ (id : Nat) (w : Withdraw), s.ev = some (.recordRemoval id) → (s.wds.find? fun w => w.id == id) = some w →
      (s.removable w = false → exec .recordRemoval s = .next (s.emit (.recordRemoval id)))
      ∧ (s.removable w = true → let u := w.recs.foldl (fun (t : State) r => t.removeRec r) s
        let v := { u with wds := u.wds.filter fun x => x.id != id }
        exec .recordRemoval s = .next (match w.part with
          | some (uid, sl) => if ∃ x ∈ v.wds, x.part = w.part then v else v.emit (.withdrawCompletionPost uid sl)
          | none => v)))
    ∧ (∀ (id : Nat) (w : Withdraw) (r : RecRef) (d : DRec), s.ev = some (.recordRemoval id) → (s.wds.find? fun w => w.id == id) = some w →
      s.removable w = true → w.recs = [r] → s.recAt r = some d →
      let unlink (e : Event) : Event := match e with
        | .recordCreation z x y => .recordCreation z x (if y.stub then y else
          { y with chd := if y.chd = r then d.sib else y.chd, sib := if y.sib = r then d.sib else y.sib })
        | e => e
      ∃ t, exec .recordRemoval s = .next t ∧ t.mem = s.mem ∧ t.recAt r = none ∧ (∀ x ∈ t.wds, x.id ≠ id)
        ∧ (w.part = none → t.net = s.net.map unlink)
        ∧ ∀ (uid : Nat) (sl : SliceId), w.part = some (uid, sl) → (∀ x ∈ s.wds, x.id ≠ id → x.part ≠ w.part) →
          t.net = s.net.map unlink ++ [.withdrawCompletionPost uid sl])
    ∧ (∀ (id : Nat) (sl : SliceId) (u : Unmap), s.ev = some (.withdrawCompletionPost id sl) → (s.unmaps.find? fun u => u.id == id) = some u →
      u.parts.erase sl ≠ [] → exec .withdrawCompletionPost s = .next { s with unmaps := s.unmaps.map fun (x : Unmap) =>
        if x.id = id then { x with parts := u.parts.erase sl } else x })
    ∧ ∀ (id : Nat) (sl : SliceId) (u : Unmap), s.ev = some (.withdrawCompletionPost id sl) → (s.unmaps.find? fun u => u.id == id) = some u →
      u.parts = [sl] →
      ∃ t, exec .withdrawCompletionPost s = .next t ∧ t.mem = s.mem ∧ (∀ x ∈ t.unmaps, x.id ≠ id)
        ∧ t.net = s.net ++ (if u.req.dref = 0xFFFFFFFF then [] else
          [.decrApply u.req.who.pid (BitVec.ofNat 11 (u.req.dref.toNat / 2 ^ 16)) (BitVec.ofNat 6 (u.req.dref.toNat / 2 ^ 10)) 1 none])

/-- Counts and closes: a start, a completion, a waiting report, a close report and a fault mark update their object; a close at a bank that holds
nothing of the launch is acknowledged at once; the last acknowledgment opens the next quantum, or ends the launch; its notice moves the quantum
number of the launch's entries; a member asleep at an overflow takes QUANTUM_OVERFLOW (spec/10, spec/11, spec/14, spec/19, R206, R208, R212, R289,
R396, R447). An object completes: its status follows a cancel or a fault of a member, a member posts its completion to its parent behind its start,
and a launch that is complete closes its last quantum at every bank of its partition first (spec/11, spec/14, R212, R289). Completes: closeReport,
closeAtBank, closeAck, closeNotice, waitingReport, quantumOverflowNotice, faultMark, memberStartPost, completionPost. Where the spec leaves a point
open, the clauses rest on the model's choices of log entry 42. -/
def Obligations.CountsClosesAndCompletionsFollowTheirReports : Prop :=
  (∀ (s : State) (l : ObjRef), (s.obj l).v = true →
    let o := s.obj l
    (∀ src : Option CoreId, s.ev = some (.memberStartPost l src) → o.posted = true →
      exec .memberStartPost s = .next ((s.modObj l fun o => { o with run := o.run + 1 }).objTest l))
    ∧ (∀ src : Option CoreId, s.ev = some (.memberStartPost l src) → o.posted = false → o.par ≠ 0xFFFFFFFF → o.lvl ≠ 0 → o.fin ≠ o.exp →
      ∃ t, exec .memberStartPost s = .next t ∧ t.mem = s.mem ∧ t.obj l = { o with run := o.run + 1, posted := true }
        ∧ t.net = s.net ++ [.memberStartPost o.par none])
    ∧ (∀ st : MStat, s.ev = some (.completionPost l st none) → s.sliceOwner (objSlice l) = some o.pid → o.over = false → o.fin < o.exp →
      exec .completionPost s = .next
        (((s.modObj l fun o => { o with run := o.run - 1, fin := o.fin + 1, flt := o.flt || st == .fault }).objTest l).overTest l))
    ∧ (∀ (st : MStat) (c : CoreId) (b : Sys2Proof.Step), s.ev = some (.completionPost l st (some (c, b))) →
      s.sliceOwner (objSlice l) = some (s.core c).part → o.over = false → o.fin < o.exp →
      exec .completionPost s = .next (((((s.taskReply c .step (some b) l .ok).modObj l fun o =>
        { o with run := o.run - 1, fin := o.fin + 1, flt := o.flt || st == .fault }).objTest l).overTest l)))
    ∧ (s.ev = some (.faultMark l) → exec .faultMark s = .next (s.modObj l fun o => { o with flt := true }))
    ∧ (∀ (c : CoreId) (w m : Option Bool), s.ev = some (.waitingReport c l w m) →
      let wait := if w = some true then o.wait + 1 else if w = some false then o.wait - 1 else o.wait
      let hm := if m = some true then o.hm + 1 else if m = some false then o.hm - 1 else o.hm
      let t := s.modObj l fun o => { o with wait := wait, hm := hm }
      ((o.lvl ≠ 0 ∨ hm = 0 ∨ wait ≠ o.run) → exec .waitingReport s = .next t)
      ∧ (o.lvl = 0 → o.over = false → hm ≠ 0 → wait = o.run →
        ∃ u, exec .waitingReport s = .next u ∧ u.mem = s.mem ∧ u.obj l = { o with wait := wait, hm := hm, cl := false, ncl := 0, nx := 0 }
          ∧ u.qbuf = s.qbuf.filter (fun e => e.lref != l)
          ∧ ∀ c ∈ s.partCores o.pid, .quantumOverflowNotice (BitVec.ofNat 11 c) l o.q ∈ u.net))
    ∧ (∀ c : CoreId, s.ev = some (.closeReport c l) → o.cl = true → exec .closeReport s = .next (s.modObj l fun o => { o with nx := o.nx + 1 }))
    ∧ (∀ c : CoreId, s.ev = some (.closeReport c l) → o.cl = false →
      exec .closeReport s = .next ((s.modObj l fun o => { o with ncl := o.ncl + 1 }).objTest l))
    ∧ (∀ (b : BitVec 10) (q : BitVec 2) (last : Bool), s.ev = some (.closeAtBank b l q last) → (∀ e ∈ s.qbuf, e.lref ≠ l) →
      (∀ x ∈ s.refused, x.1 ≠ b.toNat) → s.detMarked l q last = false → exec .closeAtBank s = .next (s.emit (.closeAck b l last)))
    ∧ (∀ (b : BitVec 10) (q : BitVec 2) (last : Bool), s.ev = some (.closeAtBank b l q last) →
      (∀ x ∈ s.refused, x.1 ≠ b.toNat) → s.detMarked l q last = false →
      (∀ e : QEnt, s.closing b l q last = [e] → s.commitWaits e (.closeAtBank b l q last) = none →
        let t := ({ s with qbuf := s.qbuf.erase e } : State).commit e
        t.refused = s.refused → t.detMarked l q last = false → exec .closeAtBank s = .next (t.emit (.closeAck b l last)))
      ∧ ∀ (e e' : QEnt), s.closing b l q last = [e, e'] → s.commitWaits e (.closeAtBank b l q last) = none →
        let t := ({ s with qbuf := s.qbuf.erase e } : State).commit e
        t.commitWaits e' (.closeAtBank b l q last) = none →
        let u := ({ t with qbuf := t.qbuf.erase e' } : State).commit e'
        u.refused = s.refused → u.detMarked l q last = false → exec .closeAtBank s = .next (u.emit (.closeAck b l last)))
    ∧ (∀ (b : BitVec 10) (q : BitVec 2) (last : Bool), let ev := Event.closeAtBank b l q last
      s.ev = some ev →
      (∀ t, s.commitAll ev (s.closing b l q last) = (false, t) → exec .closeAtBank s = .next t)
      ∧ (∀ t, s.commitAll ev (s.closing b l q last) = (true, t) →
        let cores := ((t.refused.filter fun x => x.1 == b.toNat).map (·.2)).eraseDups
        let u := ({ t with refused := t.refused.filter fun x => x.1 != b.toNat } : State).emits (cores.map fun c => .roomNotice (BitVec.ofNat 11 c) b)
        exec .closeAtBank s = .next (u.emit (if u.detMarked l q last = true then ev else .closeAck b l last)))
      ∧ s.commitAll ev [] = (true, s)
      ∧ ∀ (e : QEnt) (rest : List QEnt), (∀ t, s.commitWaits e ev = some t → s.commitAll ev (e :: rest) = (false, t))
        ∧ (s.commitWaits e ev = none → s.commitAll ev (e :: rest) = (({ s with qbuf := s.qbuf.erase e } : State).commit e).commitAll ev rest))
    ∧ (∀ (b : BitVec 10) (q : BitVec 2), (∀ e, e ∈ s.closing b l q false ↔ e ∈ s.qbuf ∧ e.bank = b ∧ e.lref = l ∧ e.q = q)
      ∧ ((∀ e ∈ s.qbuf, ∀ e' ∈ s.qbuf, e.core = e'.core → e ≠ e' → (seqLt e.seq e'.seq = true ∨ seqLt e'.seq e.seq = true)
            ∧ ∀ x ∈ s.qbuf, e'.core = x.core → seqLt e.seq e'.seq = true → seqLt e'.seq x.seq = true → seqLt e.seq x.seq = true) →
          (s.closing b l q false).Pairwise fun e e' => e = e' ∨ e.core.toNat < e'.core.toNat ∨ e.core = e'.core ∧ seqLt e.seq e'.seq = true)
      ∧ s.closing b l q true = s.closing b l q false ++ s.closing b l (q + 1) false ++ s.closing b l (q + 2) false ++ s.closing b l (q + 3) false)
    ∧ (∀ (e : QEnt) (x : CLine), e.lref = l → e.op = 0 → s.paBad e.pa.toNat = false → s.isLost e.pa.toNat = false → s.keyOk e.key e.pid = true →
      s.cached (s.homePlace e.pid e.pa.toNat) = some x → x.chk = lineCheck x.data → x.poi = 0 → x.key = e.key → e.pa.toNat % 8 = 0 →
      let off := e.pa.toNat % 64
      let d := lineMk fun i => if off ≤ i ∧ i < off + 8 ∧ e.bmask.getLsbD (i - off) = true then e.data.extractLsb' (8 * (i - off)) 8 else lineByte x.data i
      s.commit e = s.installLine { x with data := d, dirty := true, chk := lineCheck d })
    ∧ (∀ (b : BitVec 10) (last : Bool), s.ev = some (.closeAck b l last) →
      (1 < o.acks → (last = true ∧ o.last = true ∨ last = false ∧ o.cl = true) →
        exec .closeAck s = .next (s.modObj l fun o => { o with acks := o.acks - 1 }))
      ∧ (o.acks = 1 → last = true → o.last = true → exec .closeAck s = .next ((s.modObj l fun o => { o with acks := 0 }).objDone l))
      ∧ (o.acks = 1 → last = false → o.cl = true →
        ∃ t : State, exec .closeAck s = .next (t.objTest l) ∧ t.mem = s.mem
          ∧ t.obj l = { o with acks := 0, q := o.q + 1, ncl := o.nx, nx := 0, cl := false }
          ∧ t.net = s.net ++ (s.partCores o.pid).map fun c => .closeNotice (BitVec.ofNat 11 c) l o.q))
    ∧ (∀ (c : CoreId) (q : BitVec 32), s.ev = some (.closeNotice c l q) → (∀ h, (s.ent c h).bar.bw = false) →
      ∃ t, exec .closeNotice s = .next t ∧ t.mem = s.mem ∧ t.net = s.net
        ∧ ∀ h, (t.ent c h).qnum = (if (s.ent c h).v = true ∧ (s.ent c h).lref = l then q + 1 else (s.ent c h).qnum)
          ∧ (t.ent c h).bar.qd = ((s.ent c h).bar.qd || ((s.ent c h).v && (s.ent c h).lref == l && (s.ent c h).bar.qn == q.setWidth 2)))
    ∧ (∀ (c : CoreId) (q : BitVec 32), s.ev = some (.closeNotice c l q) → ∃ t, exec .closeNotice s = .next t
      ∧ ∀ h, (s.ent c h).v = true → (s.ent c h).lref = l → (t.ent c h).qnum = q + 1)
    ∧ (∀ (c : CoreId) (q : BitVec 32), s.ev = some (.quantumOverflowNotice c l q) → ∃ t, exec .quantumOverflowNotice s = .next t
      ∧ (∀ x ∈ (t.core c).srb, x.req.who.lref = l → x.marked = false) ∧ (∀ r ∈ (t.core c).emark, r.who.lref ≠ l)
      ∧ (∀ x ∈ (s.core c).srb, x.marked = true → x.req.who.lref = l → .memrepReceive ⟨c, x.req.ret, .ok, x.req.buoy, false⟩ ∈ t.net)
      ∧ (∀ r ∈ (s.core c).emark, r.who.lref = l → .memrepReceive ⟨c, r.ret, .ok, r.buoy, false⟩ ∈ t.net)
      ∧ ∀ h, (s.ent c h).v = true → (s.ent c h).lref = l → (∀ x, (s.ent c x).gang = none) → (s.ent c h).overNow = false → (s.ent c h).st ≠ 5 → (s.ent c h).st ≠ 6 →
        (t.ent c h).qover = some q)
    ∧ ∀ (c : CoreId) (q : BitVec 32) (h : Hidx), s.ev = some (.quantumOverflowNotice c l q) → (s.ent c h).v = true → (s.ent c h).lref = l →
      (∀ x, (s.ent c x).v = true → (s.ent c x).lref = l → x = h) → (s.ent c h).st = 3 → (s.ent c h).gang = none →
      (s.ws c (s.ent c h).wpb offFstat).getLsbD 63 = false → (s.core c).srb = [] → (s.core c).emark = [] → (s.core c).loads = [] → (s.core c).late = [] →
      ∃ t, exec .quantumOverflowNotice s = .next t ∧ (t.ent c h).st = 1
        ∧ (let w := t.ws c (s.ent c h).wpb offFstat
          w.getLsbD 63 = true ∧ field w 40 16 = 25 ∧ field w 0 32 = q.toNat)
        ∧ t.ws c (s.ent c h).wpb 0 = (s.ent c h).fvec.setWidth 64)
  ∧ (∀ (s : State) (l : ObjRef),
    let o := s.obj l
    (o.v = true → o.over = false → o.cl = false → o.last = false → o.fin = o.exp →
      (o.lvl ≠ 0 → s.objTest l = s.objDone l)
      ∧ (o.lvl = 0 → ∃ t : State, s.objTest l = t ∧ t.obj l = { o with last := true, acks := (s.partBanks o.pid).length }
        ∧ t.net = s.net ++ (s.partBanks o.pid).map fun b => .closeAtBank (BitVec.ofNat 10 b) l (o.q.setWidth 2) true))
    ∧ (o.v = true → o.over = false → o.cl = false → o.last = false → o.fin ≠ o.exp → (o.lvl ≠ 0 ∨ o.ncl = 0 ∨ o.ncl ≠ o.run) → s.objTest l = s)
    ∧ (o.lvl ≠ 2 → o.lvl ≠ 0 → o.par ≠ 0xFFFFFFFF → o.par ≠ l →
      let st : MStat := if o.st = 4 then .cancelled else if o.flt then .fault else .done
      ∃ t : State, s.objDone l = t
        ∧ t.obj l = { o with st := (match st with | .done => 1 | .fault => 2 | .cancelled => 3), time := s.time, last := false, posted := true }
        ∧ t.net = s.net ++ (if o.posted then [] else [.memberStartPost o.par none]) ++ [.completionPost o.par st none, .placement o.pid]))

/-- Objects and launches are made: a launch message that passes R308 makes its object under its graph, joins its queue and is answered with the object;
one that does not is answered with its code; a window write becomes such a message; a creation write or the kernel makes a job (spec/01, spec/10,
spec/11, spec/15, R40, R41, R203, R214, R308, R309). Completes: launchMessageAtHome, hostLaunchWrite, hostCreationWrite, kernelObjectCreation. Where
the spec leaves a point open, the clauses rest on the model's choices of log entries 43, 46, 60. -/
def Obligations.LaunchesAndObjectsAreMade : Prop :=
  ∀ s : State,
    (∀ (m : LaunchReq) (l : ObjRef), s.ev = some (.launchMessageAtHome m) → m.issuer = .core →
      let par : ObjRef := BitVec.ofNat 32 (field (lineWord m.msg 4) 32 32)
      let q := m.queue.toNat
      let w5 := lineWord m.msg 5
      s.sliceOwner (s.queueHome m.pid q) = some m.pid → s.scrubbing m.pid = false →
      (s.msgBad m.pid m.msg m.priv = false → field (lineWord m.msg 2) 30 12 = 0 → par ≠ 0xFFFFFFFF → (s.obj par).v = true → (s.obj par).lvl = 1 →
        (s.obj par).pid = m.pid → (s.obj par).st = 0 → (s.lq m.pid q).msgs.length < 64 → s.newObj (s.queueHome m.pid q) = some l →
        ∃ t, exec .launchMessageAtHome s = .next t ∧ t.mem = s.mem
          ∧ t.obj l = { Obj.reset with
            v := true, pid := m.pid, exp := msgTasks m.msg, par := par, dref := BitVec.ofNat 32 (field w5 0 32)
            dd := BitVec.ofNat 32 (field w5 32 32), queue := m.queue }
          ∧ (t.obj par).mems = (s.obj par).mems ++ [l]
          ∧ (t.lq m.pid q).msgs = (s.lq m.pid q).msgs ++ [⟨m.msg, l, m.sid, 0⟩]
          ∧ ∃ mk : Bool, t.net = s.net ++ [.memrepReceive ⟨m.core, .held m.hidx, .status (l.setWidth 64), m.buoy, mk⟩, .placement m.pid])
      ∧ (s.msgBad m.pid m.msg m.priv = true → ∃ t, exec .launchMessageAtHome s = .next t ∧ t.mem = s.mem ∧ t.objs = s.objs ∧ t.lqs = s.lqs
        ∧ sentReply s t [] m.core (.held m.hidx) (.status (BitVec.ofNat 64 (2 * 2 ^ 56))) m.buoy))
    ∧ (∀ (h : BitVec 1) (pf : Bool) (p : Pid) (q : BitVec 3) (whole : Bool) (m : Line), s.ev = some (.hostLaunchWrite h pf p q whole m) →
      let f := Tab.get Fn.reset s.fns (32 * h.toNat + p.toNat + 1)
      ((pf = true ∨ f.st = 2) → whole = true → field (lineWord m 1) 33 3 = q.toNat →
        exec .hostLaunchWrite s = .next (s.emit (.launchMessageAtHome ⟨p, q, m, 0, 0xFFFFFFFF, true, .host h, 0, 0, none⟩)))
      ∧ ((pf = true ∨ f.st = 2) → (whole = false ∨ field (lineWord m 1) 33 3 ≠ q.toNat) →
        ∃ t, exec .hostLaunchWrite s = .next t ∧ t.mem = s.mem ∧ t.net = s.net ∧ Tab.get 0 (t.win p).code q.toNat = 2
          ∧ Tab.get 0 (t.win p).refused q.toNat = Tab.get 0 (s.win p).refused q.toNat + 1
          ∧ t.out = s.out ++ if whole then [] else [.hostLaunchWrite h pf p q whole m])
      ∧ (pf = false → f.st ≠ 2 → exec .hostLaunchWrite s = .next
          (if f.st = 3 then { s with out := s.out ++ [.completerAbort ⟨h, BitVec.ofNat 5 (p.toNat + 1)⟩] } else s)))
    ∧ ∀ (p : Pid) (l : ObjRef) (exp : BitVec 32), exp ≠ 0 → s.newObj (s.kernel p) = some l →
      let job : Obj := { Obj.reset with v := true, lvl := 3, pid := p, exp := exp.toNat, par := 0xFFFFFFFF }
      (∀ (h : BitVec 1) (pf : Bool) (m : Line), s.ev = some (.hostCreationWrite h pf p true m) →
        (pf = true ∨ (Tab.get Fn.reset s.fns (32 * h.toNat + p.toNat + 1)).st = 2) →
        m = lineOf [BitVec.ofNat 64 (3 * 2 ^ 62 + exp.toNat), 0xFFFFFFFF00000000, 0, 0, 0, 0, 0, 0] →
        ∃ t, exec .hostCreationWrite s = .next t ∧ t.mem = s.mem ∧ t.obj l = job ∧ (t.win p).cstat = l.setWidth 64
          ∧ (t.win p).answered = (s.win p).answered + 1)
      ∧ (s.ev = some (.kernelObjectCreation p 3 exp 0xFFFFFFFF) →
        ∃ t, exec .kernelObjectCreation s = .next t ∧ t.mem = s.mem ∧ t.obj l = job)

/-- Tasks are placed, installed and counted down: SPAWN's member-add answers with the count before it and its placement with the place; placement takes
the queue whose turn it is; an install writes the words of the workspace; a DECR lowers the counter and installs at zero; a packet enters its ring
(spec/08, spec/10, spec/11, spec/15, R164, R169, R202, R210, R307, R310, R311). Completes: spawnMemberAdd, spawnPlace, spawnMemberRemove, placement,
decrApply, chanPacketReceive. Where the spec leaves a point open, the clauses rest on the model's choices of log entries 43, 44. -/
def Obligations.TasksArePlacedAndInstalled : Prop :=
  ∀ s : State,
    (∀ m : SpawnReq, s.ev = some (.spawnMemberAdd m) → s.sliceOwner (objSlice m.who.lref) = some m.who.pid →
      (s.spawnBad m.who.pid m.msg m.priv = false → (s.obj m.who.lref).exp < 2 ^ 32 - 1 →
        ∃ t, exec .spawnMemberAdd s = .next t ∧ t.mem = s.mem ∧ t.obj m.who.lref = { s.obj m.who.lref with
            exp := (s.obj m.who.lref).exp + 1
            fin := if (s.obj m.who.lref).st = 4 then (s.obj m.who.lref).fin + 1 else (s.obj m.who.lref).fin }
          ∧ sentReply s t [] m.who.core (.held m.who.hidx) (.status (BitVec.ofNat 64 (s.obj m.who.lref).exp)) m.buoy)
      ∧ (s.spawnBad m.who.pid m.msg m.priv = true →
        ∃ t, exec .spawnMemberAdd s = .next t ∧ t.mem = s.mem ∧ t.objs = s.objs
          ∧ sentReply s t [] m.who.core (.held m.who.hidx) (.status (BitVec.ofNat 64 (2 * 2 ^ 56))) m.buoy))
    ∧ (∀ (m : SpawnReq), s.ev = some (.spawnPlace m) →
      let c : CoreId := BitVec.ofNat 11 (msgCore m.msg 0)
      (s.core c).part = m.who.pid → s.heldBack 4 m.who.lref = false →
      (∀ (h : Hidx) (b : Nat), s.roomAt c.toNat (msgBlocks m.msg) = some (h, b) →
        exec .spawnPlace s = .next ((s.placeTask c h b m.msg m.who.lref m.tix.toNat m.who.sid m.priv (msgGeom m.msg 0)).emit
          (.memrepReceive ⟨m.who.core, .held m.who.hidx, .status (BitVec.ofNat 64 (c.toNat * 2 ^ 16 + h.toNat * 2 ^ 10)), none, false⟩)))
      ∧ (s.roomAt c.toNat (msgBlocks m.msg) = none → exec .spawnPlace s = .next (s.emit
          (.memrepReceive ⟨m.who.core, .held m.who.hidx, .status (BitVec.ofNat 64 (5 * 2 ^ 56)), none, false⟩))))
    ∧ (∀ m : SpawnReq, s.ev = some (.spawnMemberRemove m) → s.sliceOwner (objSlice m.who.lref) = some m.who.pid →
      exec .spawnMemberRemove s = .next (((s.modObj m.who.lref fun o =>
        { o with exp := o.exp - 1, fin := if o.st = 4 then o.fin - 1 else o.fin }).taskReply m.who.core .step m.buoy m.who.lref .ok).objTest m.who.lref))
    ∧ (∀ (p : Pid) (t : State), s.ev = some (.placement p) → (s.win p).turn < 8 → s.placeNext p (s.win p).turn = some t → exec .placement s = .next t)
    ∧ (∀ (c : CoreId) (h : Hidx) (e : Entry), s.ent c h = e → e.inst.bnd = false →
      let t := s.install c h
      t.ws c e.wpb 0 = e.inst.pc.setWidth 64 ∧ t.ws c e.wpb 8 = e.inst.arg1 ∧ t.ws c e.wpb 16 = e.inst.arg2
        ∧ t.ws c e.wpb offTid = BitVec.ofNat 64 (e.lref.toNat * 2 ^ 32 + e.tix.toNat * 2 ^ 16)
        ∧ t.ws c e.wpb offSbrd = 0 ∧ t.ws c e.wpb offFstat = 0 ∧ (t.ws c e.wpb offTstat).getLsbD 63 = e.inst.priv
        ∧ (∀ x : Handle, t.hAt c e.wpb x = 0) ∧ t.net = s.net ++ [.memberStartPost e.lref (some c)]
        ∧ (t.ent c h).st = 1 ∧ (t.ent c h).fvec = e.inst.pc)
    ∧ (∀ (c : CoreId) (h : Hidx), (s.ent c h).inst.bnd = true →
      let t := s.installWords c h
      let faults : State := (t.sysRec (t.core c).part [17, putField 0 0 16 c.toNat, putField 0 0 16 h.toNat]).finishTask c h .fault
      (s.bindAtc c h = none → (t.ent c h).inst.bnd = true → s.install c h = faults)
      ∧ ∀ x : AtcEntry, s.bindAtc c h = some x →
        let ln := (s.bindReq c h x).pa.toNat / 64
        (s.core c).roFind ln = none →
          (s.install c h).mem = s.mem ∧ ((s.install c h).ent c h).st = (s.ent c h).st
            ∧ ((s.install c h).ent c h).binding = some ((s.core c).ids + 1))
    ∧ (∀ (p : Pid) (c : CoreId) (h : Hidx) (n : BitVec 32) (src : Option (Who × Nat)), s.ev = some (.decrApply p c h n src) → (s.core c).part = p →
      (s.ent c h).v = true → (s.ent c h).trg = 2 → (s.ent c h).st = 6 →
      let a := spad c (8 * (s.ent c h).dco.toNat)
      let o := s.obj (s.ent c h).lref
      s.sealedHit c (8 * (s.ent c h).dco.toNat) 8 = false → (s.core c).imageHit none (8 * (s.ent c h).dco.toNat) 8 = false →
      let acked (t : State) : State := match src with
        | some x => (t.modCore x.1.core fun k => { k with decrs := k.decrs.erase (x.1.hidx, x.2) }).tryFree x.1.core x.1.hidx
        | none => t
      (n ≠ 0 → n.toNat < field (s.rd64 a) 0 32 →
        exec .decrApply s = .next (acked (s.wr64 a (putField (s.rd64 a) 0 32 (field (s.rd64 a) 0 32 - n.toNat)))))
      ∧ (n ≠ 0 → n.toNat = field (s.rd64 a) 0 32 → o.st ≠ 4 →
        let t := (s.wr64 a (putField (s.rd64 a) 0 32 0)).modEnt c h fun e => { e with zero := true }
        exec .decrApply s = .next (acked (t.startAt c h))
          ∧ ((s.lq o.pid o.queue.toNat).due.contains (c.toNat, h) = false → (s.ent c h).binding = none → t.startAt c h = t.install c h))
      ∧ (n ≠ 0 → field (s.rd64 a) 0 32 < n.toNat → o.st ≠ 4 →
        ∃ u : State, u.mem = s.mem ∧ u.net = s.net ∧ u.cores = s.cores
          ∧ exec .decrApply s = .next (acked (((u.wr64 a (putField (putField (s.rd64 a) 63 1 1) 0 32 0)).modEnt c h fun e =>
              { e with zero := true }).startAt c h)))
      ∧ (n = 0 → exec .decrApply s = .next (acked s)))
    ∧ ∀ k : Packet, s.ev = some (.chanPacketReceive k) →
      let e := (s.core k.dst).chan k.chan
      ((s.core k.dst).part = k.pid → e.v = true → e.kind = 0 → (s.core k.dst).waits k.chan = false → e.fill ≤ e.sm1.toNat → e.bh = false →
        e.wr.toNat ≤ e.sm1.toNat → s.shut k.dst (ringSlot e e.wr.toNat) 64 = false → s.shut k.dst (ringTag e e.wr.toNat) 1 = false →
        ∃ t, exec .chanPacketReceive s = .next t ∧ (e.kind = 0 → t.net = s.net)
          ∧ Mem.readN t.mem (spad k.dst (ringSlot e e.wr.toNat)) 64 = (lineOf k.ws).toNat
          ∧ (0 < k.ws.length → k.ws.length ≤ 8 →
            t.tagOf k.dst e e.wr.toNat = (k.ws.length - 1) + (if k.eos = true then 8 else 0))
          ∧ (t.core k.dst).chan k.chan = { e with wr := BitVec.ofNat 8 ((e.wr.toNat + 1) % (e.sm1.toNat + 1)), fill := e.fill + 1 })
      ∧ ((s.core k.dst).part = k.pid → e.v = true → e.kind = 0 → ((s.core k.dst).waits k.chan = true ∨ e.sm1.toNat < e.fill) →
        exec .chanPacketReceive s = .next (s.modCore k.dst fun x => { x with inChan := x.inChan ++ [k] }))

/-- CANCEL at its object, for every level that a head or the kernel's walk names: an unknown object, one of another level and one of another partition
are answered BADREF, a complete one or one whose last post is applied ALREADY_DONE, and one already cancelled OK, and nothing changes; else the
object is cancelled and the head answered OK: a launch leaves its queue, its members never started count as complete, and every core of its
partition has a notice; of a graph, a phase or a job the kernel has a record and walks the members, cancelling each in list order and removing the
subtree's messages from the queues. A notice ends a waiting task unstarted, marks a running one, and ends any other (spec/01, spec/11, spec/15, R36,
R213, R312). Completes: cancelAtObject, terminationNotice, cancelWalk. Where the spec leaves a point open, the clauses rest on the model's choices
of log entry 45. -/
def Obligations.CancelEndsItsSubtree : Prop :=
  ∀ s : State,
    (∀ m : CancelReq, s.ev = some (.cancelAtObject m) → s.sliceOwner (objSlice m.ref) = some m.pid →
      let o := s.obj m.ref
      let replied (code : Nat) (t : State) : State :=
        if m.reply then t.taskReply m.core (.held m.hidx) m.buoy m.ref (.status (BitVec.ofNat 64 (code * 2 ^ 56))) else t
      ((o.v = false ∨ o.pid ≠ m.pid ∨ ∃ x, m.lvl = some x ∧ levelNo x ≠ o.lvl) → exec .cancelAtObject s = .next (replied 7 s))
      ∧ (o.v = true → o.pid = m.pid → (∀ x, m.lvl = some x → levelNo x = o.lvl) →
        ((o.st = 1 ∨ o.st = 2 ∨ o.st = 3 ∨ (o.last = true ∧ o.st ≠ 4)) → exec .cancelAtObject s = .next (replied 6 s))
        ∧ (o.st = 4 → exec .cancelAtObject s = .next (replied 0 s))
        ∧ (o.last = false → (o.st = 0 ∨ o.st = 5) → exec .cancelAtObject s = .next ((replied 0 s).cancelObj m.ref))))
    ∧ (∀ l : ObjRef, (s.obj l).v = true → (s.obj l).last = false →
      let o := s.obj l
      (o.lvl = 0 → ∃ t : State, s.cancelObj l = (t.objTest l).overTest l ∧ t.mem = s.mem
          ∧ t.obj l = { o with st := 4, fin := o.fin + (o.exp - o.fin - o.run - s.startsDue l) }
          ∧ (∀ x ∈ (t.lq o.pid o.queue.toNat).msgs, x.obj ≠ l)
          ∧ t.net = s.net ++ ((s.partCores o.pid).map fun c => .terminationNotice (BitVec.ofNat 11 c) l) ++ [.placement o.pid])
      ∧ (o.lvl ≠ 0 → ∃ t : State, s.cancelObj l = t.objTest l ∧ t.mem = s.mem
          ∧ t.obj l = { o with st := 4, fin := o.fin + (o.exp - o.fin - o.mems.length - s.postsDue l) }
          ∧ t = ((s.modObj l fun o => { o with st := 4, fin := o.fin + (o.exp - o.fin - o.mems.length - s.postsDue l) }).sysRec
              o.pid [18, l.setWidth 64]).emit (.cancelWalk l)))
    ∧ (∀ l : ObjRef, s.ev = some (.cancelWalk l) →
      ((∀ q, (s.lq (s.obj l).pid q).msgs = []) →
        exec .cancelWalk s = .next ((s.emits ((s.obj l).mems.map fun x => .cancelAtObject ⟨(s.obj l).pid, none, x, 0, 0, none, false⟩)).emit
          (.placement (s.obj l).pid)))
      ∧ ∃ t : State, exec .cancelWalk s = .next t ∧ t.mem = s.mem ∧ t.objs = s.objs
        ∧ t.net = s.net ++ ((s.obj l).mems.map fun x => .cancelAtObject ⟨(s.obj l).pid, none, x, 0, 0, none, false⟩) ++ [.placement (s.obj l).pid]
        ∧ ∀ q < 8, ∀ x ∈ (t.lq (s.obj l).pid q).msgs, x ∈ (s.lq (s.obj l).pid q).msgs)
    ∧ ∀ (c : CoreId) (l : ObjRef), s.ev = some (.terminationNotice c l) →
      ((∀ x, (s.ent c x).v = true → (s.ent c x).lref = l → (s.ent c x).st = 5) → exec .terminationNotice s = .next s)
      ∧ (∀ h : Hidx, (s.ent c h).v = true → (s.ent c h).lref = l → (∀ x, (s.ent c x).v = true → (s.ent c x).lref = l → x = h) →
        ((s.ent c h).st = 6 → exec .terminationNotice s = .next (((s.dropDue c h).modEnt c h fun _ => Entry.reset).emit (.placement (s.core c).part)))
          ∧ ((s.ent c h).st = 0 → exec .terminationNotice s = .next (s.modEnt c h fun e => { e with kill := some .cancelled }))
          ∧ ((s.ent c h).st = 1 ∨ (s.ent c h).st = 2 ∨ (s.ent c h).st = 3 ∨ (s.ent c h).st = 4 →
            exec .terminationNotice s = .next (s.finishTask c h .cancelled)))
      ∧ ((∀ h, (s.ent c h).v = true → (s.ent c h).lref = l → (s.ent c h).st = 0) →
        ∃ t, exec .terminationNotice s = .next t ∧ t.mem = s.mem ∧ t.net = s.net
          ∧ ∀ h, t.ent c h = if (s.ent c h).v = true ∧ (s.ent c h).lref = l then { s.ent c h with kill := some .cancelled } else s.ent c h)

/-- The VX engine: a VST at the front is sent; another head at the front that waits for no slot computes at its start, and at its completion the
selected bytes of its vector register take the result and it leaves the queue; a VST without requests leaves; its requests are filled and sent in
order (spec/16, R325, R331, R342). What a VX head computes, lane by lane, from its registers, the slots that it took and its broadcast word, and the
bytes that it writes: arithmetic modulo the lane's width, clamped or rounded once; the fused heads; minimum and maximum; the logic of all 512 bits;
the bits of a compare; conversions and table codes of a part; broadcast, permutation, the fixed tree of a reduction, and the four functions with
their special cases (spec/16, R322, R323, R327 to R338, R344). Completes: vxHeadStart, vxHeadComplete, vstSend. Where the spec leaves a point open,
the clauses rest on the model's choices of log entry 30. -/
def Obligations.VxHeadsComputeAndWriteTheirRegister : Prop :=
  (∀ (s : State) (c : CoreId) (x : VxItem) (rest : List VxItem), (s.core c).vxq = x :: rest →
    (∀ o : VmemOp, s.ev = some (.vxHeadStart c) → x.started = false → x.i = .vst o → exec .vxHeadStart s = .next (s.emit (.vstSend c)))
    ∧ (s.ev = some (.vxHeadStart c) → x.started = false → (∀ o, x.i ≠ .vst o) → s.gaussRun c x = none → x.chans = [] →
      let y := vxResult (s.core c) (fun r => s.vAt c x.wpb r) [] x
      ∃ t, exec .vxHeadStart s = .next t ∧ t.mem = s.mem ∧ t.net = s.net ++ [.vxHeadComplete c]
        ∧ (t.core c).vxq = { x with data := y.1, bm := y.2.1, bc := y.2.2, started := true } :: rest)
    ∧ (∀ p : Handle × Chan × BitVec 4, s.ev = some (.vxHeadStart c) → x.started = false → (∀ o, x.i ≠ .vst o) → s.gaussRun c x = none → x.chans = [p] →
      let e := (s.core c).chan p.2.1
      let at_ := ringSlot e e.rd.toNat
      (¬(e.v = true ∧ e.kind = 2 ∧ max 1 p.2.2.toNat ≤ e.fill) → exec .vxHeadStart s = .next s)
      ∧ (e.v = true → e.kind = 2 → max 1 p.2.2.toNat ≤ e.fill → s.sealedHit c at_ 64 = false →
        let n := s.tagOf c e e.rd.toNat % 8
        let l := lineOf ((List.range 8).map fun i => if i ≤ n then s.rd64 (spad c (at_ + 8 * i)) else 0)
        let u := (s.setHAt c x.wpb p.1 (descWord (s.hAt c x.wpb p.1) (decide (8 ≤ s.tagOf c e e.rd.toNat)) 0)).freeSlot c p.2.1
        let y := vxResult (u.core c) (fun r => u.vAt c x.wpb r) [l] x
        exec .vxHeadStart s = .next ((u.modCore c fun k => k.setVx { x with data := y.1, bm := y.2.1, bc := y.2.2, started := true }).emit (.vxHeadComplete c))))
    ∧ (∀ t : State, s.ev = some (.vxHeadStart c) → x.started = false → (∀ o, x.i ≠ .vst o) → s.gaussRun c x = some (.ok t) →
      exec .vxHeadStart s = .next ((t.modCore c fun k => k.setVx { x with started := true }).emit (.vxHeadComplete c)))
    ∧ (∀ r : VReg, s.ev = some (.vxHeadComplete c) → x.started = true → vxDest x.i = some r → (s.ent c x.hidx).st ≠ 5 →
      (∀ o, x.i ≠ .vst o) →
      ∃ t, exec .vxHeadComplete s = .next t ∧ (t.core c).vxq = rest
        ∧ ∀ b, b < 64 → lineByte (t.vAt c x.wpb r) b = if x.bm.getLsbD b then lineByte x.data b else lineByte (s.vAt c x.wpb r) b)
    ∧ (s.ev = some (.vxHeadComplete c) → x.started = true → (s.ent c x.hidx).st ≠ 5 →
      (∀ o : VcmpOp, (x.i = .vcmpEq o ∨ x.i = .vcmpNe o ∨ x.i = .vcmpLt o ∨ x.i = .vcmpLe o ∨ x.i = .vcmpGt o ∨ x.i = .vcmpGe o) →
        ∃ t, exec .vxHeadComplete s = .next t ∧ (t.core c).vxq = rest ∧ (t.ws c x.wpb offSbrd).getLsbD (16 + o.p.toNat) = false
          ∧ ∀ b, b < 64 → (t.pAt c x.wpb o.p).getLsbD b =
              (decide (b < laneN o.t) && if x.acts.getLsbD b then x.bc.getLsbD b else (s.pAt c x.wpb o.p).getLsbD b))
      ∧ (∀ o : VredOp, (x.i = .vredAdd o ∨ x.i = .vredMin o ∨ x.i = .vredMax o) → o.a ≠ 0 →
        ∃ t, exec .vxHeadComplete s = .next t ∧ (t.core c).vxq = rest ∧ t.gAt c x.wpb o.a = x.bc ∧ (t.ws c x.wpb offSbrd).getLsbD o.a.toNat = false))
    ∧ (∀ o : VmemOp, s.ev = some (.vstSend c) → x.i = .vst o → x.ws = false → x.reqs = [] → x.owed = 0 →
      exec .vstSend s = .next (s.vxPop c))
    ∧ ∀ o : VmemOp, s.ev = some (.vstSend c) → x.i = .vst o → x.ws = false → x.started = false → x.reqs ≠ [] →
      let reqs := x.reqs.map (fillReq (vstBytes (s.core c) (heldVmem o x.fptr) (s.vAt c x.wpb o.a)))
      exec .vstSend s = .next ((s.modCore c fun k => k.setVx { x with reqs := reqs }).vstPump c reqs))
  ∧ (∀ (k : Core) (v : VReg → Line) (slots : List Line) (x : VxItem),
    let y := vxResult k v slots x
    let one (b : VSrc) : Line := match b with | .v r => v r | .c _ _ => slots.headD 0
    let two (b c : VSrc) : Line := match c with
      | .v r => v r
      | .c _ _ => match b with | .v _ => slots.headD 0 | .c _ _ => slots.getD 1 0
    let opd (t : Ty) (b : VSrc) (c : VOpd) : Line := match c with | .src c => two b c | .bc _ => bcast t x.bc
    let mask (t : Ty) : Prop := ∀ b < 64, y.2.1.getLsbD b = laneActs x.acts t (8 * b / laneW t)
    (∀ (o : V3Op) (i : Nat), i < laneN o.t →
      let t := o.t
      let w := laneW t
      let X := lane t (one o.b) i
      let Y := lane t (opd t o.b o.c) i
      let R := lane t y.1 i
      let a := intVal t.isSigned w X
      let b := intVal t.isSigned w Y
      let F := tyVal t X
      let G := tyVal t Y
      let lo : Int := if t.isSigned = true then -(2 ^ (w - 1)) else 0
      let hi : Int := if t.isSigned = true then 2 ^ (w - 1) - 1 else 2 ^ w - 1
      let is (n : Int) : Prop := (R : Int) = n % 2 ^ w
      let enc (sat : Bool) (r : Val) : Prop := R = tyEnc t sat r % 2 ^ w
      ((x.i = .vadd o ∨ x.i = .vsub o ∨ x.i = .vmul o ∨ x.i = .vaddSat o ∨ x.i = .vsubSat o ∨ x.i = .vmulSat o ∨ x.i = .vmin o ∨ x.i = .vmax o
        ∨ x.i = .vminn o ∨ x.i = .vmaxn o) → mask t)
      ∧ (t.isFloat = false →
        (x.i = .vadd o → is (a + b)) ∧ (x.i = .vsub o → is (a - b)) ∧ (x.i = .vmul o → is (a * b))
        ∧ (x.i = .vaddSat o → is (max lo (min hi (a + b)))) ∧ (x.i = .vsubSat o → is (max lo (min hi (a - b))))
        ∧ (x.i = .vmulSat o → is (max lo (min hi (a * b))))
        ∧ (x.i = .vmin o ∨ x.i = .vminn o → is (min a b)) ∧ (x.i = .vmax o ∨ x.i = .vmaxn o → is (max a b)))
      ∧ (t.isFloat = true →
        (x.i = .vadd o → enc false (F.add G)) ∧ (x.i = .vsub o → enc false (F.add G.negate)) ∧ (x.i = .vmul o → enc false (F.mul G))
        ∧ (x.i = .vaddSat o → enc true (F.add G)) ∧ (x.i = .vsubSat o → enc true (F.add G.negate)) ∧ (x.i = .vmulSat o → enc true (F.mul G))
        ∧ (x.i = .vmin o ∨ x.i = .vmax o → F = .nan ∨ G = .nan → enc false .nan)
        ∧ (x.i = .vminn o ∨ x.i = .vmaxn o → F = .nan → enc false G) ∧ (x.i = .vminn o ∨ x.i = .vmaxn o → G = .nan → enc false F)
        ∧ (F ≠ .nan → G ≠ .nan → (x.i = .vmin o ∨ x.i = .vminn o → enc false (if valBelow G F = true then G else F))
          ∧ (x.i = .vmax o ∨ x.i = .vmaxn o → enc false (if valBelow F G = true then G else F)))))
    ∧ (∀ F G : Val, valBelow F G = true ↔ F.cmp G = some .lt ∨ F.cmp G = some .eq ∧ F.sign = true ∧ G.sign = false)
    ∧ (∀ (o : V4Op), (x.i = .vfma o ∨ x.i = .vfms o → mask o.t) ∧ ∀ i < laneN o.t,
      let F := tyVal o.t (lane o.t (one o.b) i)
      let G := tyVal o.t (lane o.t (opd o.t o.b o.c) i)
      let H := tyVal o.t (lane o.t (v o.d) i)
      (x.i = .vfma o → lane o.t y.1 i = tyEnc o.t false ((F.mul G).add H) % 2 ^ laneW o.t)
      ∧ (x.i = .vfms o → lane o.t y.1 i = tyEnc o.t false ((F.mul G).add H.negate) % 2 ^ laneW o.t))
    ∧ (∀ o : VLogOp,
      let B := one o.b
      let C := opd .nosfx o.b o.c
      let D := v o.d
      (x.i = .vand o → y.1 = B &&& C ∧ mask .nosfx) ∧ (x.i = .vor o → y.1 = B ||| C ∧ mask .nosfx) ∧ (x.i = .vxor o → y.1 = B ^^^ C ∧ mask .nosfx)
      ∧ (x.i = .vsel o → y.1 = (B &&& D) ||| (C &&& ~~~D) ∧ mask .nosfx)
      ∧ (x.i = .vlog3 o → mask .nosfx ∧ ∀ j < 512, y.1.getLsbD j =
          o.tt.getLsbD ((if B.getLsbD j = true then 4 else 0) + (if C.getLsbD j = true then 2 else 0) + (if D.getLsbD j = true then 1 else 0))))
    ∧ (∀ (o : VcmpOp) (i : Nat), i < laneN o.t →
      let X := lane o.t (one o.b) i
      let Y := lane o.t (opd o.t o.b o.c) i
      let r : Option Ordering := if o.t.isFloat = true then (tyVal o.t X).cmp (tyVal o.t Y)
        else some (compare (intVal o.t.isSigned (laneW o.t) X) (intVal o.t.isSigned (laneW o.t) Y))
      let b := y.2.2.getLsbD i
      (x.i = .vcmpEq o → (b = true ↔ r = some .eq)) ∧ (x.i = .vcmpNe o → (b = true ↔ r ≠ some .eq)) ∧ (x.i = .vcmpLt o → (b = true ↔ r = some .lt))
      ∧ (x.i = .vcmpLe o → (b = true ↔ r = some .lt ∨ r = some .eq)) ∧ (x.i = .vcmpGt o → (b = true ↔ r = some .gt))
      ∧ (x.i = .vcmpGe o → (b = true ↔ r = some .gt ∨ r = some .eq)))
    ∧ (let conv (s t : Ty) (p : Nat) (b : VSrc) (f : Nat → Nat) : Prop :=
        let Ls := laneN s
        let Lt := laneN t
        (∀ i j, i < Lt → (if Ls ≤ Lt then i = p * Ls + j ∧ j < Ls else j = p * Lt + i) → lane t y.1 i = f (lane s (one b) j) % 2 ^ laneW t)
          ∧ ∀ b < 64, let i := 8 * b / laneW t
            y.2.1.getLsbD b = (laneActs x.acts t i && decide (Ls ≤ Lt → p * Ls ≤ i ∧ i < p * Ls + Ls))
      (∀ o : VcvtOp, (x.i = .vcvt o → conv o.s o.t o.part.toNat o.b (convert o.s o.t false))
        ∧ (x.i = .vcvtSat o → conv o.s o.t o.part.toNat o.b (convert o.s o.t true)))
      ∧ ∀ o : EncOp, let tab := if o.tbl = true then k.t1 else k.t0
        (x.i = .enc o → conv o.s o.t o.part.toNat o.b fun n => tab.enc (o.t == .t4) false (tyVal o.s n))
        ∧ (x.i = .encSat o → conv o.s o.t o.part.toNat o.b fun n => tab.enc (o.t == .t4) true (tyVal o.s n))
        ∧ (x.i = .dec o → conv o.t o.s o.part.toNat o.b fun n => tyEnc o.s false (Fmt.f19.decode (tab.ents.getD n 0).toNat)))
    ∧ (∀ o : VbcastOp, x.i = .vbcast o → o.t ≠ .nosfx → mask o.t ∧ ∀ i < laneN o.t,
      (∀ r, o.b = .g r → lane o.t y.1 i = x.bc.toNat % 2 ^ (if o.t = .f19 then 19 else laneW o.t))
      ∧ ∀ r n, o.b = .lane r n → lane o.t y.1 i = lane o.t (v r) n.toNat % 2 ^ (if o.t = .f19 then 19 else laneW o.t))
    ∧ (∀ o : VpermOp, x.i = .vperm o → mask o.t ∧ ∀ i < laneN o.t,
      let keep (n : Nat) : Nat := if o.t = .f19 then n % 2 ^ 19 else n
      let j := lane o.t (two o.b o.c) i
      let L := laneN o.t
      (o.d = none → lane o.t y.1 i = keep (lane o.t (one o.b) (j % L)))
      ∧ ∀ d, o.d = some d → lane o.t y.1 i = keep (if j % (2 * L) < L then lane o.t (one o.b) (j % (2 * L)) else lane o.t (v d) (j % (2 * L) - L)))
    ∧ (∀ o : VredOp, (o.t = .i32 ∨ o.t = .f32) →
      let pair (op : Nat → Nat → Nat) (f : Nat → Nat) : Nat → Nat := fun i => op (f (2 * i)) (f (2 * i + 1))
      let tree (ident : Nat) (op : Nat → Nat → Nat) : Nat :=
        pair op (pair op (pair op (pair op fun i => if laneActs x.acts o.t i = true then lane o.t (v o.b) i else ident))) 0
      let s32 (a b : Nat) : Bool := (BitVec.ofNat 32 a).slt (BitVec.ofNat 32 b)
      (o.t = .f32 → (x.i = .vredAdd o → y.2.2 = BitVec.ofNat 64 (tree 0x80000000 f32Add)) ∧ (x.i = .vredMin o → y.2.2 = BitVec.ofNat 64 (tree 0x7F800000 f32Min))
        ∧ (x.i = .vredMax o → y.2.2 = BitVec.ofNat 64 (tree 0xFF800000 f32Max)))
      ∧ (o.t = .i32 → (x.i = .vredAdd o → y.2.2 = (BitVec.ofNat 32 (tree 0 fun a b => (a + b) % 2 ^ 32)).signExtend 64)
        ∧ (x.i = .vredMin o → y.2.2 = (BitVec.ofNat 32 (tree 0x7FFFFFFF fun a b => if s32 a b = true then a else b)).signExtend 64)
        ∧ (x.i = .vredMax o → y.2.2 = (BitVec.ofNat 32 (tree 0x80000000 fun a b => if s32 a b = true then b else a)).signExtend 64)))
    ∧ (∀ o : VfnOp,
      let fn (f : Nat → Nat) : Prop := mask .f32 ∧ ∀ i < 16, lane .f32 y.1 i = f (lane .f32 (one o.b) i) % 2 ^ 32
      (x.i = .vrcp o → fn f32Rcp) ∧ (x.i = .vrsq o → fn f32Rsq) ∧ (x.i = .vexp2 o → fn f32Exp2) ∧ (x.i = .vlog2 o → fn f32Log2))
    ∧ (let zero : List Nat := [0, 0x80000000, 0x7F800000, 0xFF800000, 0x7FC00000]
      zero.map f32Rcp = [0x7F800000, 0xFF800000, 0, 0x80000000, 0x7FC00000] ∧ zero.map f32Rsq = [0x7F800000, 0xFF800000, 0, 0x7FC00000, 0x7FC00000]
        ∧ zero.map f32Exp2 = [0x3F800000, 0x3F800000, 0x7F800000, 0, 0x7FC00000]
        ∧ zero.map f32Log2 = [0xFF800000, 0xFF800000, 0x7F800000, 0x7FC00000, 0x7FC00000])
    ∧ (∀ (n m : Nat) (e : Int), f32v n = .fin true m e → m ≠ 0 → f32Rsq n = 0x7FC00000 ∧ f32Log2 n = 0x7FC00000)
    ∧ f32Rcp 0x40400000 = 0x3EAAAAAB ∧ f32Rsq 0x40800000 = 0x3F000000 ∧ f32Exp2 0xBFC00000 = 0x3EB504F3 ∧ f32Log2 0x41200000 = 0x40549A78
    ∧ f32Log2 0x3F800000 = 0)

/-- The MX engine and Gaussian messages: MXCLR leaves its accumulator unset under its owner; an MXMUL fetches its rows until it has them and then
applies its steps once; an MXST whose stores are answered leaves; a remote command that is well-formed enters the remote queue of a core in split
mode, and one that is not is answered; the parts of a message are staged, and what is out of order or for no mailbox is discarded (spec/05, spec/17,
R111, R114, R350, R354, R355, R360, R363). What MX computes: the classes of a step's elements; the aligned sum of its products at the tile's
exponent, at the one that an unset tile takes from its largest product, or one shift further; the three passes of MXS3; the bytes of MXST, with
those of a scaled block; the row statistics of the lantern heads (spec/05, spec/16, spec/17, R111 to R115, R343, R351, R352, R355, R356, R361). What
the Gaussian heads compute at their start: GRES reads and clears the residual and gives its level; GSUM adds the incoming messages to the prior in
entry order; GSUB sends the belief less the incoming message; GMU adds the messages of the other blocks, eliminates their indices in rising order,
damps the result, writes its cache, raises the residual, marks the slots read and sends the message, or names the first small pivot; with the worked
example (spec/10, spec/17, R204, R362 to R368). Completes: gaussPartReceive, mxcmdReceive, mxHeadStart, mxStepApply, mxstSend. Where the spec leaves
a point open, the clauses rest on the model's choices of log entries 30, 31, 32. -/
def Obligations.MatrixAndMessageEventsHaveTheirEffect : Prop :=
  (∀ (s : State) (c : CoreId),
    (∀ (x : MxItem) (a : AReg), s.ev = some (.mxHeadStart c false) → (s.core c).mxPick false = some x → x.i = .mxclr a →
      ((s.core c).mxprog.mv = false ∨ (s.core c).mxprog.acc ≠ a →
        exec .mxHeadStart s = .next ((s.modCore c fun k => k.setAcc a (.cleared ((s.core c).acc a).own)).mxPop c false x (x.moor ++ [])))
      ∧ ((s.core c).mxprog.mv = true → (s.core c).mxprog.acc = a →
        exec .mxHeadStart s = .next ((s.modCore c fun k => { k.setAcc a (.cleared (k.acc a).own) with mxprog := { k.mxprog with mv := false, item := none } }).mxPop
          c false x (x.moor ++ ((s.core c).mxprog.item.map (·.moor)).getD []))))
    ∧ (∀ (x y : MxItem) (a : AReg), s.ev = some (.mxHeadStart c false) → (s.core c).mxPick false = some x → x.i = .mxrsm a → (s.core c).mxprog.item = some y →
      exec .mxHeadStart s = .next ((s.modCore c fun k => k.setMx false { y with id := x.id, idx := x.idx, pc := x.pc }).emit (.mxHeadStart c false)))
    ∧ (∀ (x : MxItem) (s3 : Bool) (o : MxmulOp), (s.core c).mxPick false = some x → x.i = (if s3 = true then .mxs3 o else .mxmul o) →
      (s.ev = some (.mxHeadStart c false) →
        (x.await = true → exec .mxHeadStart s = .next s)
        ∧ (x.await = false → x.nextRow = none → exec .mxHeadStart s = .next (s.emit (.mxStepApply c false)))
        ∧ ∀ (r : Bool × Nat), x.await = false → x.nextRow = some r → x.fault = none →
          let p := (x.row r).1
          let tag := field p 56 8
          let w := spanBytes (ptrFmt p) (ptrBlog p) (rowVa p (x.row r).2.1 (x.row r).2.2).1 (rowVa p (x.row r).2.1 (x.row r).2.2).2
          let looked := s.engPieces c x.who.sid rRead (pieces 64 ((List.range (w.2 + 1 - w.1).toNat).map (w.1.toNat + ·)))
          (∀ va : Nat, x.started = false → looked.2 = some (va, none) → exec .mxHeadStart s = .next (s.mxMiss c false x tag va rRead))
          ∧ (∀ l, x.started = false → looked = (l, none) → l ≠ [] →
            let y := { x with started := true, reqs := l.map fun y => s.mxReq c false x tag .load y, log := l.flatMap fun y => logBytes y.2 y.1.n }
            exec .mxHeadStart s = .next ((s.modCore c fun k => k.setMx false y).mxPump c false x.id y.reqs))
          ∧ (x.started = true → x.reqs ≠ [] → exec .mxHeadStart s = .next (s.mxPump c false x.id x.reqs))
          ∧ (x.started = true → x.reqs = [] → x.owed = 0 →
            let vals := rowVals (s.core c) (x.row r).1 (x.row r).2.1 (x.row r).2.2 fun b => Tab.get 0 x.got b
            exec .mxHeadStart s = .next (((s.addLog c x.log).modCore c fun k => k.setMx false { x with
              started := false, got := [], log := [], arows := if r.1 then x.arows ++ [vals] else x.arows
              brows := if r.1 then x.brows else x.brows ++ [vals] }).emit (.mxHeadStart c false))))
      ∧ (s.ev = some (.mxStepApply c false) → x.nextRow = none →
        let done (k : Core) : Core := ((k.setAcc o.acc (mulSteps s3 (k.acc o.acc) x.arows x.brows)).count 4).countMx false 4
        let mine : Prop := (s.core c).mxprog.mv = true ∧ ((s.core c).acc (s.core c).mxprog.acc).own = .task x.hidx
        (¬mine → exec .mxStepApply s = .next ((s.modCore c done).mxPop c false x x.moor))
        ∧ (mine → exec .mxStepApply s = .next
          ((s.modCore c fun k => { done k with mxprog := { k.mxprog with mv := false, item := none } }).mxPop c false x x.moor))))
    ∧ (∀ (x : MxItem) (sat : Bool) (o : MxstOp), (s.core c).mxPick false = some x → x.i = (if sat = true then .mxstSat o else .mxst o) →
      (s.ev = some (.mxHeadStart c false) →
        (enabled x.sw = [] → exec .mxHeadStart s = .next (s.mxPop c false x x.moor))
        ∧ (enabled x.sw ≠ [] → exec .mxHeadStart s = .next (s.emit (.mxstSend c false))))
      ∧ (s.ev = some (.mxstSend c false) → x.await = false →
        (x.started = true → x.reqs = [] → x.owed = 0 → exec .mxstSend s = .next (s.mxPop c false x x.moor))
        ∧ (x.started = true → x.reqs ≠ [] → exec .mxstSend s = .next (s.mxPump c false x.id x.reqs))
        ∧ (x.started = false → x.fault = none →
          let bs := mxstBytes (s.core c) ((s.core c).acc o.acc) o.t sat x.pa x.sw x.st.toInt
          let tag := field x.pa 56 8
          let looked := s.engPieces c x.who.sid rWrite (pieces 64 (bs.map (·.1)))
          (∀ (va : Nat) (code : Code), looked.2 = some (va, some code) → exec .mxstSend s = .next (s.mxFault c false x code (mkPtr tag va)))
          ∧ (∀ va : Nat, looked.2 = some (va, none) → exec .mxstSend s = .next (s.mxMiss c false x tag va rWrite))
          ∧ ∀ l, looked = (l, none) →
            let z := s.numberAt c (l.map fun y => fillReq bs (s.mxReq c false x tag .store y))
            exec .mxstSend s = .next ((z.2.modCore c fun k => k.setMx false { x with started := true, reqs := z.1 }).mxPump c false x.id z.1))))
    ∧ (∀ (k : Packet) (w : Who) (q : BitVec 2), s.ev = some (.mxcmdReceive k w q) →
      let y := s.core k.dst
      (k.pid = y.part → y.cmask.getLsbD 2 = false → y.mxrq.length < 2 → remInstr k.ws = none →
        exec .mxcmdReceive s = .next (s.remStatus w (BitVec.ofNat 64 (2 * 2 ^ 56)) 0))
      ∧ (∀ i : Instr, k.pid = y.part → y.cmask.getLsbD 2 = false → y.mxrq.length < 2 → remInstr k.ws = some i →
        (y.mxs = false ∨ y.capmx = 0 ∨ k.ws.getD 1 0 ≠ y.capmx) → exec .mxcmdReceive s = .next (s.remStatus w (BitVec.ofNat 64 (10 * 2 ^ 56)) 0))
      ∧ (∀ (i : Instr) (code : Code) (d : BitVec 32) (a : Word), k.pid = y.part → y.cmask.getLsbD 2 = false → y.mxrq.length < 2 → remInstr k.ws = some i → y.mxs = true →
        y.capmx ≠ 0 → k.ws.getD 1 0 = y.capmx → remCheck i k.ws = .error (.fault code d a) →
        exec .mxcmdReceive s = .next (s.remStatus w (BitVec.ofNat 64 (11 * 2 ^ 56 + code.toNat * 2 ^ 40)) a))
      ∧ (k.pid ≠ y.part → exec .mxcmdReceive s = .next (s.discardPkt k))
      ∧ (∀ i : Instr, k.pid = y.part → y.cmask.getLsbD 2 = false → y.mxrq.length < 2 → remInstr k.ws = some i → y.mxs = true → y.capmx ≠ 0 →
        k.ws.getD 1 0 = y.capmx → remCheck i k.ws = .ok () →
        ∃ (t : State) (z : MxItem), exec .mxcmdReceive s = .next t ∧ t.mem = s.mem ∧ (t.core k.dst).mxrq = y.mxrq ++ [z] ∧ z.i = i ∧ z.who = w ∧ z.q = q ∧ z.remote = true
          ∧ z.pa = k.ws.getD 2 0 ∧ z.pb = k.ws.getD 3 0 ∧ z.sw = k.ws.getD 4 0 ∧ t.net = s.net ++ [.mxHeadStart k.dst true])
      ∧ (k.pid = y.part → (y.cmask.getLsbD 2 = true ∨ 2 ≤ y.mxrq.length) →
        exec .mxcmdReceive s = .next (s.modCore k.dst fun x => { x with inMx := x.inMx ++ [(k, w, q)] })))
    ∧ ∀ k : Packet, s.ev = some (.gaussPartReceive k) →
      let e := (s.core k.dst).chan k.chan
      let slot := field (k.ws.headD 0) 58 6
      let part := field (k.ws.headD 0) 55 3
      let base := mailSlot e slot + mailHalf e
      let dst := base + 56 * part
      let n := min (8 * (k.ws.length - 1)) (mailHalf e - 56 * part)
      let fresh (x : Core) (t : Tab Nat) : Core := x.setChan k.chan { e with stage := t }
      let there : Prop := k.pid = (s.core k.dst).part ∧ e.v = true ∧ e.kind = 1 ∧ slot ≤ e.sm1.toNat
      let next : Prop := part = 0 ∨ Tab.find e.stage slot = some (part - 1)
      (there → (¬next ∨ s.shut k.dst dst n = true ∨ (k.eos = true ∧ s.shut k.dst (mailSlot e slot) (mailStride e.rd.toNat) = true)) →
        exec .gaussPartReceive s = .next ((s.modCore k.dst fun x => fresh x (Tab.del e.stage slot)).discardPkt k))
      ∧ (there → next → s.shut k.dst dst n = false → k.eos = true → s.shut k.dst (mailSlot e slot) (mailStride e.rd.toNat) = false →
        let u := (s.putWords k.dst dst (mailHalf e - 56 * part) (k.ws.drop 1)).modCore k.dst fun x => fresh x (Tab.del e.stage slot)
        let live := spad k.dst (mailSlot e slot)
        (field (u.rd64 (spad k.dst base)) 0 4 ≠ e.rd.toNat → exec .gaussPartReceive s = .next (u.discardPkt k))
        ∧ (field (u.rd64 (spad k.dst base)) 0 4 = e.rd.toNat → ∃ t, exec .gaussPartReceive s = .next t
          ∧ (∀ i, i < mailHalf e → (i < 4 ∨ 8 ≤ i) → Mem.read t.mem (live + i) = Mem.read u.mem (live + mailHalf e + i))
          ∧ field (t.rd64 live) 32 32 = (field (s.rd64 live) 32 32 + 1) % 2 ^ 32
          ∧ (∀ a, (a < live ∨ live + mailHalf e ≤ a) → Mem.read t.mem a = Mem.read u.mem a)
          ∧ ((t.core k.dst).chan k.chan).dirty = e.dirty ||| BitVec.ofNat 64 (2 ^ slot)
          ∧ ((t.core k.dst).chan k.chan).fill = (if e.dirty.getLsbD slot = true then e.fill else e.fill + 1)
          ∧ t.net = s.net))
      ∧ (there → next → s.shut k.dst dst n = false → k.eos = false →
        exec .gaussPartReceive s = .next ((s.putWords k.dst (base + 56 * part) (mailHalf e - 56 * part) (k.ws.drop 1)).modCore k.dst fun x =>
          x.setChan k.chan { e with stage := Tab.set e.stage slot part }))
      ∧ (k.pid ≠ (s.core k.dst).part ∨ e.v = false ∨ e.kind ≠ 1 ∨ e.sm1.toNat < slot → exec .gaussPartReceive s = .next (s.discardPkt k)))
  ∧ ((∀ (x : Acc) (a b : List (List Val)), x.elems.length = 1024 →
    let t := mulSteps false x a b
    let p (i j k : Nat) : Val := ((a.getD i []).getD k .zero).mul ((b.getD k []).getD j .zero)
    let cls (y : Acc) (i j : Nat) : Cls := (y.elems.getD (32 * i + j) (.fin, 0)).1
    let man (y : Acc) (i j : Nat) : Int := (y.elems.getD (32 * i + j) (.fin, 0)).2.toInt
    let sum (E : Int) (i j : Nat) : Int := ((List.range 32).map fun k => match p i j k with | .fin s m e => rneInt s m (e - E) | _ => 0).sum
    let fits (m : Nat → Nat → Int) (E : Int) : Prop := ∀ i < 32, ∀ j < 32, cls t i j = .fin → (m i j + sum E i j).natAbs < 2 ^ 47
    let sixteenth (i j : Nat) : Int := rneInt (decide (man x i j < 0)) (man x i j).natAbs (-4)
    t.elems.length = 1024 ∧ t.own = x.own
      ∧ (∀ i < 32, ∀ j < 32,
        ((cls x i j = .nan ∨ ∃ k < 32, p i j k = .nan) → cls t i j = .nan)
        ∧ ((∀ k < 32, ∃ s m e, p i j k = .fin s m e) → cls t i j = cls x i j)
        ∧ (cls x i j ≠ .nan → (∀ k < 32, p i j k ≠ .nan) →
          let pos : Prop := cls x i j = .pinf ∨ ∃ k < 32, p i j k = .inf false
          let neg : Prop := cls x i j = .ninf ∨ ∃ k < 32, p i j k = .inf true
          (pos → neg → cls t i j = .nan) ∧ (pos → ¬neg → cls t i j = .pinf) ∧ (neg → ¬pos → cls t i j = .ninf) ∧ (¬pos → ¬neg → cls t i j = .fin)))
      ∧ (x.unset = false → -32768 ≤ x.e.toInt → x.e.toInt + 4 < 32768 →
        (fits (man x) x.e.toInt → t.e = x.e ∧ t.unset = false ∧ ∀ i < 32, ∀ j < 32, cls t i j = .fin → man t i j = man x i j + sum x.e.toInt i j)
        ∧ (¬fits (man x) x.e.toInt → fits sixteenth (x.e.toInt + 4) → t.e = x.e + 4 ∧ t.unset = false
          ∧ ∀ i < 32, ∀ j < 32, cls t i j = .fin → man t i j = sixteenth i j + sum (x.e.toInt + 4) i j))
      ∧ (x.unset = true → (∀ i < 32, ∀ j < 32, ∀ k < 32, ∀ s m e, p i j k = .fin s m e → m = 0) → t.unset = true ∧ t.e = x.e)
      ∧ (x.unset = true → (∀ i < 32, ∀ j < 32, man x i j = 0) → ∀ top : Int, -32768 ≤ top - 40 → top - 40 < 32768 →
        (∃ i < 32, ∃ j < 32, ∃ k < 32, ∃ s m e, p i j k = .fin s m e ∧ m ≠ 0 ∧ (m.log2 : Int) + e = top) →
        (∀ i < 32, ∀ j < 32, ∀ k < 32, ∀ s m e, p i j k = .fin s m e → m ≠ 0 → (m.log2 : Int) + e ≤ top) → fits (fun _ _ => 0) (top - 40) →
        t.unset = false ∧ t.e.toInt = top - 40 ∧ ∀ i < 32, ∀ j < 32, cls t i j = .fin → man t i j = sum (top - 40) i j))
  ∧ (∀ (x : Acc) (a b : List (List Val)),
    let part (hi : Bool) (l : List (List Val)) : List (List Val) := l.map fun r => r.map fun v => if hi = true then (split3 v).1 else (split3 v).2
    mulSteps true x a b =
      mulSteps false (mulSteps false (mulSteps false x (part true a) (part true b)) (part true a) (part false b)) (part false a) (part true b))
  ∧ (∀ v : Val, (v = .nan ∨ (∃ s, v = .inf s) → split3 v = (Fmt.f19.decode (Fmt.f19.encode false v), .zero))
    ∧ ∀ s m e, v = .fin s m e →
      let hi := Fmt.f19.decode (Fmt.f19.encode true v)
      split3 v = (hi, Fmt.f19.decode (Fmt.f19.encode false (v.add hi.negate))))
  ∧ (∀ (k : Core) (acc : Acc) (t : Ty) (sat : Bool) (p w : Word) (s : Int) (i j : Nat), i < 32 → j < 32 → w.getLsbD i = true → w.getLsbD (32 + j) = true →
    let f := ptrFmt p
    let bs := mxstBytes k acc t sat p w s
    let v := acc.at i j
    (ptrBlog p = 0 → 0 ≤ mxstVa t p s i j →
      (∀ i' < 32, ∀ j' < 32, w.getLsbD i' = true → w.getLsbD (32 + j') = true → (i', j') ≠ (i, j) →
        0 ≤ mxstVa t p s i' j' ∧ (mxstVa t p s i' j' + mxstSize t ≤ mxstVa t p s i j ∨ mxstVa t p s i j + mxstSize t ≤ mxstVa t p s i' j')) →
      ∀ c : Nat, (t.isFloat = false → t ≠ .t8 → c = toInt sat t.isSigned (tyBits t) v) →
        (t.isFloat = true → c = (if tyEnc t sat v = (tyFmt t).signBit then 0 else tyEnc t sat v)) →
        (t = .t8 → c = (if f = 8 then k.t0 else k.t1).enc false sat v) →
        ∀ n < mxstSize t, Tab.find bs ((mxstVa t p s i j).toNat + n) = some (c / 256 ^ n % 256))
    ∧ (ptrBlog p ≠ 0 → 2 ^ ptrBlog p ≤ 32 →
      let n := 2 ^ ptrBlog p
      (∀ i' < 32, w.getLsbD i' = true → i' = i) → (∀ j' < 32, w.getLsbD (32 + j') = true ↔ j' / n = j / n) →
      let vs := (List.range n).map fun j' => acc.at i (n * (j / n) + j')
      let l := blockBytes f (blockCodes k f sat vs)
      ∀ m < l.length, Tab.find bs (scaleByte f (ptrBlog p) (mxstVa t p s i (n * (j / n))).toNat + m) = some (l.getD m 0)))
  ∧ (∀ (acc : Acc) (i j : Nat), let x := acc.elems.getD (32 * i + j) (.fin, 0)
    (x.1 = .fin → acc.at i j = .fin (decide (x.2.toInt < 0)) x.2.toInt.natAbs acc.e.toInt) ∧ (x.1 = .pinf → acc.at i j = .inf false)
      ∧ (x.1 = .ninf → acc.at i j = .inf true) ∧ (x.1 = .nan → acc.at i j = .nan))
  ∧ (∀ (k : Core) (f : Nat) (sat : Bool) (vs : List Val),
    let codes (s : Int) : List Nat := vs.map fun x => scaledCode k f sat (x.scale (127 - s))
    (Val.nan ∈ vs → blockCodes k f sat vs = (255, vs.map fun _ => 0))
    ∧ (Val.nan ∉ vs → (∀ s m e, Val.fin s m e ∈ vs → m = 0) → blockCodes k f sat vs = (127, codes 127))
    ∧ (∀ top : Int, Val.nan ∉ vs → (∃ s m e, Val.fin s m e ∈ vs ∧ m ≠ 0 ∧ (m.log2 : Int) + e = top) →
      (∀ s m e, Val.fin s m e ∈ vs → m ≠ 0 → (m.log2 : Int) + e ≤ top) →
      let s : Int := max 0 (min 254 (127 + top - efmt k f))
      blockCodes k f sat vs = (s.toNat, codes s))
    ∧ efmt k 1 = 6 ∧ efmt k 2 = 7 ∧ efmt k 12 = 2)
  ∧ ∀ (s : State) (c : CoreId) (x : MxItem), s.ev = some (.mxHeadStart c false) → (s.core c).mxPick false = some x →
    let pair (op : Nat → Nat → Nat) (f : Nat → Nat) : Nat → Nat := fun i => op (f (2 * i)) (f (2 * i + 1))
    let tree (op : Nat → Nat → Nat) (f : Nat → Nat) : Nat := pair op (pair op (pair op (pair op (pair op f)))) 0
    let el (a : AReg) (i j : Nat) : Nat :=
      let n := Fmt.f32.encode false (((s.core c).acc a).at i j)
      if n = 0x80000000 then 0 else n
    let row (t : State) (v : VReg) (i : Nat) : Nat := lane .f32 (t.vAt c x.wpb (if i < 16 then v else v + 1)) (i % 16)
    (∀ o : RstatOp, x.i = .rstat o → o.a.toNat ≤ 26 → ∃ t, exec .mxHeadStart s = .next (t.mxPop c false x x.moor)
      ∧ (∀ i < 32, row t o.a i = tree f32Max (el o.acc i) ∧ row t (o.a + 2) i = tree f32Add (el o.acc i)
        ∧ row t (o.a + 4) i = tree f32Add fun j => f32Mul (el o.acc i j) (el o.acc i j))
      ∧ (∀ v : VReg, v.toNat < o.a.toNat ∨ o.a.toNat + 6 ≤ v.toNat → t.vAt c x.wpb v = s.vAt c x.wpb v) ∧ t.cores = s.cores ∧ t.net = s.net)
    ∧ (∀ o : RstatEOp, x.i = .rstatE o → o.a.toNat ≤ 30 → o.c.toNat ≤ 30 →
      ((s.core c).rstatWaits x = true → exec .mxHeadStart s = .next s)
      ∧ ((s.core c).rstatWaits x = false → ∃ t, exec .mxHeadStart s = .next (t.mxPop c false x x.moor)
        ∧ (∀ i < 32, row t o.a i = tree f32Add fun j => f32Exp2 (f32Mul (f32Sub (el o.acc i j) (row s o.c i)) (x.st.toNat % 2 ^ 32)))
        ∧ (∀ v : VReg, v ≠ o.a → v ≠ o.a + 1 → t.vAt c x.wpb v = s.vAt c x.wpb v) ∧ t.cores = s.cores ∧ t.net = s.net)))
  ∧ ((∀ (s : State) (w : Who) (b : BitVec 7) (d : Nat), s.poison = [] → s.sealedRanges w.core = [] →
    (∀ off n, (s.core w.core).imageHit (some w.hidx) off n = false) → 4096 * b.toNat + 2432 ≤ d →
    let c := w.core
    let w0 := s.rd64 (spad c d)
    let n := field w0 60 4
    let nf := field w0 56 4
    let cell (g : GEnt) (off : Nat) : Nat :=
      let a := mailSlot ((s.core c).chan (s.gChan c b g)) g.slot
      if field (s.rd64 (spad c a)) 32 32 = 0 then 0 else s.spad32 c (a + 16 + off)
    let read (t : State) (g : GEnt) : Prop := ((t.core c).chan (s.gChan c b g)).dirty.getLsbD g.slot = false
    (s.varOk c b d n nf = false → s.doGsum w b d = .error (cBadFactor, 0) ∧ ∀ f, s.doGsub c b d f = .error (cBadFactor, 0))
    ∧ (s.varOk c b d n nf = true →
      let es := (List.range nf).map (s.gEnt c d)
      let eta (i : Nat) : Nat := es.foldl (fun z g => f32Add z (cell g (4 * i))) (s.spad32 c (d + 256 + 4 * i))
      let lam (i : Nat) : Nat := es.foldl (fun z g => f32Add z (cell g (4 * n + 4 * i))) (s.spad32 c (d + 304 + 4 * i))
      (∃ t : State, s.doGsum w b d = .ok t
        ∧ (∀ i < n, t.spad32 c (d + 640 + 4 * i) = eta i) ∧ (∀ i < n * (n + 1) / 2, t.spad32 c (d + 688 + 4 * i) = lam i)
        ∧ t.spad32 c (d + 8) = f32Max (s.spad32 c (d + 8)) (Gaus.maxAbs ⟨(List.range n).map fun i => f32Sub (eta i) (s.spad32 c (d + 640 + 4 * i)),
            (List.range (n * (n + 1) / 2)).map fun i => f32Sub (lam i) (s.spad32 c (d + 688 + 4 * i))⟩)
        ∧ (∀ i < nf, read t (s.gEnt c d i)) ∧ t.net = s.net)
      ∧ ∀ f, (nf ≤ f → s.doGsub c b d f = .error (cBadFactor, 0))
        ∧ (f < nf → let g := s.gEnt c d f
          s.doGsub c b d f = .ok (s.sendMsg c g (field w0 40 16) 0 ⟨(List.range n).map fun i => f32Sub (s.spad32 c (d + 640 + 4 * i)) (cell g (4 * i)),
            (List.range (n * (n + 1) / 2)).map fun i => f32Sub (s.spad32 c (d + 688 + 4 * i)) (cell g (4 * n + 4 * i))⟩))))
  ∧ (∀ (s : State) (c : CoreId) (x : VxItem) (o : RrOp), x.i = .gres o → s.gaussSealed c x = false → s.poison = [] → s.sealedRanges c = [] →
    (∀ off n, (s.core c).imageHit (some x.hidx) off n = false) → 2432 ≤ x.bc.toNat → o.a ≠ 0 →
    let d := 4096 * x.wpb.toNat + x.bc.toNat
    let r := s.spad32 c (d + 8)
    ∃ t : State, s.gaussRun c x = some (.ok t) ∧ t.spad32 c (d + 8) = 0 ∧ t.net = s.net ∧ t.cores = s.cores
      ∧ field (t.gAt c x.wpb o.a) 32 32 = r
      ∧ (∀ z m e, f32v r = .fin z m e →
        (m = 0 → field (t.gAt c x.wpb o.a) 0 32 = 0) ∧ (m ≠ 0 → (field (t.gAt c x.wpb o.a) 0 32 : Int) = max 0 (min 7 ((m.log2 : Int) + e + 8))))
      ∧ ((f32v r = .nan ∨ ∃ z, f32v r = .inf z) → field (t.gAt c x.wpb o.a) 0 32 = 7))
  ∧ (∀ (s : State) (w : Who) (b : BitVec 7) (d t : Nat),
    let c := w.core
    let w0 := s.rd64 (spad c d)
    let n := field w0 60 4
    let nb := field w0 56 4
    let g := s.gEnt c d t
    let cell (g : GEnt) (off : Nat) : Nat :=
      let a := mailSlot ((s.core c).chan (s.gChan c b g)) g.slot
      if field (s.rd64 (spad c a)) 32 32 = 0 then 0 else s.spad32 c (a + 16 + off)
    let msg (e : GEnt) : Gaus := ⟨(List.range e.dim).map fun i => cell e (4 * i), (List.range (e.dim * (e.dim + 1) / 2)).map fun i => cell e (4 * e.dim + 4 * i)⟩
    let start : Work := ⟨(List.range n).map fun i => s.spad32 c (d + 256 + 4 * i),
      (List.range n).map fun i => (List.range n).map fun j => if i ≤ j then s.spad32 c (d + 304 + 4 * packed n i j) else 0⟩
    let others := (List.range nb).filter (· != t)
    let sum := others.foldl (fun (x : Work) i => let e := s.gEnt c d i; x.addMsg e.start e.dim (msg e)) start
    let out := (List.range n).filter fun i => i < g.start || g.start + g.dim ≤ i
    ((s.factorOk c b d n nb = false ∨ nb ≤ t) → s.doGmu w b d t = .error (cBadFactor, 0))
    ∧ (s.factorOk c b d n nb = true → t < nb →
      (∀ k, sum.elims (List.range n) out = .error k → s.doGmu w b d t = .error (cSingular, k))
      ∧ ∀ z : Work, sum.elims (List.range n) out = .ok z → s.poison = [] → s.sealedRanges c = [] →
        (∀ off n, (s.core c).imageHit (some w.hidx) off n = false) → 4096 * b.toNat + 2432 ≤ d →
        let m := g.dim * (g.dim + 1) / 2
        let new := z.block g.start g.dim
        let old (i : Nat) : Nat := s.spad32 c (d + 640 + 56 * t + 4 * i)
        let fresh (i : Nat) : Nat := (new.eta ++ new.lam).getD i 0
        let res (i : Nat) : Nat := if g.cv = true then f32Fma g.beta (f32Sub (old i) (fresh i)) (fresh i) else fresh i
        let msgOut : Gaus := ⟨(List.range g.dim).map res, (List.range m).map fun i => res (g.dim + i)⟩
        ∃ u : State, s.doGmu w b d t = .ok (u.sendMsg c g (field w0 40 16) g.beta msgOut) ∧ u.net = s.net
          ∧ (∀ i < g.dim + m, u.spad32 c (d + 640 + 56 * t + 4 * i) = res i) ∧ (u.rd64 (spad c (d + 72 + 16 * t))).getLsbD 0 = true
          ∧ u.spad32 c (d + 8) = f32Max (s.spad32 c (d + 8)) (Gaus.maxAbs ⟨(List.range (g.dim + m)).map fun i =>
              if g.cv = true then f32Sub (res i) (old i) else res i, []⟩)
          ∧ ∀ i < nb, i ≠ t → ((u.core c).chan (s.gChan c b (s.gEnt c d i))).dirty.getLsbD (s.gEnt c d i).slot = false))
  ∧ (∀ (w : Work) (k : Nat) (left : List Nat) (ks : List Nat) (i j : Nat), i ≤ j → j < w.eta.length → w.lam.length = w.eta.length →
    (∀ r ∈ w.lam, r.length = w.eta.length) →
    let at_ (x : Work) (i j : Nat) : Nat := (x.lam.getD (min i j) []).getD (max i j) 0
    let l (i : Nat) : Nat := f32Neg (f32Div (at_ w i k) (at_ w k k))
    (at_ (w.elim k left) i j = if i ∈ left ∧ j ∈ left then f32Fma (l i) (at_ w k j) (at_ w i j) else at_ w i j)
    ∧ ((w.elim k left).eta.getD i 0 = if i ∈ left then f32Fma (l i) (w.eta.getD k 0) (w.eta.getD i 0) else w.eta.getD i 0)
    ∧ (w.elims left [] = .ok w)
    ∧ ((f32v (at_ w k k)).cmp (.fin false 1 (-100)) = some .gt → w.elims left (k :: ks) = (w.elim k (left.filter (· != k))).elims (left.filter (· != k)) ks)
    ∧ ((f32v (at_ w k k)).cmp (.fin false 1 (-100)) ≠ some .gt → w.elims left (k :: ks) = .error k)
    ∧ (∀ (st dim : Nat) (m : Gaus), let u := w.addMsg st dim m
      (u.eta.getD i 0 = if st ≤ i ∧ i < st + dim then f32Add (w.eta.getD i 0) (m.eta.getD (i - st) 0) else w.eta.getD i 0)
      ∧ (at_ u i j = if st ≤ i ∧ j < st + dim then f32Add (at_ w i j) (m.lam.getD (packed dim (i - st) (j - st)) 0) else at_ w i j)))
  ∧ (∃ w, (Work.elims ⟨[0, 0x3F800000], [[0x40000000, 0xBF800000], [0, 0x40400000]]⟩ [0, 1] [1]) = .ok w ∧ w.block 0 1 = ⟨[0x3EAAAAAB], [0x3FD55555]⟩)
  ∧ (∀ (s : State) (c : CoreId) (g : GEnt) (node beta : Nat) (m : Gaus), g.oslot < 64 → g.dim < 16 → node < 2 ^ 16 → beta < 2 ^ 32 →
    m.eta.length + m.lam.length ≤ 60 →
    let vals := m.eta ++ m.lam
    let words : List Word := [BitVec.ofNat 64 (node * 2 ^ 16 + g.dim), BitVec.ofNat 64 beta]
      ++ (List.range ((vals.length + 1) / 2)).map fun i => BitVec.ofNat 64 (vals.getD (2 * i) 0 + 2 ^ 32 * vals.getD (2 * i + 1) 0)
    let n := (words.length + 6) / 7
    ∃ ps : List Packet, (s.sendMsg c g node beta m).net = s.net ++ ps.map .gaussPartReceive ∧ ps.length = n
      ∧ ∀ i < n, ∃ k, ps[i]? = some k ∧ k.dst = g.core ∧ k.chan = g.chan ∧ k.src = c ∧ k.pid = (s.core c).part ∧ k.eos = decide (i + 1 = n)
        ∧ k.ws = BitVec.ofNat 64 (g.oslot * 2 ^ 58 + i * 2 ^ 55) :: (words.drop (7 * i)).take 7))

/-- Barriers: an arrival at a line in a scratchpad counts, sets the core's group, and is answered with the generation before it; the last arrival turns
the phase, clears the counts and wakes every group; the answer fills the task's wait record, and an advance in it or a wake with another generation
ends the wait (spec/11, spec/14, R216, R287, R288). Completes: barrierArrive, barrierBytes, barrierWake, arrivalReply. Where the spec leaves a point
open, the clauses rest on the model's choices of log entry 41. -/
def Obligations.BarriersCountAndWake : Prop :=
  ∀ s : State,
    (∀ m : ArriveReq, s.ev = some (.barrierArrive m) →
      let a := m.pa.toNat
      let d := s.memLine (a / 64)
      let k := s.core (BitVec.ofNat 11 (a / 2 ^ 19))
      let w0 := lineWord d 0
      paRegion a = 1 → s.paBad a = false → s.isLost a = false → k.part = m.who.pid → s.sealedHit (BitVec.ofNat 11 (a / 2 ^ 19)) (a % 2 ^ 19) 64 = false → k.imageHit none (a % 2 ^ 19) 64 = false →
      s.poiAt (a / 64) = 0 →
      (w0.getLsbD 63 = false →
        exec .barrierArrive s = .next ((s.emit (.arrivalReply m.who 0 false (some (cBadBarrier, m.fptr)) m.headPc m.buoy false)).setMemLine (a / 64) d))
      ∧ (w0.getLsbD 63 = true → field w0 16 16 + 1 < field w0 32 16 →
        ∃ t, exec .barrierArrive s = .next t
          ∧ t.net = s.net ++ [.arrivalReply m.who (BitVec.ofNat 32 (field (lineWord d 3) 32 32)) false none m.headPc m.buoy false]
          ∧ field (lineWord (t.memLine (a / 64)) 0) 16 16 = field w0 16 16 + 1
          ∧ (t.memLine (a / 64)).extractLsb' 256 256 = d.extractLsb' 256 256 ||| BitVec.ofNat 256 (2 ^ (m.who.core.toNat / 8)))
      ∧ ∀ u : BarUpd, barUpdate d (some m.who.core) 0 = some u → u.adv = true → exec .barrierArrive s = .next
          (((s.emit (.arrivalReply m.who u.gen true none m.headPc m.buoy false)).emits (u.grps.flatMap fun g => (List.range 8).map fun i =>
            .barrierWake (BitVec.ofNat 11 (8 * g + i)) (BitVec.ofNat 50 (a / 64)) (u.gen + 1))).setMemLine (a / 64) u.line))
    ∧ (∀ (m : ArriveReq) (f : BankFacts) (x : CLine), s.ev = some (.barrierArrive m) → s.bankFacts (.barrierArrive m) = some f → paRegion m.pa.toNat = 0 →
      s.paBad m.pa.toNat = false → s.isLost m.pa.toNat = false → s.sliceOwner (s.lineSlice m.who.pid m.pa.toNat) = some m.who.pid → s.keyOk m.key m.who.pid = true →
      s.cached (s.placeFor f) = some x → x.key = m.key → x.chk = lineCheck x.data → x.poi = 0 → x.shar = 0 → (∀ y ∈ s.fills, y.1 ≠ s.placeFor f ∧ s.anyPair y.2 f = false) →
      (∀ w ∈ s.invw, w.ln ≠ s.lineFor f ∧ s.anyPair w.reqs f = false) →
      let bank := s.bankOf m.who.pid m.pa.toNat
      ∀ u : BarUpd, barUpdate x.data (some m.who.core) 0 = some u → exec .barrierArrive s = .next
        (((((s.emit (.arrivalReply m.who u.gen u.adv none m.headPc m.buoy (s.marked bank))).emits (u.grps.flatMap fun g => (List.range 8).map fun i =>
          .barrierWake (BitVec.ofNat 11 (8 * g + i)) (BitVec.ofNat 50 (m.pa.toNat / 64)) (u.gen + 1))).countBank (bank / 16) (s.marked bank)).installLine
            { x with data := u.line, dirty := true, chk := lineCheck u.line })))
    ∧ (∀ m : BytesReq, s.ev = some (.barrierBytes m) →
      let a := m.pa.toNat
      let d := s.memLine (a / 64)
      let k := s.core (BitVec.ofNat 11 (a / 2 ^ 19))
      (s.paBad a = true → exec .barrierBytes s = .next (s.emit (.memrepReceive ⟨m.who.core, .cx m.cch m.id .post, .fault cPaFault 0, m.buoy, false⟩)))
      ∧ (paRegion a = 1 → s.paBad a = false → s.isLost a = false → k.part = m.who.pid → s.sealedHit (BitVec.ofNat 11 (a / 2 ^ 19)) (a % 2 ^ 19) 64 = false → k.imageHit none (a % 2 ^ 19) 64 = false →
        s.poiAt (a / 64) = 0 → (lineWord d 0).getLsbD 63 = true → field (lineWord d 0) 16 16 < field (lineWord d 0) 32 16 →
        ∃ t, exec .barrierBytes s = .next t ∧ t.net = s.net ++ [.memrepReceive ⟨m.who.core, .cx m.cch m.id .post, .ok, m.buoy, false⟩]
          ∧ field (lineWord (t.memLine (a / 64)) 2) 0 48 = min (field (lineWord d 2) 0 48 + m.n) (2 ^ 48 - 1)))
    ∧ (∀ (d : Line) (c : CoreId), (lineWord d 0).getLsbD 63 = true → field (lineWord d 0) 32 16 ≤ min (field (lineWord d 0) 16 16 + 1) 65535 →
      field (lineWord d 1) 0 48 ≤ field (lineWord d 2) 0 48 →
      ∃ u, barUpdate d (some c) 0 = some u ∧ u.adv = true ∧ u.gen.toNat = field (lineWord d 3) 32 32
        ∧ field (lineWord u.line 0) 16 16 = 0 ∧ field (lineWord u.line 2) 0 48 = 0 ∧ (lineWord u.line 0).getLsbD 62 = !(lineWord d 0).getLsbD 62
        ∧ field (lineWord u.line 3) 32 32 = (field (lineWord d 3) 32 32 + 1) % 2 ^ 32 ∧ u.line.extractLsb' 256 256 = 0
        ∧ ∀ g, g ∈ u.grps ↔ g < 256 ∧ (g = c.toNat / 8 ∨ d.getLsbD (256 + g) = true))
    ∧ (∀ (d : Line) (n : Nat), (lineWord d 0).getLsbD 63 = true → field (lineWord d 0) 16 16 < field (lineWord d 0) 32 16 →
      ∃ u, barUpdate d none n = some u ∧ u.adv = false ∧ u.grps = [] ∧ field (lineWord u.line 2) 0 48 = min (field (lineWord d 2) 0 48 + n) (2 ^ 48 - 1)
        ∧ lineWord u.line 0 = lineWord d 0)
    ∧ (∀ (c : CoreId) (ln : BitVec 50) (gen : BitVec 32), s.ev = some (.barrierWake c ln gen) →
      ((∀ h, (s.ent c h).v = true → (s.ent c h).bar.line ≠ ln) →
        ((∀ q ∈ (s.core c).cxq ++ (s.core c).fifo, q.gate = none) → exec .barrierWake s = .next s)
        ∧ (∀ q ∈ (s.core c).cxq ++ (s.core c).fifo, ∀ g, q.gate = some (ln, g) → g ≠ gen → exec .barrierWake s = .next (s.emit (.haloStart c ln gen))))
      ∧ ((∀ q ∈ (s.core c).cxq ++ (s.core c).fifo, q.gate = none) → (∀ h, (s.ent c h).bar.bw = false) →
        ∃ t, exec .barrierWake s = .next t ∧ t.mem = s.mem ∧ t.net = s.net
          ∧ ∀ h, let b := (s.ent c h).bar
            (t.ent c h).bar = if (s.ent c h).v = true ∧ b.line = ln then { b with wg := gen, wk := true, adv := b.adv || (b.rep && gen != b.gen) } else b))
    ∧ (∀ (w : Who) (gen : BitVec 32) (adv m : Bool) (code : Code) (x : Word) (pc : VA) (b : Option Sys2Proof.Step) (u : State),
      s.ev = some (.arrivalReply w gen adv (some (code, x)) pc b m) → (b = none ∧ u = s ∨ ∃ y, b = some y ∧ s.returnStep w.core y (m || s.peerMarked w.core y) = some u) →
      let e := u.ent w.core w.hidx
      (e.v = true → e.bar.bw = true → e.lref = w.lref → e.tix = w.tix →
        exec .arrivalReply s = .next ((u.barFault w.core w.hidx code x pc).afterReply w.core))
      ∧ (e.v = false ∨ e.bar.bw = false ∨ e.lref ≠ w.lref ∨ e.tix ≠ w.tix → exec .arrivalReply s = .next (u.afterReply w.core)))
    ∧ (∀ (w : Who) (gen : BitVec 32) (adv m : Bool) (pc : VA) (b : Option Sys2Proof.Step) (u : State), s.ev = some (.arrivalReply w gen adv none pc b m) →
      (b = none ∧ u = s ∨ ∃ y, b = some y ∧ s.returnStep w.core y (m || s.peerMarked w.core y) = some u) →
      let e := u.ent w.core w.hidx
      e.v = true → e.bar.bw = true → e.lref = w.lref → e.tix = w.tix →
      exec .arrivalReply s = .next (((u.modEnt w.core w.hidx fun e =>
        { e with bar := { e.bar with rep := true, gen := gen, adv := adv || (e.bar.wk && e.bar.wg != gen) } }).barCheck w.core w.hidx).afterReply w.core))

/-- CX: the requests of the queue go to the FIFO, whose head starts when a transfer is free and its order and its gate allow; a wake of another
generation opens its gate. A transfer translates its barrier, settles, and takes up its units: a unit's source is read once its translations are
there, and then it is written; with no unit left the transfer ends, a stopped one as a stop asks. A post adds the bytes of at most 16 units; a wrong
tag stops the transfer; completion passes CXDONE over what is complete, releases its moorings and files its error (spec/06, spec/10, spec/18, R138,
R193, R195, R375 to R382). Completes: cxTransferStart, haloStart, cxUnitWrite, cxBytesPost, gcmTagCheck, cxTransferComplete. Where the spec leaves a
point open, the clauses rest on the model's choices of log entries 33, 59, 60. -/
def Obligations.CopiesStartMoveAndComplete : Prop :=
  ∀ (s : State) (c : CoreId),
    (∀ (q : CxReq) (rest : List CxReq), s.ev = some (.cxTransferStart c) → (s.core c).fifo ++ (s.core c).cxq = q :: rest →
      ((s.core c).xfers.length < 4 → q.gate = none → (q.ord = false ∨ (s.core c).cxDone q.cch = q.id) →
        ∃ (t : State) (x : CxXfer), exec .cxTransferStart s = .next t ∧ t.mem = s.mem ∧ (t.core c).fifo = rest ∧ (t.core c).cxq = []
          ∧ (t.core c).xfers = (s.core c).xfers ++ [x] ∧ x.req = q ∧ x.row = 0 ∧ x.pos = 0 ∧ x.code = q.bad.map (fun a => (cPoison, a))
          ∧ x.stage = (if q.barPtr = 0 then 1 else 0) ∧ t.net = s.net ++ [.cxUnitWrite c q.cch q.id, .cxTransferStart c])
      ∧ ((4 ≤ (s.core c).xfers.length ∨ q.gate ≠ none ∨ (q.ord = true ∧ (s.core c).cxDone q.cch ≠ q.id)) →
        exec .cxTransferStart s = .next (s.modCore c fun k => { k with fifo := k.fifo ++ k.cxq, cxq := [] })))
    ∧ (∀ (ln : BitVec 50) (gen : BitVec 32), s.ev = some (.haloStart c ln gen) →
      let opened (q : CxReq) : CxReq := match q.gate with
        | some (l, g) => if l = ln ∧ g ≠ gen then { q with gate := none } else q
        | none => q
      ∃ t, exec .haloStart s = .next t ∧ t.mem = s.mem ∧ t.net = s.net ++ [.cxTransferStart c]
        ∧ (t.core c).fifo = (s.core c).fifo.map opened ∧ (t.core c).cxq = (s.core c).cxq.map opened)
    ∧ (∀ (cch : BitVec 2) (id : BitVec 32) (x : CxXfer), (s.core c).xfer cch id = some x →
      let y : CxXfer := { x with stuck := false }
      let q := x.req
      (s.ev = some (.cxUnitWrite c cch id) → x.await = none → (x.pend.length < 16 ∨ x.post = true) →
        (∀ d : AtcEntry, x.stage = 0 → (s.core c).atcFind q.who.sid (ptrVa q.barPtr) = some d → d.rts.getLsbD rWrite = true →
          exec .cxUnitWrite s = .next ((s.setXfer c { y with stage := 1, bar := some (BitVec.ofNat 56 (atcPa d (ptrVa q.barPtr)), d.key) }).emit
            (.cxUnitWrite c q.cch q.id)))
        ∧ (x.stage = 1 → q.mode ≠ 5 → q.mode ≠ 6 → exec .cxUnitWrite s = .next ((s.setXfer c { y with stage := 2 }).emit (.cxUnitWrite c q.cch q.id)))
        ∧ (x.stage = 2 → x.stop = false → x.row < q.rows → x.flight = [] →
          ∀ (l : List (Piece × AtcEntry)) (d : AtcEntry),
            s.engPieces c q.who.sid rRead (pieces 64 (q.srcBytes x.row x.pos (q.unitAt x.row x.pos).2)) = (l, none) →
            (s.core c).atcFind q.who.sid (ptrVa (q.dstPtr x.row x.pos)) = some d → d.rts.getLsbD rWrite = true →
            let pa := atcPa d (ptrVa (q.dstPtr x.row x.pos))
            let failed (code : Code) : State :=
              (s.setXfer c (y.push (y.unit noDst [] (some (code, q.dstPtr x.row x.pos)) []))).emit (.cxUnitWrite c q.cch q.id)
            (cxRefused c q d pa = true → exec .cxUnitWrite s = .next (failed cNoRight))
            ∧ (cxRefused c q d pa = false →
              (s.paBad pa = true → exec .cxUnitWrite s = .next (failed cPaFault))
              ∧ (s.paBad pa = false → s.isLost pa = true → exec .cxUnitWrite s = .next (failed cHosthomeLost))
              ∧ (s.paBad pa = false → s.isLost pa = false → paRegion pa = 0 → s.keyOk d.key q.who.pid = false → exec .cxUnitWrite s = .next (failed cKeyEmpty))
              ∧ (s.paBad pa = false → s.isLost pa = false → (paRegion pa ≠ 0 ∨ s.keyOk d.key q.who.pid = true) →
                exec .cxUnitWrite s = .next ((s.setXfer c (y.push (y.unit d (s.cxReadReqs c q y.next l) none (l.flatMap fun z => logBytes z.2 z.1.n)))).emit
                  (.cxUnitWrite c q.cch q.id)))))
        ∧ (∀ u : CxUnit, x.stage = 2 → x.stop = false → q.rows ≤ x.row → x.flight = [u] →
          (∀ key : Option KeySlot, u.sent = false → u.reqs = [] → u.reads = 0 → u.bad = none → x.pend.length < 16 →
            (if q.mode = 5 ∨ q.mode = 6 then x.nokey = false ∧ key ≠ none ∧ s.gcmKey (s.core c).part q = key else key = none) →
            let w := s.cxWriteReq c q u []
            (s.core c).hasStep w.buoy = true → s.pathOk c (s.pathOf c w) = true →
            let out := y.unitBytes (s.core c) key u
            let z := s.withStep c (s.cxWriteReq c q u out.1)
            exec .cxUnitWrite s = .next ((z.2.dispatch z.1).setXfer c { out.2 with flight := [{ u with sent := true, got := [] }] }))
          ∧ (u.sent = false → u.reqs = [] → u.reads = 0 → u.bad = none → x.pend.length < 16 → (q.mode = 5 ∨ q.mode = 6) →
            (x.nokey = true ∨ s.gcmKey (s.core c).part q = none) →
            exec .cxUnitWrite s = .next ((s.setXfer c { y with flight := [{ u with bad := some (cKeyEmpty, q.srcAt (x.want u)) }] }).emit
              (.cxUnitWrite c q.cch q.id)))
          ∧ (u.sent = true → u.res = some none → u.poi = [] → q.mode ≠ 5 →
            exec .cxUnitWrite s = .next (s.cxEnd c { y with flight := [], pend := if x.bar.isSome = true then x.pend ++ [u.size] else x.pend })))
        ∧ (x.stage = 2 → q.rows ≤ x.row → x.flight = [] → x.stop = false →
          (q.mode ≠ 5 → exec .cxUnitWrite s = .next (s.cxEnd c y))
          ∧ (q.mode = 5 → exec .cxUnitWrite s = .next ((s.setXfer c { y with stage := 3 }).emit (.gcmTagCheck c q.cch q.id))))
        ∧ (x.stage = 2 → x.flight = [] → x.stop = true → q.mode ≠ 5 → exec .cxUnitWrite s = .next (s.cxEnd c y)))
      ∧ (∀ (pa : PA) (key : BitVec 6), s.ev = some (.cxBytesPost c cch id) → x.bar = some (pa, key) → x.post = false →
        (x.stage = 4 ∨ 16 ≤ x.pend.length) → (x.pend.take 16).sum ≠ 0 →
        let rcv := s.receiver c (s.core c).part pa.toNat false false
        let b := receiverBuoy pa.toNat rcv
        (∀ z, b = some z → 0 < ((s.core c).buoy z).val) → s.pathOk c ⟨q.who.sid, ptrVa q.barPtr, rcv, true⟩ = true →
        exec .cxBytesPost s = .next (((s.takeStep c b (.mem ⟨q.hidx, .cx cch id .post, q.barPtr, q.who.sid, rcv, true⟩)).setXfer c
          { x with pend := x.pend.drop 16, post := true }).emit (.barrierBytes ⟨q.who, pa, key, (x.pend.take 16).sum, cch, id, some (s.stepOf c b)⟩)))
      ∧ (∀ (ks : KeySlot) (u : CxUnit), s.ev = some (.gcmTagCheck c cch id) → x.stage = 3 → x.await = none → x.flight = [u] → u.reqs = [] → u.reads = 0 →
        u.bad = none → u.poi = [] → x.nokey = false → s.gcmKey (s.core c).part q = some ks →
        let bs := (List.range 16).map (ptrVa q.w1 + q.len + ·)
        let tag := gcmTag (roundKeys (keyBytes ks)) q.iv q.aad.length q.len (x.gh, x.ct)
        (tag = bs.map (fun b => Tab.get 0 u.got b) → exec .gcmTagCheck s = .next (s.cxEnd c { y with pend := q.unitSizes }))
        ∧ (tag ≠ bs.map (fun b => Tab.get 0 u.got b) → exec .gcmTagCheck s = .next (s.cxStop c y cTagfail q.w2)))
      ∧ (s.ev = some (.cxTransferComplete c cch id) → x.stage = 4 → x.post = false → x.unposted = false → x.code = none → q.cch = cch → q.id = id →
        (∀ h, (s.ent c h).copy.cw = false) → (s.ent c q.hidx).st ≠ 5 → (s.core c).cxDone cch = id → (cch, id + 1) ∉ (s.core c).cxfin → (cch, id) ∉ (s.core c).cxfin →
        ∃ t, exec .cxTransferComplete s = .next t ∧ t.mem = s.mem ∧ (t.core c).cxDone cch = id + 1 ∧ (t.core c).xfer cch id = none
          ∧ t.net = s.net ++ [.cxTransferStart c])
      ∧ (s.ev = some (.cxTransferComplete c cch id) → x.stage = 4 → x.post = false → x.unposted = false → x.code = none → q.cch = cch → q.id = id →
        ∃ t, exec .cxTransferComplete s = .next t ∧ t.mem = s.mem ∧ (t.core c).xfer cch id = none ∧ .cxTransferStart c ∈ t.net
          ∧ ((s.core c).cxDone cch ≠ id → (cch, (s.core c).cxDone cch) ∉ (s.core c).cxfin → (t.core c).cxDone cch = (s.core c).cxDone cch
            ∧ (cch, id) ∈ (t.core c).cxfin)
          ∧ ((s.core c).cxDone cch = id → (cch, id + 1) ∉ (s.core c).cxfin → (cch, id) ∉ (s.core c).cxfin →
            (t.core c).cxDone cch = id + 1 ∧ ∀ h, (s.ent c h).v = true → (s.ent c h).copy.cw = true → (s.ent c h).copy.cch = cch → (s.ent c h).copy.id = id →
              (s.ent c h).st = 3 → (t.ent c h).copy.cw = false ∧ (t.ent c h).st = 1))
      ∧ (∀ (code : Code) (fva : Word), s.ev = some (.cxTransferComplete c cch id) → x.stage = 4 → x.post = false → x.unposted = false → x.code = some (code, fva) →
        (s.ent c q.hidx).v = true → (s.ent c q.hidx).st ≠ 5 → (s.core c).cxerr.length < 4 →
        ∃ t, exec .cxTransferComplete s = .next t ∧ t.mem = s.mem ∧ (t.core c).cxerr = (s.core c).cxerr ++ [⟨cch, q.hidx, code, id, fva⟩]))

/-- Links: slots are sealed under the counter and raise it, and a sixteenth failed tag in a row brings the link down; keys are loaded, switched and
erased by bank; a function's states follow TDISP; a bad header is discarded and counted; multicast forks at each router, and what is blocked there
waits or becomes unicast; a bank-operation record is performed when its second line follows its first (spec/01, spec/07, spec/14, spec/20, spec/21,
R24, R143, R284, R409, R410, R414, R418, R419, R420, R423). Completes: portHeaderDiscard, multicastReplicate, multicastBlockTimeout, bankOpLine0,
bankOpLine1, flitSend, flitReceive, ideKeySwitch, ideOldBankErase, vfConfigChange, vfTeardown, vfDrainExpiry, tdispLock, tdispStart, tdispStop,
linkKeyLoad, keyEx, hostPortRemoval, peerDeviceDeconfigure. Where the spec leaves a point open, the clauses rest on the model's choices of log
entries 47, 60. -/
def Obligations.LinksKeysAndFunctionsFollowTheirRules : Prop :=
  ∀ s : State,
    (∀ (n : Fin 24) (k : BitVec 256), (s.port n.toNat).up = true → (s.port n.toNat).key = some k →
      let p := s.port n.toNat
      let down (t : State) : Prop := t.net = s.net ++ [.linkDown (.port n)] ∧ (t.port n.toNat).up = false ∧ (t.port n.toNat).key = none
      (∀ bs : List Byte, s.ev = some (.flitSend (.slot n bs)) →
        let ct := gcmXor (roundKeys (linkKeyBytes k)) (slotIv p p.tx) 0 bs
        let sent := s.out ++ [Event.slotOut n ct (slotTag k (slotIv p p.tx) ct)]
        (p.bad < 16 → p.tx.toNat + 1 < 2 ^ 63 → p.rx.toNat < 2 ^ 63 →
          exec .flitSend s = .next ({ s with out := sent }.modPort n.toNat fun p => { p with tx := p.tx + 1, egress := p.egress - 1 }))
        ∧ (p.tx.toNat + 1 = 2 ^ 63 → ∃ t, exec .flitSend s = .next t ∧ t.out = sent ∧ down t))
      ∧ ∀ (crc : Bool) (bs tag : List Byte), s.ev = some (.flitReceive (.slot n crc bs tag)) →
        (p.tx.toNat < 2 ^ 63 → p.rx.toNat + 1 < 2 ^ 63 →
          (crc = true → slotTag k (slotIv p p.rx) bs = tag →
            exec .flitReceive s = .next (s.modPort n.toNat fun p => { p with rx := p.rx + 1, bad := 0 }))
          ∧ (crc = false → p.bad < 16 → exec .flitReceive s = .next (s.modPort n.toNat fun p => { p with rx := p.rx + 1 }))
          ∧ (crc = true → slotTag k (slotIv p p.rx) bs ≠ tag → p.bad < 15 →
            exec .flitReceive s = .next (s.modPort n.toNat fun p => { p with rx := p.rx + 1, bad := p.bad + 1 }))
          ∧ (crc = true → slotTag k (slotIv p p.rx) bs ≠ tag → p.bad = 15 → ∃ t, exec .flitReceive s = .next t ∧ down t))
        ∧ (p.rx.toNat + 1 = 2 ^ 63 → ∃ t, exec .flitReceive s = .next t ∧ down t))
    ∧ (∀ (n : Fin 24) (bs tag : List Byte) (crc : Bool), ((s.port n.toNat).up = false ∨ (s.port n.toNat).key = none) →
      (s.ev = some (.flitSend (.slot n bs)) → exec .flitSend s = .next s)
      ∧ (s.ev = some (.flitReceive (.slot n crc bs tag)) → exec .flitReceive s = .next s))
    ∧ (∀ n : Fin 24, s.ev = some (.linkKeyLoad (.port n)) →
      let session : Prop := (Tab.get Fn.reset s.fns 0).sess.isSome = true ∨ (Tab.get Fn.reset s.fns 32).sess.isSome = true
      (¬session → exec .linkKeyLoad s = .next s)
      ∧ (session → ∃ t, exec .linkKeyLoad s = .next t ∧ (t.port n.toNat).key = some (Config.sessionKey s.free) ∧ (t.port n.toNat).tx = 0
        ∧ (t.port n.toNat).rx = 0 ∧ (t.port n.toNat).bad = 0 ∧ (t.port n.toNat).salt = (Config.sessionKey (s.free + 1)).setWidth 32
        ∧ (t.port n.toNat).up = true ∧ t.free = s.free + 2))
    ∧ (∀ f : FnId,
      let x := s.fn f
      (s.ev = some (.linkKeyLoad (.ide f)) →
        (x.sess = none → exec .linkKeyLoad s = .next s)
        ∧ (x.sess ≠ none → ∃ t, exec .linkKeyLoad s = .next t ∧ t.free = s.free + 2
          ∧ (t.fn f).tx.bank (!x.tx.sel) = some (Config.sessionKey s.free) ∧ (t.fn f).rx.bank (!x.rx.sel) = some (Config.sessionKey s.free)
          ∧ (t.fn f).tx.bank x.tx.sel = x.tx.bank x.tx.sel ∧ (t.fn f).rx.bank x.rx.sel = x.rx.bank x.rx.sel ∧ (t.fn f).tx.sel = x.tx.sel
          ∧ (t.fn f).rx.sel = x.rx.sel ∧ (t.fn f).tx.count = 1))
      ∧ (s.ev = some (.flitSend (.ide f)) →
        ((x.tx.bank x.tx.sel).isSome = true → exec .flitSend s = .next { s with out := s.out ++ [.ideOut f x.tx.sel] })
        ∧ ((x.tx.bank x.tx.sel).isNone = true → exec .flitSend s = .next s))
      ∧ (∀ gen : Bool, s.ev = some (.flitReceive (.ide f gen)) → ∃ t, exec .flitReceive s = .next t
        ∧ ((x.rx.bank gen).isNone = true → (t.fn f).st = 3 ∧ (t.fn f).rx = x.rx)
        ∧ ((x.rx.bank gen).isSome = true → (t.fn f).st = x.st ∧ (t.fn f).rx.sel = gen
          ∧ (gen ≠ x.rx.sel → (t.fn f).rx.count = 1 ∧ t.net = s.net)
          ∧ (gen = x.rx.sel → (t.fn f).rx.count = (if x.rx.count < 1024 then x.rx.count + 1 else x.rx.count)
            ∧ t.net = s.net ++ (if x.rx.count = 1023 then [.ideOldBankErase f] else []))))
      ∧ (s.ev = some (.ideKeySwitch f) →
        (x.tx.count = 1 → ∃ t, exec .ideKeySwitch s = .next t ∧ t.fn f = { x with tx := { x.tx with sel := !x.tx.sel, count := 0 } })
        ∧ (x.tx.count ≠ 1 → exec .ideKeySwitch s = .next s))
      ∧ (s.ev = some (.ideOldBankErase f) →
        (x.rx.count ≠ 1024 → exec .ideOldBankErase s = .next s)
        ∧ (x.rx.count = 1024 → ∃ t, exec .ideOldBankErase s = .next t
          ∧ (t.fn f).rx.bank (!x.rx.sel) = none ∧ (t.fn f).rx.bank x.rx.sel = x.rx.bank x.rx.sel ∧ (t.fn f).rx.sel = x.rx.sel))
      ∧ (s.ev = some (.tdispLock f) → (x.st = 0 → ∃ t, exec .tdispLock s = .next t ∧ t.fn f = { x with st := 1 }) ∧ (x.st ≠ 0 → exec .tdispLock s = .next s))
      ∧ (s.ev = some (.tdispStart f) → (x.st = 1 → ∃ t, exec .tdispStart s = .next t ∧ t.fn f = { x with st := 2 }) ∧ (x.st ≠ 1 → exec .tdispStart s = .next s))
      ∧ (s.ev = some (.tdispStop f) → (x.drain = false → ∃ t, exec .tdispStop s = .next t ∧ t.fn f = { x with st := 0 })
        ∧ (x.drain = true → exec .tdispStop s = .next s))
      ∧ (s.ev = some (.vfConfigChange f) → ((x.st = 1 ∨ x.st = 2) → ∃ t, exec .vfConfigChange s = .next t ∧ t.fn f = { x with st := 3 })
        ∧ (x.st ≠ 1 → x.st ≠ 2 → exec .vfConfigChange s = .next s))
      ∧ (s.ev = some (.vfTeardown f) → ∃ t, exec .vfTeardown s = .next t ∧ (t.fn f).st = 3 ∧ (t.fn f).drain = true ∧ .vfDrainExpiry f ∈ t.net
        ∧ (s.fills = [] → t.net = s.net ++ [.vfDrainExpiry f] ∧ t.mem = s.mem)
        ∧ ∀ (pl : Nat) (r : MemReq), s.fills = [(pl, [.bankRequest r])] →
          let hit : Prop := paRegion (64 * placeLine pl) = 4 ∧ s.through f (.bankRequest r) = true
          (hit → t.fills = []) ∧ (¬hit → t.fills = s.fills ∧ t.net = s.net ++ [.vfDrainExpiry f]))
      ∧ (s.ev = some (.vfDrainExpiry f) →
        (x.drain = true → ∃ t, exec .vfDrainExpiry s = .next t ∧ t.fn f = { x with gen := x.gen + 1, drain := false, tags := 0 })
        ∧ (x.drain = false → exec .vfDrainExpiry s = .next s))
      ∧ (∀ (v : Byte) (algs : Bool), s.ev = some (.keyEx f v algs) →
        let known : Prop := f.n = 0 ∨ f.n.toNat ≤ 16 ∧ s.pdesc (BitVec.ofNat 4 (f.n.toNat - 1)) ≠ none
        let speaks : Prop := (v = 0x12 ∨ v = 0x13) ∧ algs = true
        (known → speaks → ∃ t, exec .keyEx s = .next t ∧ t.fn f = { x with sess := some (Config.sessionKey s.free) } ∧ t.free = s.free + 1)
        ∧ ((¬known ∨ ¬speaks) → exec .keyEx s = .next s)))
    ∧ (∀ h : BitVec 1, s.ev = some (.hostPortRemoval h) → ∃ t, exec .hostPortRemoval s = .next t
      ∧ ∀ i, i < 2 → t.hosts.getLsbD i = (s.hosts.getLsbD i && i != h.toNat))
    ∧ (∀ d : BitVec 10, s.ev = some (.peerDeviceDeconfigure d) → ∃ t, exec .peerDeviceDeconfigure s = .next t ∧ t.mem = s.mem ∧ t.net = s.net
      ∧ ∀ n, n ∈ t.peers ↔ n ∈ s.peers ∧ n ≠ d.toNat)
    ∧ (∀ (l : LinkId) (w : Word), s.ev = some (.portHeaderDiscard l w) →
      let known (n : Nat) : Prop := n ∈ s.peers ∨ ∃ x ∈ s.cores, x.2.dev.toNat = n
      let bad : Prop := field w 12 4 ≠ 0 ∨ (w.getLsbD 49 = true ∧ field w 44 5 ≠ 0) ∨ (w.getLsbD 27 = true ∧ field w 22 5 ≠ 0)
        ∨ ¬known (field w 54 10) ∨ ¬known (field w 28 10)
      (bad → exec .portHeaderDiscard s = .next ((s.modPort (linkNo l) fun p => { p with err := p.err + 1 }).sysAt 0 [20, BitVec.ofNat 64 (linkNo l), w]))
      ∧ (¬bad → exec .portHeaderDiscard s = .next s))
    ∧ (∀ (x : BitVec 6) (y : BitVec 5) (m : McPacket), s.ev = some (.multicastReplicate x y m) →
      let c : CoreId := BitVec.ofNat 11 (x.toNat + 64 * y.toNat)
      let on (t : State) : State := t.emits (m.next.map fun r => mcAt r.1.toNat r.2.toNat m.pkt m.rect)
      ((∀ r ∈ m.next, (s.core (BitVec.ofNat 11 (r.1.toNat + 64 * r.2.toNat))).retry.length < 16) →
        (m.own = true → (s.core c).inChan.length < 4 → exec .multicastReplicate s = .next (on (s.chanArrive { m.pkt with dst := c })))
        ∧ (m.own = false → exec .multicastReplicate s = .next (on s)))
      ∧ (m.own = true → 4 ≤ (s.core c).inChan.length → m.next = [] →
        exec .multicastReplicate s = .next { s with net := .multicastReplicate x y m :: s.net }))
    ∧ (∀ (x : BitVec 6) (y : BitVec 5), s.ev = some (.multicastBlockTimeout x y) →
      let c : CoreId := BitVec.ofNat 11 (x.toNat + 64 * y.toNat)
      (s.firstBlocked x y = none →
        ((s.core c).retry = [] → exec .multicastBlockTimeout s = .next s)
        ∧ (∀ k : Packet, (s.core c).retry = [k] → (s.core k.dst).inChan.length < 4 →
          exec .multicastBlockTimeout s = .next ((s.modCore c fun x => { x with retry := [] }).emit (.chanPacketReceive k)))
        ∧ ∀ (k : Packet) (l : List Packet), (s.core c).retry = k :: l → 4 ≤ (s.core k.dst).inChan.length →
          ∃ t, exec .multicastBlockTimeout s = .next t ∧ t.net = s.net ++ [.multicastBlockTimeout x y] ∧ (t.core c).retry = k :: l ∧ t.mem = s.mem)
      ∧ ∀ m : McPacket, s.firstBlocked x y = some m → (s.core c).retry = [] → 1 ≤ (mcOwed c.toNat m).length → (mcOwed c.toNat m).length ≤ 16 →
        (∀ n ∈ mcOwed c.toNat m, 4 ≤ (s.core (BitVec.ofNat 11 n)).inChan.length) →
        ∃ t, exec .multicastBlockTimeout s = .next t ∧ t.mem = s.mem
          ∧ t.net = s.net.erase (.multicastReplicate x y m) ++ [.multicastBlockTimeout x y]
          ∧ List.Perm (t.core c).retry ((mcOwed c.toNat m).map fun n => { m.pkt with dst := BitVec.ofNat 11 n }))
    ∧ ∀ (h : BitVec 1) (sl : SliceId) (slot : BitVec 16) (d : Line) (p : Pid), s.sliceOwner sl.toNat = some p →
      (Tab.get Fn.reset s.fns (32 * h.toNat + p.toNat + 1)).st = 2 →
      let at_ := (h.toNat, sl.toNat, slot.toNat)
      (s.ev = some (.bankOpLine0 h sl slot d) → ∃ t, exec .bankOpLine0 s = .next t ∧ (t.bops.find? fun x => x.1 == at_) = some (at_, d)
        ∧ t.net = s.net ∧ t.mem = s.mem)
      ∧ (∀ d0 : Line, s.ev = some (.bankOpLine1 h sl slot d) → s.bops = [(at_, d0)] →
        (∀ r : MemReq, bankOpReq h p sl.toNat d0 d = some r → exec .bankOpLine1 s = .next ({ s with bops := [] }.emit (.bankRequest r)))
        ∧ (bankOpReq h p sl.toNat d0 d = none →
          exec .bankOpLine1 s = .next ({ s with bops := [] }.sysAt sl.toNat [21, h.setWidth 64, slot.setWidth 64])))
      ∧ (s.ev = some (.bankOpLine1 h sl slot d) → s.bops = [] → exec .bankOpLine1 s = .next (s.sysAt sl.toNat [21, h.setWidth 64, slot.setWidth 64]))

/-- Lines of the host and of peers: a count report updates its frame's counts; a move takes the 64 lines of a frame to the migration area; a grant
installs its line, or goes to the move that awaits it, and lets what waited go on, and one of an old generation is discarded; a snoop takes the line
back with its data, from the migration area too; a lost link quarantines what it homes, recovery writes it back, and a time-out poisons it (spec/20,
spec/23, R415, R416, R417, R420, R440). Completes: directoryCountReport, moveComplete, directoryGrant, snoop, linkDown, linkRecover,
quarantineTimeout. Where the spec leaves a point open, the clauses rest on the model's choices of log entries 28, 38. -/
def Obligations.HostLinesMoveAndAreQuarantined : Prop :=
  ∀ s : State,
    (∀ (sl : SliceId) (frame : BitVec 44) (h : Nat) (m : Migr), s.ev = some (.directoryCountReport sl frame h) →
      Tab.find (s.slice sl.toNat).migr frame.toNat = some m → exec .directoryCountReport s = .next
        ((s.modSlice sl.toNat fun k => { k with migr := Tab.set k.migr frame.toNat { m with h := h } }).moveTest sl.toNat frame.toNat))
    ∧ (∀ (sl frame : Nat) (m : Migr), Tab.find (s.slice sl).migr frame = some m →
      let starts : Prop := (s.slice sl).migOn = true ∧ m.move = false
        ∧ (m.area = none → 256 ≤ m.d ∧ 4 * m.h < m.d ∧ (s.slice sl).migr.countP (fun x => x.2.move && x.2.area.isNone) < (s.slice sl).area.length)
        ∧ (m.area ≠ none → 256 ≤ m.h ∧ 4 * m.d < m.h)
      (¬starts → s.moveTest sl frame = s)
      ∧ (starts → let t := s.moveTest sl frame
        t.net = s.net ++ [.moveComplete (BitVec.ofNat 6 sl) (BitVec.ofNat 44 frame)] ∧ t.mem = s.mem
          ∧ ∃ l, Tab.find (t.slice sl).migr frame = some { m with move := true, owed := l } ∧ (m.area ≠ none → l = m.owed ∧ t.out = s.out)
            ∧ (m.area = none → l.length = t.out.length - s.out.length
              ∧ ∀ n, n ∈ l ↔ n / 64 = frame ∧ ∀ x, s.cached (placeOf sl n) = some x → x.excl = false)))
    ∧ (∀ (sl : SliceId) (frame : BitVec 44) (m : Migr), s.ev = some (.moveComplete sl frame) →
      Tab.find (s.slice sl.toNat).migr frame.toNat = some m →
      let at_ (f i : Nat) : Nat := placeOf sl.toNat (64 * f + i)
      (m.move = false → exec .moveComplete s = .next s)
      ∧ (∀ (f : Nat) (rest : List Nat), m.move = true → m.area = none → (s.slice sl.toNat).area = f :: rest → f < 2 ^ 41 → f ≠ frame.toNat →
        ¬(256 ≤ m.h ∧ 4 * m.d < m.h) →
        ∃ t, exec .moveComplete s = .next t ∧ (t.slice sl.toNat).area = rest
          ∧ Tab.find (t.slice sl.toNat).migr frame.toNat = some { m with move := false, area := some f, owed := [] }
          ∧ ∀ i < 64, t.memLine (64 * f + i) = (s.lineNow (at_ frame.toNat i)).1 ∧ t.poiAt (64 * f + i) = (s.lineNow (at_ frame.toNat i)).2.1)
      ∧ (∀ f : Nat, m.move = true → m.area = some f → f < 2 ^ 41 → f ≠ frame.toNat → paRegion (4096 * frame.toNat) = 4 →
        s.torn ((s.sliceOwner sl.toNat).getD 0) (4096 * frame.toNat) = false → ¬(256 ≤ m.d ∧ 4 * m.h < m.d) →
        ∃ t, exec .moveComplete s = .next t ∧ (t.slice sl.toNat).area = (s.slice sl.toNat).area ++ [f]
          ∧ Tab.find (t.slice sl.toNat).migr frame.toNat = some { m with move := false, area := none, owed := [] }
          ∧ ∀ i < 64, let n := 64 * frame.toNat + i
            (n ∉ m.owed → t.memLine n = (s.lineNow (at_ f i)).1 ∧ t.poiAt n = (s.lineNow (at_ f i)).2.1) ∧ (n ∈ m.owed → t.memLine n = s.memLine n)))
    ∧ (∀ (sl : SliceId) (l : BitVec 50) (g : GrantKind) (gen : BitVec 4) (d : Line), s.ev = some (.directoryGrant sl l g gen d) →
      let ln := l.toNat
      let pl := placeOf sl.toNat ln
      let old (p : Pid) : Prop := paRegion (64 * ln) = 4 ∧ (Tab.get Fn.reset s.fns (fnAt p (64 * ln))).gen ≠ gen
      (∀ (r : MemReq) (rest : List Event) (f : BankFacts), Tab.find s.fills pl = some (.bankRequest r :: rest) → s.bankFacts (.bankRequest r) = some f →
        s.moving sl.toNat ln = none →
        (old f.pid → exec .directoryGrant s = .next s)
        ∧ (¬old f.pid → s.placeFor f = pl →
          let u := { (if paRegion (64 * ln) = 4 then s.freeTag (fnAt f.pid (64 * ln)) else s) with fills := Tab.del s.fills pl }
          (∀ x, s.cached pl = some x → exec .directoryGrant s = .next ((u.installLine { x with excl := g == .exclusive }).goOn (.bankRequest r :: rest)))
          ∧ (s.cached pl = none → exec .directoryGrant s = .next ((((u.setMemLine ln d).installLine
            ⟨ln, d, f.key, false, s.poiAt ln, lineCheck d, 0, g == .exclusive, sl.toNat, false⟩).countLink sl.toNat (f.pa / 4096) f.key).goOn
              (.bankRequest r :: rest)))))
      ∧ (∀ (m : Migr) (p : Pid), g = .exclusive → s.moving sl.toNat ln = some m → s.sliceOwner sl.toNat = some p →
        (old p → exec .directoryGrant s = .next s)
        ∧ (¬old p → ∃ t, exec .directoryGrant s = .next t
          ∧ Tab.find (t.slice sl.toNat).migr (ln / 64) = some { m with owed := m.owed.filter (· != ln) }
          ∧ (s.cached pl = none → t.memLine ln = d) ∧ (s.cached pl ≠ none → t.mem = s.mem ∧ ∀ x ∈ t.lines, x.place = pl → x.excl = true)))
      ∧ (s.moving sl.toNat ln = none → Tab.find s.fills pl = none → exec .directoryGrant s = .next s))
    ∧ (∀ (l : BitVec 50) (k : SnoopKind), s.ev = some (.snoop l k) →
      let ln := l.toNat
      (s.heldFor ln = [] → ∃ t, exec .snoop s = .next t ∧ (∀ x ∈ t.wbq, x.ln ≠ ln)
        ∧ (k = .invalidate → ∀ x ∈ t.lines, x.ln ≠ ln) ∧ (k = .downgrade → ∀ x ∈ t.lines, x.ln = ln → x.dirty = false ∧ x.excl = false)
        ∧ (∀ x ∈ s.lines, x.ln ≠ ln → x ∈ t.lines)
        ∧ ((∀ x ∈ s.wbq, x.ln ≠ ln) →
          ((∀ x ∈ s.lines, x.ln = ln → x.copy = true ∨ x.dirty = false) → t.mem = s.mem)
          ∧ ∀ x, (s.lines.filter fun x => x.ln == ln && !x.copy && x.dirty) = [x] → t.memLine ln = x.data ∧ t.poiAt ln = (if x.chk = lineCheck x.data then x.poi else 3)))
      ∧ ∀ (sl f : Nat) (m : Migr), s.heldFor ln = [(sl, f, m)] → (∀ x ∈ s.lines ++ s.wbq, x.ln ≠ ln) →
        let from_ := placeOf sl (64 * f + ln % 64)
        ∃ t, exec .snoop s = .next t ∧ t.memLine ln = (s.lineNow from_).1
          ∧ (∀ x ∈ t.lines, x.place = from_ → x.copy = true ∨ x.ln = ln) ∧ (∀ x ∈ t.wbq, x.place ≠ from_)
          ∧ Tab.find (t.slice sl).migr (ln / 64) = some { m with owed := ln :: m.owed }
          ∧ (k = .downgrade → ∃ x ∈ t.lines, x.ln = ln ∧ x.data = (s.lineNow from_).1 ∧ x.excl = false ∧ x.dirty = false)
          ∧ (k = .invalidate → ∀ x ∈ t.lines, x.ln ≠ ln))
    ∧ (∀ l : LinkId, s.ev = some (.linkDown l) →
      let loss := s.lossList l
      let room := 65536 - s.quar.length
      (∃ t, exec .linkDown s = .next t ∧ l ∈ t.downs ∧ (t.port (linkNo l)).up = false ∧ (∀ x ∈ t.lines, acrossLink l x.ln = false)
        ∧ (∀ x ∈ t.fills, acrossLink l (placeLine x.1) = false) ∧ (∀ k ∈ t.slices, ∀ m ∈ k.2.migr, acrossLink l (64 * m.1) = false)
        ∧ (∀ sl < 64, (s.slice sl).tail - (s.slice sl).head < 256 → (t.slice sl).tail = (s.slice sl).tail + 1)
        ∧ (∀ y ∈ loss.take room, (Tab.find t.quar (placeOf y.sl y.ln)).isSome = true ∧ y.ln / 64 ∈ t.lost)
        ∧ ((loss.map fun y => placeOf y.sl y.ln).Nodup → (loss.map (·.at_)).Nodup →
          ∀ y ∈ loss.take room, Tab.find t.quar (placeOf y.sl y.ln) = some (s.lineNow y.at_).1)
        ∧ (∀ y ∈ loss.drop room, t.poiAt y.ln = 3))
      ∧ (∀ x ∈ s.lines, x.dirty = true → acrossLink l x.ln = true → ⟨x.place, x.ln, x.sl⟩ ∈ loss)
      ∧ (∀ x ∈ s.wbq, acrossLink l x.ln = true → ⟨x.place, x.ln, x.sl⟩ ∈ loss)
      ∧ (∀ k ∈ s.slices, ∀ m ∈ k.2.migr, ∀ f : Nat, m.2.area = some f → acrossLink l (64 * m.1) = true →
        ∀ i < 64, 64 * m.1 + i ∉ m.2.owed → ⟨placeOf k.1 (64 * f + i), 64 * m.1 + i, k.1⟩ ∈ loss))
    ∧ (∀ l : LinkId, s.ev = some (.linkRecover l) →
      let mine (x : Nat × Line) : Bool := acrossLink l (placeLine x.1)
      ((∃ n, l = .port n ∧ (s.port n.toNat).key = none) → exec .linkRecover s = .next s)
      ∧ ((∀ n, l = .port n → (s.port n.toNat).key ≠ none) → ∃ t, exec .linkRecover s = .next t ∧ (t.port (linkNo l)).up = true ∧ l ∉ t.downs
        ∧ (l ∉ s.downs → t.quar = s.quar.filter fun x => !mine x)
        ∧ (l ∈ s.downs → t.quar = s.quar.filter (fun x => !mine x || s.kernelQuar x.1) ∧ ((∃ x ∈ t.quar, mine x = true) → .linkRecover l ∈ t.net))
        ∧ (∀ (h : BitVec 1) (n : Nat) (d : Line), l = .host h → s.quar = [(n, d)] → mine (n, d) = true → (l ∉ s.downs ∨ s.kernelQuar n = false) →
          t.memLine (placeLine n) = d ∧ t.lost = [])))
    ∧ ∀ (l : LinkId), s.ev = some (.quarantineTimeout l) →
      (l ∉ s.downs → exec .quarantineTimeout s = .next s)
      ∧ (l ∈ s.downs → ∃ t, exec .quarantineTimeout s = .next t
        ∧ (t.quar = s.quar.filter fun x => !acrossLink l (placeLine x.1)) ∧ ∀ x ∈ s.quar, acrossLink l (placeLine x.1) = true → t.poiAt (placeLine x.1) = 3)

/-- Partitions: a swap stops issue until the cores are drained and then saves and clears the partition; a restore brings it back; a fenced core is
passed over, its tasks gone; a re-enabled one keeps fewer blocks; a partition descriptor that is well-formed, disjoint and idle is applied and gives
its cores their partition, and one that is not changes nothing but its status; so with stitch descriptors (spec/19, spec/20, spec/21, R402, R404,
R407, R422, R434). Completes: swapOut, restore, coreFence, coreReenable, partitionDescriptorWrite, stitchDescriptorWrite. Where the spec leaves a
point open, the clauses rest on the model's choices of log entries 48, 60. -/
def Obligations.PartitionsAreWrittenSwappedAndRepaired : Prop :=
  ∀ s : State,
    (∀ p : Pid, s.ev = some (.swapOut p) →
      ((∃ c ∈ s.partCores p, s.coreDrained c = false) → exec .swapOut s = .next ((s.stopCores (s.partCores p) true).emit (.swapOut p)))
      ∧ ((∀ c ∈ s.partCores p, s.coreDrained c = true) → ∃ (t : State) (i : Image), exec .swapOut s = .next t ∧ Tab.find t.shadow p.toNat = some i
        ∧ (∀ e, e ∈ i.qbuf ↔ e ∈ s.qbuf ∧ e.pid = p) ∧ (∀ e, e ∈ t.qbuf ↔ e ∈ s.qbuf ∧ e.pid ≠ p)
        ∧ (∀ x, x ∈ i.cells ↔ x ∈ s.mem ∧ paRegion x.1 = 1 ∧ s.inPart p (x.1 / 2 ^ 19 % 2048) = true)
        ∧ (∀ x, x ∈ t.mem → ¬(paRegion x.1 = 1 ∧ s.inPart p (x.1 / 2 ^ 19 % 2048) = true))
        ∧ (∀ x, x ∈ i.recs ↔ x ∈ s.recs ∧ x.1 / 2 ^ 15 ∈ s.partSlices p) ∧ (∀ x, x ∈ t.recs ↔ x ∈ s.recs ∧ x.1 / 2 ^ 15 ∉ s.partSlices p)
        ∧ (∀ x, x ∈ i.objs ↔ x ∈ s.objs ∧ x.2.pid = p) ∧ (∀ x, x ∈ t.objs ↔ x ∈ s.objs ∧ x.2.pid ≠ p)
        ∧ (∀ x ∈ t.lines ++ t.wbq, x.sl ∉ s.partSlices p) ∧ i.key = Config.imageKey s.free ∧ t.free = s.free + 1
        ∧ (∀ c ∈ s.partCores p, Tab.find i.cores c = some (s.core (BitVec.ofNat 11 c)).image ∧ (t.core (BitVec.ofNat 11 c)).ents = []
          ∧ (t.core (BitVec.ofNat 11 c)).atc = [] ∧ (t.core (BitVec.ofNat 11 c)).stop = true)))
    ∧ (∀ k : Core, k.image.ents = k.ents ∧ k.image.chans = k.chans ∧ k.image.buoys = k.buoys ∧ k.image.sfq = k.sfq ∧ k.image.cxdone = k.cxdone
      ∧ k.image.cxnext = k.cxnext ∧ k.image.atc = [] ∧ k.image.ro = [])
    ∧ (∀ a : Acc, Acc.ofWords a.words = a ∧ a.words.length = 1 + a.elems.length)
    ∧ (∀ p : Pid, s.ev = some (.restore p) →
      (Tab.find s.shadow p.toNat = none → exec .restore s = .next s)
      ∧ (∀ i : Image, Tab.find s.shadow p.toNat = some i → (i.cores.map (·.1)).Nodup → (∀ x ∈ i.cores, x.1 < 2048 ∧ s.inPart p x.1 = true) →
        (∀ x ∈ i.cores, ∀ h, (x.2.ent h).v = true → (x.2.ent h).wpb.toNat + (x.2.ent h).nblk ≤ (s.core (BitVec.ofNat 11 x.1)).sblk.toNat) →
        let calm : Prop := ∀ x ∈ i.cores, ∀ h, (x.2.ent h).v = true → (x.2.ent h).st ≠ 2
        ∃ t, exec .restore s = .next t ∧ Tab.find t.shadow p.toNat = none ∧ t.qbuf = s.qbuf ++ i.qbuf ∧ .placement p ∈ t.net
          ∧ ((i.recs.map (·.1)).Nodup → ∀ x ∈ i.recs, Tab.find t.recs x.1 = some x.2) ∧ (calm → (i.objs.map (·.1)).Nodup → ∀ x ∈ i.objs, Tab.find t.objs x.1 = some x.2)
          ∧ ((i.lqs.map (·.1)).Nodup → ∀ x ∈ i.lqs, Tab.find t.lqs x.1 = some x.2)
          ∧ ((i.rings.map (·.1)).Nodup → ∀ x ∈ i.rings, ((t.slice x.1).ring, (t.slice x.1).head, (t.slice x.1).tail) = x.2)
          ∧ ∀ x ∈ i.cores, let k := t.core (BitVec.ofNat 11 x.1)
            let was := s.core (BitVec.ofNat 11 x.1)
            k.sblk = was.sblk ∧ k.part = was.part ∧ k.avail = was.avail ∧ k.stop = false ∧ k.chans = x.2.chans ∧ k.sfq = x.2.sfq ∧ k.cxdone = x.2.cxdone
              ∧ k.accs = ((i.accs.filter fun a => a.1 / 4 == x.1).map fun a => (a.1 % 4, Acc.ofWords a.2))
              ∧ (∀ b, (k.buoy b).ceil = (x.2.buoy b).ceil ∧ (k.buoy b).val = (k.buoy b).ceil)
              ∧ (calm → ∀ h, k.ent h = x.2.ent h)
              ∧ ∀ n < 2 ^ 19, let a := spad (BitVec.ofNat 11 x.1) n
                (4096 * was.sblk.toNat ≤ n → Mem.read t.mem a = 0)
                ∧ (n < 4096 * was.sblk.toNat → Mem.wf i.cells = true → Mem.read t.mem a = Mem.read i.cells a)))
    ∧ (∀ c : CoreId, s.ev = some (.coreFence c) →
      let u := s.modCore c fun k => { k with stop := true, avail := false }
      (s.coreDrained c.toNat = false → exec .coreFence s = .next (u.emit (.coreFence c)))
      ∧ (s.coreDrained c.toNat = true → exec .coreFence s = .next
        ((allIdx.filter fun h => (s.ent c h).v).foldl (fun (t : State) h => t.relocate (s.core c).part c h) u)))
    ∧ (∀ (p : Pid) (c : CoreId) (h : Hidx),
      let e := s.ent c h
      let moves : Prop := (e.st = 1 ∨ e.st = 2 ∨ e.st = 3 ∨ e.st = 4) ∧ e.gang = none ∧ (∀ a ∈ (s.core c).accs, a.2.own ≠ .task h)
        ∧ ∀ x ∈ (s.core c).chans, x.2.v = true → ¬(x.2.bh = true ∧ x.2.hidx = h)
          ∧ ¬(e.wpb.toNat ≤ x.2.base.toNat / 64 ∧ x.2.base.toNat / 64 < e.wpb.toNat + e.nblk)
      (∀ (x : Nat) (h' : Hidx) (b : Nat), moves → x ≠ c.toNat → s.roomAt x e.nblk = some (h', b) →
        (s.partCores p).find? (fun y => y != c.toNat && (s.roomAt y e.nblk).isSome) = some x → s.relocate p c h = s.moveTask c h (BitVec.ofNat 11 x) h' b)
      ∧ ((¬moves ∨ ∀ y ∈ s.partCores p, y ≠ c.toNat → s.roomAt y e.nblk = none) →
        s.relocate p c h = ((s.sysRec p [23, BitVec.ofNat 64 cCapacity.toNat, putField (BitVec.ofNat 64 h.toNat) 16 16 c.toNat]).dropDue c h).finishTask c h .fault))
    ∧ (∀ (c c' : CoreId) (h h' : Hidx) (b : Nat), let e := s.ent c h
      c ≠ c' → e.wpb.toNat + e.nblk ≤ 128 → b + e.nblk ≤ 128 → 0 < e.nblk →
      let t := s.moveTask c h c' h' b
      t.ent c h = .reset ∧ t.ent c' h' = { e with wpb := BitVec.ofNat 7 b } ∧ (∀ r ∈ (t.core c).sfq, r.hidx ≠ h)
        ∧ (t.core c').sfq = (s.core c').sfq ++ ((s.core c).sfq.filter fun r => r.hidx == h).map (fun r => { r with hidx := h' })
        ∧ field (t.ws c' (BitVec.ofNat 7 b) offTstat) 42 6 = h'.toNat
        ∧ ∀ n < 4096 * e.nblk, (n < offTstat ∨ offTstat + 8 ≤ n) →
          Mem.read t.mem (wsAddr c' (BitVec.ofNat 7 b) n) = Mem.read s.mem (wsAddr c e.wpb n))
    ∧ (∀ (c : CoreId) (n : Byte), s.ev = some (.coreReenable c n) → (s.core c).avail = true → exec .coreReenable s = .next s)
    ∧ (∀ (c : CoreId) (n : Byte), s.ev = some (.coreReenable c n) → (s.core c).avail = false →
      ∃ t, exec .coreReenable s = .next t ∧ (t.core c).sblk = n ∧ (t.core c).avail = true ∧ (t.core c).stop = false
        ∧ (∀ a, spad c 0 + 4096 * n.toNat ≤ a → a < spad c 0 + 2 ^ 19 → Mem.read t.mem a = 0)
        ∧ ∀ a, (a < spad c 0 + 4096 * n.toNat ∨ spad c 0 + 2 ^ 19 ≤ a) → Mem.read t.mem a = Mem.read s.mem a)
    ∧ (∀ (sl : SliceId) (ws : List Word), s.ev = some (.partitionDescriptorWrite sl ws) →
      let d := (List.range 12).map fun i => ws.getD i 0
      (pdescOk d = false → ∃ t, exec .partitionDescriptorWrite s = .next t ∧ t.cores = s.cores ∧ t.mem = s.mem
        ∧ field ((t.slice sl.toNat).pdesc.getD 0 0) 0 2 = 1 ∧ ∀ i, i ≠ 0 → i < 12 → (t.slice sl.toNat).pdesc.getD i 0 = (s.slice sl.toNat).pdesc.getD i 0)
      ∧ (∀ st : Nat, (pdescOk d = true ∧ s.descMeets sl.toNat d = true ∧ st = 2
          ∨ pdescOk d = true ∧ s.descMeets sl.toNat d = false ∧ s.descBusy d = true ∧ st = 3) →
        ∃ t, exec .partitionDescriptorWrite s = .next t ∧ t.cores = s.cores ∧ t.mem = s.mem ∧ field ((t.slice sl.toNat).pdesc.getD 0 0) 0 2 = st
          ∧ ∀ i, i ≠ 0 → i < 12 → (t.slice sl.toNat).pdesc.getD i 0 = (s.slice sl.toNat).pdesc.getD i 0)
      ∧ (pdescOk d = true → s.descMeets sl.toNat d = false → s.descBusy d = false → s.descBusy (s.slice sl.toNat).pdesc = false →
        ∃ t, exec .partitionDescriptorWrite s = .next t ∧ (∀ i, i < 12 → i ≠ 0 → (t.slice sl.toNat).pdesc.getD i 0 = ws.getD i 0)
          ∧ (inForce (sl.toNat, { Slice.reset with pdesc := d }) = true →
            ∀ c, c < 2048 → descCore d c = true → ((t.core (BitVec.ofNat 11 c)).part).toNat = field (ws.getD 0 0) 59 4)))
    ∧ (∀ (sl : SliceId) (n : BitVec 2) (w : Word), s.ev = some (.stitchDescriptorWrite sl n w) →
      let k := s.slice sl.toNat
      (shapeOk w = false → ∃ t, exec .stitchDescriptorWrite s = .next t
        ∧ Tab.get 0 (t.slice sl.toNat).stitch n.toNat = putField (Tab.get 0 k.stitch n.toNat) 0 2 1)
      ∧ (shapeOk w = true → (∀ c, c < 2048 → rectHas (stitchRect w) c = true → descCore k.pdesc c = true) →
        (∃ x ∈ k.stitch, x.1 ≠ n.toNat ∧ x.2.getLsbD 63 = true ∧ ∃ c, c < 2048 ∧ rectHas (stitchRect w) c = true ∧ rectHas (stitchRect x.2) c = true) →
        ∃ t, exec .stitchDescriptorWrite s = .next t ∧ Tab.get 0 (t.slice sl.toNat).stitch n.toNat = putField (Tab.get 0 k.stitch n.toNat) 0 2 2)
      ∧ (shapeOk w = true → (∀ c, c < 2048 → rectHas (stitchRect w) c = true → descCore k.pdesc c = true) →
        (∀ x ∈ k.stitch, x.1 ≠ n.toNat → x.2.getLsbD 63 = true → ∀ c, c < 2048 → rectHas (stitchRect w) c = true → rectHas (stitchRect x.2) c = false) →
        (∀ x ∈ s.cores, ∀ e ∈ x.2.ents, e.2.v = false) → ∃ t, exec .stitchDescriptorWrite s = .next t
        ∧ Tab.get 0 (t.slice sl.toNat).stitch n.toNat = w &&& 0xFFFFFFF000000000))

/-- Trust: a key is loaded into an empty slot inside its session and erased with what was encrypted under it; log control and counters are written as
their tables say; an interval's counts are summed and logged; SCRUB clears the scopes it is asked and posts its completion; measurements leave with
their signatures; an update loads slice by slice; a thermal trip keeps the log area alone; reset keeps HBM, host memory and configuration (spec/00,
spec/11, spec/21, R15, R223, R224, R424 to R433, R436). Completes: logControlWrite, registerWrite, keyLoad, keyErase, getMeasurements, scrubRun,
logIntervalEnd, logCountSum, firmwareUpdate, thermalTrip, reset, sliceReloadComplete. Where the spec leaves a point open, the clauses rest on the
model's choices of log entries 29, 49, 50. -/
def Obligations.TrustEventsHaveTheirEffect : Prop :=
  ∀ s : State,
    (∀ (p : Pid) (n : BitVec 6) (u : KeyUse) (key : BitVec 512), s.ev = some (.keyLoad p n u key) →
      let x := s.keySlot n.toNat
      let may : Prop := ((Tab.get Fn.reset s.fns (p.toNat + 1)).sess.isSome = true ∨ (Tab.get Fn.reset s.fns (32 + p.toNat + 1)).sess.isSome = true)
        ∧ x.state = 0 ∧ ¬(x.owned = true ∧ x.part ≠ p)
      (may → ∃ t, exec .keyLoad s = .next t ∧ (t.keySlot n.toNat).part = p ∧ (t.keySlot n.toNat).use = u ∧ (t.keySlot n.toNat).inv = 0
          ∧ (t.keySlot n.toNat).state = (match u with | .xts => 1 | .gcm => 2) ∧ (t.keySlot n.toNat).owned = true
          ∧ (u = .xts → (t.keySlot n.toNat).key = key) ∧ (u = .gcm → (t.keySlot n.toNat).key = (key.setWidth 256).setWidth 512))
      ∧ (¬may → exec .keyLoad s = .next s))
    ∧ (∀ n : BitVec 6, s.ev = some (.keyErase n) →
      ∃ t, exec .keyErase s = .next t ∧ t.keySlot n.toNat = { s.keySlot n.toNat with state := 0, key := 0, inv := 0 }
        ∧ (∀ x ∈ t.lines ++ t.wbq, x.key ≠ n)
        ∧ (∀ k ∈ t.cores, ∀ x ∈ k.2.xfers, x.req.mode = 5 ∨ x.req.mode = 6 → field (x.req.word 0) 0 6 = n.toNat → x.nokey = true)
        ∧ ((∀ x ∈ s.lines ++ s.wbq, x.key ≠ n) → t.mem = s.mem ∧ t.hkey = s.hkey ∧ t.lines = s.lines)
        ∧ ∀ x, s.wbq = [] → s.lines = [x] → x.key = n → x.dirty = true → paRegion (64 * x.ln) = 0 →
          t.memLine x.ln = x.data ∧ Tab.find t.hkey x.ln = some (s.keySlot n.toNat).key)
    ∧ (∀ (sl : SliceId) (n : BitVec 2) (w : Word), s.ev = some (.logControlWrite sl n w) → (s.slice sl.toNat).anchor = false →
      let c (i : Nat) : Word := Tab.get 0 (s.slice sl.toNat).logctl i
      ∃ t, exec .logControlWrite s = .next t ∧ t.mem = s.mem
        ∧ (∀ i, i ≠ n.toNat → Tab.get 0 (t.slice sl.toNat).logctl i = c i)
        ∧ (n = 3 → Tab.get 0 (t.slice sl.toNat).logctl 3 = putField (c 3) 0 22 (field w 0 22))
        ∧ (n = 2 → Tab.get 0 (t.slice sl.toNat).logctl 2 = c 2)
        ∧ (n = 1 → Tab.get 0 (t.slice sl.toNat).logctl 1 = if (c 0).getLsbD 63 = true then c 1 else BitVec.ofNat 64 (field w 0 17))
        ∧ (n = 0 → ((Tab.get 0 (t.slice sl.toNat).logctl 0).getLsbD 63 = true ↔ w.getLsbD 63 = true ∧ 1 ≤ field (c 1) 0 17 ∧ field (c 1) 0 17 ≤ 65536)
          ∧ field (Tab.get 0 (t.slice sl.toNat).logctl 0) 12 44 = if (c 0).getLsbD 63 = true then field (c 0) 12 44 else field w 12 44))
    ∧ (∀ (sl : SliceId) (n : BitVec 3) (w : Word), s.ev = some (.registerWrite sl (.sevc n) w) →
      ∃ t, exec .registerWrite s = .next t ∧ t.mem = s.mem ∧ Tab.get Evc.reset (t.slice sl.toNat).sevc n.toNat =
        ⟨(Tab.get Evc.reset (s.slice sl.toNat).sevc n.toNat).ovf && !w.getLsbD 63, w.extractLsb' 56 7, w.extractLsb' 0 48⟩)
    ∧ (∀ (sl : SliceId) (w : Word) (on : Bool), s.ev = some (.registerWrite sl (.sliceFence on) w) →
      (on = true → s.sliceOwner sl.toNat ≠ none → exec .registerWrite s = .next s)
      ∧ ((on = false ∨ s.sliceOwner sl.toNat = none) → exec .registerWrite s = .next (s.modSlice sl.toNat fun k => { k with fenced := on })))
    ∧ (s.ev = some .logIntervalEnd →
      let u := { s with slices := s.slices.map fun (k : Nat × Slice) => (k.1, { k.2 with migr := k.2.migr.map fun (m : Nat × Migr) => (m.1, { m.2 with d := 0, h := 0 }) }) }
      exec .logIntervalEnd s = .next ((((List.range 16).map (BitVec.ofNat 4)).filter fun p => (s.pdesc p).isSome).foldl (fun (t : State) p => t.sendCounts p) u))
    ∧ (∀ p : Pid, let t := s.sendCounts p
      let cs := (s.partCores p).map fun c => (s.core (BitVec.ofNat 11 c)).rlog
      let wl := (s.partSlices p).map fun x => (s.slice x).wlog
      let of_ (l : List (Tab (BitVec 32))) (d : Nat) : List Nat := (l.flatMap id).filterMap fun x => if x.1 = d then some x.2.toNat else none
      let tot (s : State) (d : Nat) : (Nat × Bool) × (Nat × Bool) := Tab.get ((0, false), (0, false)) (s.slice (s.kernel p)).totals d
      let add (x : Nat × Bool) (l : List Nat) : Nat × Bool :=
        (min (x.1 + l.sum) (2 ^ 48 - 1), x.2 || decide (2 ^ 48 - 1 < x.1 + l.sum) || l.any fun n => n == 2 ^ 32 - 1)
      t.net = s.net ++ [.logCountSum p] ∧ t.mem = s.mem ∧ (∀ c ∈ s.partCores p, (t.core (BitVec.ofNat 11 c)).rlog = []) ∧ (∀ x ∈ s.partSlices p, (t.slice x).wlog = [])
        ∧ ∀ d, (tot s d).1.1 < 2 ^ 48 → (tot s d).2.1 < 2 ^ 48 → tot t d = (add (tot s d).1 (of_ cs d), add (tot s d).2 (of_ wl d)))
    ∧ (∀ (sl : Nat) (w0 : Word) (w1 : Nat → Word), let k := s.slice sl
      let ctl (i : Nat) : Word := Tab.get 0 k.logctl i
      let seq := field (ctl 2) 32 32
      let at_ := field (ctl 2) 0 22
      let size := 64 * field (ctl 1) 0 17
      ((ctl 0).getLsbD 63 = false → s.appendLog sl w0 w1 = s ∧ s.logAnchor sl = s)
      ∧ ((ctl 0).getLsbD 63 = true → 64 ≤ size → size ≤ 2 ^ 22 → field (ctl 3) 32 32 = 0 →
        (k.anchor = false → (at_ + 1) % size ≠ field (ctl 3) 0 22 →
          let t := s.appendLog sl w0 w1
          let f := wordBytes w0 ++ wordBytes (w1 seq)
          (t.slice sl).llink = digestOf (linkBytes k.llink ++ f) ∧ field (Tab.get 0 (t.slice sl).logctl 2) 32 32 = (seq + 1) % 2 ^ 32
            ∧ field (Tab.get 0 (t.slice sl).logctl 2) 0 22 = (at_ + 1) % size
            ∧ ∀ i < 64, Mem.read t.mem (4096 * field (ctl 0) 12 44 + 64 * at_ + i) = (f ++ linkBytes (t.slice sl).llink).getD i 0)
        ∧ (k.anchor = false → (at_ + 1) % size = field (ctl 3) 0 22 →
          ∃ t, s.appendLog sl w0 w1 = t ∧ t.mem = s.mem ∧ (t.slice sl).llink = k.llink ∧ field (Tab.get 0 (t.slice sl).logctl 3) 32 32 = 1)
        ∧ (k.anchor = true → (at_ + 1) % size ≠ field (ctl 3) 0 22 →
          let t := s.logAnchor sl
          (t.slice sl).anchor = false ∧ t.free = s.free + 1 ∧ field (Tab.get 0 (t.slice sl).logctl 2) 32 32 = (seq + 1) % 2 ^ 32
            ∧ (t.slice sl).llink = digestOf (List.replicate 48 0
              ++ (wordBytes (BitVec.ofNat 64 (2 * 2 ^ 62 + s.time.toNat % 2 ^ 62)) ++ wordBytes (Config.random s.free)))))
      ∧ ((ctl 0).getLsbD 63 = true → 64 ≤ size → size ≤ 2 ^ 22 → field (ctl 3) 32 32 ≠ 0 → (at_ + 1) % size ≠ field (ctl 3) 0 22 →
        let t := s.logGap sl
        field (Tab.get 0 (t.slice sl).logctl 3) 32 32 = 0 ∧ field (Tab.get 0 (t.slice sl).logctl 2) 32 32 = (seq + 1) % 2 ^ 32
          ∧ (t.slice sl).llink = digestOf (linkBytes k.llink ++ (wordBytes 0xC000000000000000 ++ wordBytes (BitVec.ofNat 64 (field (ctl 3) 32 32))))))
    ∧ (∀ p : Pid, s.ev = some (.logCountSum p) →
      let sl := s.kernel p
      let l := (s.slice sl).totals.filter fun x => x.2.1.1 != 0 || x.2.2.1 != 0
      let u := s.modSlice sl fun k => { k with totals := [] }
      let word (x : Nat × (Nat × Bool) × (Nat × Bool)) : Word :=
        BitVec.ofNat 64 (x.1 * 2 ^ 57 + (if x.2.1.2 = true then 2 ^ 56 else 0) + (if x.2.2.2 = true then 2 ^ 55 else 0) + x.2.1.1)
      (l = [] → exec .logCountSum s = .next u)
      ∧ (l ≠ [] → exec .logCountSum s = .next (l.foldl (fun (t : State) x => t.appendLog sl (word x) fun _ => BitVec.ofNat 64 x.2.2.1)
        (u.appendLog sl (BitVec.ofNat 64 (2 ^ 62 + (s.time.toNat - 1) / 2 ^ 20)) fun seq => BitVec.ofNat 64 (seq * 2 ^ 32 + l.length)))))
    ∧ (let ent (kind unit n : Nat) : List Byte := wordBytes (BitVec.ofNat 64 (kind * 2 ^ 56 + unit)) ++ wordBytes (BitVec.ofNat 64 n)
      (∀ cs : List Nat, (∀ c ∈ cs, c < 2048) →
        (let t := (s.scrubAcc cs).1;
          (∀ c ∈ cs, (t.core (BitVec.ofNat 11 c)).accs = []) ∧ t.mem = s.mem ∧ (s.scrubAcc cs).2 = cs.flatMap fun c => ent 2 c 4)
        ∧ (let t := (s.scrubSpad cs).1;
          (∀ c ∈ cs, let k := t.core (BitVec.ofNat 11 c)
            k.ents = [] ∧ k.chans = [] ∧ k.buoys = [] ∧ k.sfq = [] ∧ k.accs = (s.core (BitVec.ofNat 11 c)).accs ∧ k.mxs = (s.core (BitVec.ofNat 11 c)).mxs
              ∧ k.sblk = (s.core (BitVec.ofNat 11 c)).sblk ∧ k.part = (s.core (BitVec.ofNat 11 c)).part)
          ∧ (∀ a, Mem.read t.mem a = if paRegion a = 1 ∧ a / 2 ^ 19 % 2048 ∈ cs then 0 else Mem.read s.mem a)
          ∧ (∀ g, g ∈ t.poison ↔ g ∈ s.poison ∧ ¬(paRegion (32 * g) = 1 ∧ 32 * g / 2 ^ 19 % 2048 ∈ cs))
          ∧ (s.scrubSpad cs).2 = cs.flatMap fun c => ent 1 c (s.core (BitVec.ofNat 11 c)).sblk.toNat ++ ent 3 c 1))
      ∧ (∀ p : Pid,
        ((∀ x ∈ (s.scrubWay p).1.lines ++ (s.scrubWay p).1.wbq, x.sl ∉ s.partSlices p)
          ∧ (s.scrubWay p).2 = (s.partSlices p).flatMap fun sl => (List.range 16).flatMap fun b => ent 4 (16 * sl + b) 12)
        ∧ (Tab.find (s.scrubShd p).1.shadow p.toNat = none ∧ (s.scrubShd p).1.mem = s.mem
          ∧ (s.scrubShd p).2 = (s.partStacks p).flatMap fun st => ent 5 st 160)
        ∧ (∀ n, n < 64 → let x := s.keySlot n
          let z := (s.scrubKeys p).1.keySlot n;
          (x.part = p → z.state = 0 ∧ z.key = (if x.state = 0 then x.key else 0) ∨ z = KeySlot.reset) ∧ (x.part ≠ p → z = x))
        ∧ (s.scrubKeys p).2 = ((List.range 64).filter fun n => (s.keySlot n).state != 0 && (s.keySlot n).part == p).flatMap fun n => ent 7 n 1)
      ∧ (∀ sls : List Nat, let t := (s.scrubHbm sls).1
        let hit (a : Nat) : Prop := paRegion a = 0 ∧ a / 2 ^ 33 % 64 ∈ sls ∧ a / 2 ^ 21 % 4096 ∈ (s.slice (a / 2 ^ 33 % 64)).touched
        (∀ a, (hit a → Mem.read t.mem a = 0) ∧ (¬hit a → Mem.read t.mem a = Mem.read s.mem a)) ∧ (∀ g ∈ t.poison, ¬hit (32 * g))
          ∧ (∀ sl ∈ sls, (t.slice sl).touched = [])
          ∧ (s.scrubHbm sls).2 = sls.flatMap fun sl => ent 6 sl (s.slice sl).touched.length ++ (List.range 512).map fun i =>
            BitVec.ofNat 8 (((List.range 8).filter fun j => (s.slice sl).touched.contains (8 * i + j)).map (2 ^ ·)).sum))
    ∧ (∀ m : ScrubReq, s.ev = some (.scrubRun m) →
      let p := m.part
      let cs := s.partCores p
      let sls := s.partSlices p
      let on (i : Nat) (f : State → State × List Byte) (x : State × List Byte) : State × List Byte :=
        if m.scope.getLsbD i = true then ((f x.1).1, x.2 ++ (f x.1).2) else x
      let x := on 0 (fun s => s.scrubHbm sls) (on 2 (fun s => s.scrubShd p) (on 1 (fun s => s.scrubWay p) (on 4 (fun s => s.scrubSpad cs) (on 3 (fun s => s.scrubAcc cs) (s, [])))))
      let es := x.2 ++ (x.1.scrubKeys p).2
      let head := wordBytes 0x544350525F324B44 ++ [1, m.part.setWidth 8, m.scope.setWidth 8, if s.mode p 3 = true then 1 else 0]
        ++ (wordBytes (BitVec.ofNat 64 (es.length / 16))).take 4 ++ ((List.range 16).map fun i => m.nonce.extractLsb' (8 * i) 8)
        ++ wordBytes m.time ++ wordBytes s.time ++ wordBytes s.rseq ++ (wordBytes ((s.core m.who.core).dev.setWidth 64)).take 2 ++ List.replicate 6 0
        ++ linkBytes (Config.firmware ((List.range 64).map fun n => (s.slice n).fwver)) ++ List.replicate 16 0
      let bytes := head ++ es ++ (List.range 96).map (Config.signature (2 * s.lmsLeaf)) ++ (List.range 1772).map (Config.signature (2 * s.lmsLeaf + 1))
      ∃ u : State, exec .scrubRun s = .next ((u.kernelRun m.who (ptrVa m.rdst) bytes bytes.length).emit (.completionPost m.cobj .done none))
        ∧ u.lmsLeaf = s.lmsLeaf + 1 ∧ u.rseq = s.rseq + 1 ∧ u.keys = (x.1.scrubKeys p).1.keys ∧ u.shadow = x.1.shadow
        ∧ (∀ e ∈ u.qbuf, e.pid ≠ p) ∧ (∀ o ∈ u.objs, o.2.pid ≠ p) ∧ (∀ r ∈ u.recs, r.1 / 2 ^ 15 ∉ sls) ∧ (u.slice (u.kernel p)).stitch = []
        ∧ ((u.slice (u.kernel p)).anchor = true ∨ (u.slice (u.kernel p)).llink = digestOf (List.replicate 48 0
              ++ (wordBytes (BitVec.ofNat 64 (2 * 2 ^ 62 + s.time.toNat % 2 ^ 62)) ++ wordBytes (Config.random s.free))))
        ∧ ∀ c ∈ cs, let k := u.core (BitVec.ofNat 11 c)
          k.atc = [] ∧ k.ro = [] ∧ k.vxq = [] ∧ k.mxq = [] ∧ k.mxrq = [] ∧ k.cxq = [] ∧ k.fifo = [] ∧ k.srb = [] ∧ k.last = 63 ∧ k.rcc = 0
            ∧ k.accs = (x.1.core (BitVec.ofNat 11 c)).accs ∧ k.ents = (x.1.core (BitVec.ofNat 11 c)).ents)
    ∧ (∀ n : FnId, s.ev = some (.getMeasurements n) →
      ∃ (t : State) (bs : List Byte), exec .getMeasurements s = .next t ∧ t.lmsLeaf = s.lmsLeaf + 1 ∧ t.out = s.out ++ [.hostAnswer n bs] ∧ t.mem = s.mem
        ∧ (let k := s.slice (if n.n = 0 then 0 else s.kernel (BitVec.ofNat 4 (n.n.toNat - 1)))
          let desc := ((List.range 12).map fun i => k.pdesc.getD i 0) ++ (List.range 4).map fun i => Tab.get 0 k.stitch i
          bs.take 240 = linkBytes Config.bootRom ++ linkBytes (Config.firmware ((List.range 64).map fun n => (s.slice n).fwver)) ++ sha384 (desc.flatMap wordBytes)
            ++ sha384 (linkBytes k.llink ++ wordBytes (BitVec.ofNat 64 ((field (Tab.get 0 k.logctl 2) 32 32 + (2 ^ 32 - 1)) % 2 ^ 32)))
            ++ sha384 (wordBytes (s.fwmin.setWidth 64)))
        ∧ bs.drop 240 = (List.range 96).map (Config.signature (2 * s.lmsLeaf)) ++ (List.range 1772).map (Config.signature (2 * s.lmsLeaf + 1)))
    ∧ (∀ (v : BitVec 32) (ok : Bool), s.ev = some (.firmwareUpdate v ok) →
      (ok = true → s.fwmin.toNat ≤ v.toNat → s.fwnext = none →
        ∃ t, exec .firmwareUpdate s = .next t ∧ t.fwnext = some v ∧ (t.slice 0).reload = true ∧ t.net = s.net ++ [.sliceReloadComplete 0])
      ∧ (ok = false ∨ v.toNat < s.fwmin.toNat ∨ s.fwnext ≠ none → exec .firmwareUpdate s = .next s))
    ∧ (∀ (sl : SliceId) (v : BitVec 32), s.ev = some (.sliceReloadComplete sl) → s.fwnext = some v →
      ∃ t, exec .sliceReloadComplete s = .next t ∧ (t.slice sl.toNat).reload = false ∧ (t.slice sl.toNat).fwver = v
        ∧ (sl = 63 → t.fwmin = v ∧ t.fwnext = none) ∧ (sl ≠ 63 → t.fwnext = some v ∧ (t.slice (sl.toNat + 1)).reload = true ∧ .sliceReloadComplete (sl + 1) ∈ t.net))
    ∧ (∃ t, exec .thermalTrip s = .next t ∧ t.hot = true ∧ t.cores = [] ∧ t.lines = [] ∧ t.keys = []
      ∧ ∀ x, x ∈ t.mem ↔ x ∈ s.mem ∧ (paRegion x.1 = 0 ∧ s.inLog x.1 = true ∨ paRegion x.1 = 4))
    ∧ ∃ t, exec .reset s = .next t ∧ t.hot = false ∧ t.net = [] ∧ t.lines = [] ∧ t.keys = [] ∧ t.objs = [] ∧ t.recs = [] ∧ t.time = 0
      ∧ (∀ x, x ∈ t.mem ↔ x ∈ s.mem ∧ paRegion x.1 ≠ 1)
      ∧ (∀ n, t.slice n = { Slice.reset with fwver := (s.slice n).fwver })
      ∧ ∀ k ∈ t.cores, k.2 = { Core.reset with dev := k.2.dev, sblk := k.2.sblk }

/-- A step of a core whose turn it is runs the head at the PC of its line, in the state whose device time has passed on: alone as it is, a leader's head
and then its followers' share, a follower's head once the nearer members have executed theirs; a head that does not decode is ILLEGAL_OP; a core
without a line is at a line boundary (spec/04, spec/08, R77, R91, R92, R166, R174; that one thing happens in a step is the model's, log entry 1).
Completes: lineBoundarySelection. -/
def Obligations.StepRunsTheDecodedHead : Prop :=
  ∀ (s : State) (c : CoreId) (p : List Move), s.hot = false → s.move = (.core c, p) →
    let u := { s.tick with pick := p, cur := c }
    (u.me.run = none → step s = exec .lineBoundarySelection u)
    ∧ (∀ h, u.me.run = some h → u.me.line = none → u.myEnt.g = false → step s = exec .lineBoundarySelection u)
    ∧ (∀ h l, u.me.run = some h → u.me.line = some l → Alone u →
      (∀ i, headAt l u.me.pc = some i → step s = exec i u) ∧ (headAt l u.me.pc = none → step s = exec .illegalOp u))
    ∧ (∀ h l x i t, u.me.run = some h → u.me.line = some l → u.myEnt.g = false → u.myEnt.gang = some x → u.gangReady = true → headAt l u.me.pc = some i →
      exec i u = .next t → step s = .next (if t.executed c h then t.give c h l u.me.pc else t))
    ∧ ∀ h l x pc i, u.me.run = some h → u.me.line = some l → u.myEnt.g = true → u.myEnt.gang = some x → x.todo = some pc →
      (∀ m ∈ u.gangMembers c h, m.1 < x.pos.toNat → ∀ y, (u.ent m.2.1 m.2.2).gang = some y → y.todo = none) →
      headAt l u.me.pc = some i → step s = exec i u

/-- A step that handles a thing on its way runs that thing's instruction with it in hand, taken off the list; nothing blocks it, no frame that it is for
moves, nothing of its lanes was sent before it, and no request that goes on at its bank stands before it. A service core runs the fence that its
next word encodes, and raises its own exception on any other word (spec/01, spec/07, spec/12, R22, R147, R229, R233; the list is the model's, log
entry 1). -/
def Obligations.StepHandlesWhatIsReady : Prop :=
  ∀ (s : State), s.hot = false →
    (∀ (n : Nat) (p : List Move) (e : Event), s.move = (.event (s.back.length + n), p) → s.net[n]? = some e →
      step s = exec e.instr { s.tick with pick := p, net := s.net.eraseIdx n, ev := some e })
    ∧ (∀ (n : Nat) (p : List Move) (e : Event), s.move = (.event n, p) → s.back[n]? = some e →
      step s = exec e.instr { s.tick with pick := p, back := s.back.eraseIdx n, ev := some e })
    ∧ (∀ (n : Nat) (p : List Move) (e : Event), s.move = (.event (s.back.length + n), p) → s.net[n]? = some e → urgent e = false →
      s.blocked e = false ∧ s.moveHolds e = false ∧ (∀ k y x, k < n → s.net[k]? = some y → x ∈ s.lanes e → x ∉ s.lanes y) ∧ ∀ y ∈ s.back, s.behind y e = false)
    ∧ (∀ (n : Nat) (p : List Move) (e : Event), s.move = (.event n, p) → s.back[n]? = some e → urgent e = false →
      s.blocked e = false ∧ ∀ k y, k < n → s.back[k]? = some y → s.behind y e = false)
    ∧ ∀ (sl : SliceId) (p : List Move) (w : Nat) (rest : List Nat), s.move = (.service sl, p) → (s.slice sl.toNat).svc = w :: rest →
      (s.slice sl.toNat).reload = false →
      let u := { s.tick with pick := p, svcCur := sl }
      (∀ i, decodeService w = some i → step s = exec i u)
        ∧ (decodeService w = none → step s = .next (u.modSlice sl.toNat fun k => { k with svc := rest, svcx := k.svcx + 1 }))

/-- Every step goes on until a thermal trip: every head, event and word has an effect, a fault entry or a wait in every state. After the trip only a
reset acts (spec/00, spec/21, R1, R15, R436). Where the spec leaves a point open, the clauses rest on the model's choices of log entry 53. -/
def Obligations.EveryStepGoesOnUntilAThermalTrip : Prop :=
  (∀ (i : Instr) (s : State), ∃ t, exec i s = .next t)
    ∧ (∀ s : State, s.hot = false → goesOn s)
    ∧ ∀ s : State, s.hot = true → (.reset ∉ s.queue → step s = .fault .thermalStop)
      ∧ (∀ n, .reset ∉ s.back → s.net.findIdx? (· == .reset) = some n → step s = exec .reset { s with net := s.net.eraseIdx n, ev := some .reset })

/-- A line is entered with the checks of R79: it is fetched at the line's address with the execute right, or is the one that a taken branch fetched; a
line that fails them raises ILLEGAL_LINE before any head, a PC that names no head ILLEGAL_TARGET, and otherwise its heads are what is executed; a
line in the read-only cache is taken from there, a poisoned one raises POISON, and for another the task waits; its reply puts it into the cache,
unless an RO.INV has come, and lets the task go on (spec/04, spec/07, spec/14, R77 to R81, R92, R153, R277). Completes: lineBoundarySelection. Where
the spec leaves a point open, the clauses rest on the model's choices of log entries 21, 35, 59. -/
def Obligations.EnteringALineFetchesAndChecksIt : Prop :=
  ∀ (s : State) (h : Hidx), s.me.run = some h → s.me.edge = .enter → s.me.stop = false → s.myEnt.g = false → s.gangReady = true →
    (s.me.hold.isSome = true ∨ s.lineEnd = .goes s) →
    (∀ (l : Line) (t : State), (s.me.ahead = some l ∧ t = s) ∨ (s.me.ahead = none ∧ s.fetch (pcLine s.me.pc) = .ok (l, t)) →
      (lineOk l = true → s.me.pc.toNat % 2 = 0 → pcIdx s.me.pc ≠ 0 → pcIdx s.me.pc ≤ headCount l →
        exec .lineBoundarySelection s = .next (t.modCore t.cur fun k => { k with line := some l, edge := .bound, ahead := none, hold := none }).pass)
      ∧ (lineOk l = false → exec .lineBoundarySelection s = .next (trapState t (.fault cIllegalLine 0 (vaWord (pcLine s.me.pc)))))
      ∧ (lineOk l = true → (s.me.pc.toNat % 2 ≠ 0 ∨ pcIdx s.me.pc = 0 ∨ headCount l < pcIdx s.me.pc) →
        exec .lineBoundarySelection s = .next (trapState t (.fault cIllegalTarget 0 (vaWord s.me.pc)))))
    ∧ (∀ e : AtcEntry, s.me.atcFind s.myEnt.sid (pcLine s.me.pc).toNat = some e → e.rts.getLsbD rExec = true → s.me.hold = none →
      let a := atcPa e (pcLine s.me.pc).toNat
      (∀ r, s.me.roFind (a / 64) = some r →
        s.fetch (pcLine s.me.pc) = if r.poi = 0 then .ok (r.data, (s.addLog s.cur (logBytes e 64)).modCore s.cur fun k => { k with ro := roPut k.ro r })
          else .error (.fault cPoison 0x80000000 (vaWord (pcLine s.me.pc))))
      ∧ (s.me.roFind (a / 64) = none → (∀ y, receiverBuoy a (s.receiver s.cur s.me.part a true e.det) = some y → 0 < (s.me.buoy y).val) →
        s.pathFree (pcLine s.me.pc).toNat (s.receiver s.cur s.me.part a true e.det) false = .ok () →
        ∃ t, s.fetch (pcLine s.me.pc) = .error (.wait t) ∧ t.me.hold = some ⟨9, [BitVec.ofNat 64 (s.me.ids + 1)], none⟩))
    ∧ (∀ (c : CoreId) (x : Outst), x.code = true → x.fault = none → (s.core c).run = some x.hidx →
      (s.ent c x.hidx).binding ≠ some x.id → (s.core c).hold = some ⟨9, [BitVec.ofNat 64 x.id], none⟩ →
      ((s.loadDone c x).core c).hold = none ∧ ((s.loadDone c x).core c).ro = x.install (s.core c).ro ∧ (s.loadDone c x).mem = s.mem
        ∧ (x.fresh = false → x.install (s.core c).ro = (s.core c).ro))
    ∧ (∀ e : AtcEntry, s.me.atcFind s.myEnt.sid (pcLine s.me.pc).toNat = some e → e.rts.getLsbD rExec = false → s.mode s.me.part 1 = false →
      s.fetch (pcLine s.me.pc) = .error (.fault cNoRight 0x80000000 (vaWord (pcLine s.me.pc))))

/-- Words written out from the encoding tables decode to the heads they stand for: the heads of R92's worked lines, the first of those lines whole and
with the header that R92 supposes instead, the head 0x0000 that has no N form, and the service core's fence of R233 (spec/04, spec/12, R83 to R92,
R233). Where the spec leaves a point open, the clauses rest on the model's choices of log entry 8. -/
def Obligations.WordsOfTheSpecDecodeAsWritten : Prop :=
  decodeHead 0x4E00 0x00042021 = .ok (.bcf 0 1 33)
    ∧ decodeHead 0x4200 0xFFFC0000 = .ok (.br (BitVec.ofInt 19 (-32)))
    ∧ decodeHead 0x8020 0 = .ok .sleep
    ∧ decodeHead 0x0155 0x0380 = .ok (.add ⟨.always, .i64, 5, .g 5, .src (.c 0 1)⟩)
    ∧ (∃ e, decodeHead 0x0000 0 = .error e)
    ∧ (let l := lineOf [0x000080204E001000, 0, 0, 0, 0, 0, 0, 0x0004202100000000]
      lineOk l = true ∧ headCount l = 2 ∧ decodeAt l 1 = .ok (.bcf 0 1 33) ∧ decodeAt l 2 = .ok .sleep)
    ∧ lineOk (lineOf [0x000080204E001800, 0, 0, 0, 0, 0, 0, 0x0004202100000000]) = true
    ∧ decodeService 0x0220400B = some (.serviceCoreFence 4 ⟨2, 2⟩)

/-- Decoding an encoded well-formed head gives it back, with every operand at every value that its encoding admits, and every head has its encoding:
only an event of the module has none; so with the fence of the service core (spec/04, spec/12, R83 to R91, R233). Where the spec leaves a point
open, the clauses rest on the model's choices of log entries 13, 15, 16. -/
def Obligations.DecodingGivesBackWhatWasEncoded : Prop :=
  (∀ (i : Instr) (w : Words), i.wf = true → encode i = some w → decodeHead w.1 w.2 = .ok i ∧ w.1 < 2 ^ 16 ∧ w.2 < 2 ^ (16 * tailLen (w.1 / 2 ^ 8 % 4)))
    ∧ (∀ i : Instr, encode i = none → (∃ e : Event, i = e.instr) ∨ (∃ (f : BitVec 3) (o : FenceOp), i = .serviceCoreFence f o)
      ∨ i = .lineBoundarySelection ∨ i = .illegalOp)
    ∧ ∀ (f : BitVec 3) (o : FenceOp), f.toNat ≤ 5 → decodeService (encodeService f o) = some (.serviceCoreFence f o)

/-- Every step keeps memory in its one form: addresses rising, no listed byte that an unlisted address reads as (spec/07, R142; the form is the model's,
log entry 3). -/
def Obligations.EveryStepKeepsMemoryCanonical : Prop :=
  ∀ s t : State, memOk s → step s = .next t → memOk t

/-- g0 reads 0 and discards what is written to it; another register reads as what was written to it last, and no other register changes; general,
handle, predicate and vector registers are the words of the workspace that R118 gives them (spec/03, spec/06, R63, R118, R120 to R124). -/
def Obligations.RegistersReadAsWritten : Prop :=
  ∀ (s : State) (c : CoreId) (b : BitVec 7),
    s.gAt c b 0 = 0 ∧ (∀ w, s.setGAt c b 0 w = s)
      ∧ (∀ (r : GReg) (w : Word), r ≠ 0 → (s.setGAt c b r w).gAt c b r = w ∧ (s.setGAt c b r w).ws c b (8 * r.toNat) = w
        ∧ (∀ x, x ≠ r → (s.setGAt c b r w).gAt c b x = s.gAt c b x) ∧ (∀ x, (s.setGAt c b r w).hAt c b x = s.hAt c b x)
        ∧ (∀ x, (s.setGAt c b r w).pAt c b x = s.pAt c b x) ∧ ∀ x, (s.setGAt c b r w).vAt c b x = s.vAt c b x)
      ∧ (∀ (h : Handle) (w : Word), (s.setHAt c b h w).hAt c b h = w ∧ (s.setHAt c b h w).ws c b (128 + 8 * h.toNat) = w
        ∧ (∀ x, x ≠ h → (s.setHAt c b h w).hAt c b x = s.hAt c b x) ∧ (∀ x, (s.setHAt c b h w).gAt c b x = s.gAt c b x)
        ∧ (∀ x, (s.setHAt c b h w).pAt c b x = s.pAt c b x) ∧ ∀ x, (s.setHAt c b h w).vAt c b x = s.vAt c b x)
      ∧ (∀ h : Handle, s.hAt c b h = s.ws c b (128 + 8 * h.toNat)) ∧ (∀ p : PReg, s.pAt c b p = s.ws c b (256 + 8 * p.toNat))
      ∧ (∀ (v : VReg) (i : Nat), i < 8 → lineWord (s.vAt c b v) i = s.ws c b (384 + 64 * v.toNat + 8 * i))
      ∧ (∀ (p : PReg) (w : Word), (s.setPAt c b p w).pAt c b p = w ∧ (s.setPAt c b p w).ws c b (256 + 8 * p.toNat) = w
        ∧ (∀ x, x ≠ p → (s.setPAt c b p w).pAt c b x = s.pAt c b x)
        ∧ ∀ x, (s.setPAt c b p w).gAt c b x = s.gAt c b x)
      ∧ ∀ (v : VReg) (d : Line), (s.setVAt c b v d).vAt c b v = d
        ∧ (∀ i < 8, (s.setVAt c b v d).ws c b (384 + 64 * v.toNat + 8 * i) = lineWord d i) ∧ (∀ x, x ≠ v → (s.setVAt c b v d).vAt c b x = s.vAt c b x)
        ∧ ∀ x, (s.setVAt c b v d).gAt c b x = s.gAt c b x

/-- The state after reset is what the register tables give: every buoy at 63, no handler entry in use, no channel, no moored range, empty queues, no
key, no partition, and memory in its one form (spec/06, spec/08, spec/09, spec/21, R133, R140, R163, R168, R190, R425; a byte that is not listed
reads 0 by log entry 3). -/
def Obligations.ResetLeavesWhatTheTablesGive : Prop :=
  let s := State.reset
  memOk s ∧ (∀ a, Mem.read s.mem a = 0) ∧ s.hot = false ∧ s.net = [] ∧ s.time = 0
    ∧ (∀ c : CoreId, (∀ b, (s.core c).buoy b = ⟨63, 63, 0⟩) ∧ (∀ h, (s.ent c h).v = false) ∧ (∀ n, ((s.core c).chan n).v = false) ∧ (∀ n, ((s.core c).moorAt n).v = false)
      ∧ (s.core c).part = 0 ∧ (s.core c).mxs = false ∧ (s.core c).capmx = 0 ∧ (s.core c).orc = 0 ∧ (s.core c).rcc = 0 ∧ (s.core c).cmask = 0
      ∧ (s.core c).sfq = [] ∧ (s.core c).atc = [] ∧ (s.core c).mxprog.mv = false ∧ (∀ n, (s.core c).cxDone n = 0) ∧ (s.core c).run = none)
    ∧ (∀ n, s.keySlot n = KeySlot.reset) ∧ (∀ p, s.pdesc p = none) ∧ ∀ l, (s.obj l).v = false
end

