-- ==== Sys2Proof/Laws/Encoding.lean ====
section
/-! SUPPORT. The field layouts of the encoding (R75, R83 to R86): reading back what was packed gives the fields, and the parts of the decoder
accept what the encoder writes. -/

namespace Sys2Proof

theorem BitVec.ofNat_shift {w n lo : Nat} (hi : Nat) (x : BitVec w) (l : n = hi * 2 ^ (lo + w) + x.toNat * 2 ^ lo + n % 2 ^ lo) :
    BitVec.ofNat w (n / 2 ^ lo) = x := by
  apply BitVec.eq_of_toNat_eq
  rw [BitVec.toNat_ofNat]
  have h : n / 2 ^ lo = hi * 2 ^ w + x.toNat := by
    apply Nat.div_eq_of_lt_le
    · rw [Nat.add_mul, Nat.mul_assoc, ← Nat.pow_add, Nat.add_comm w lo]; omega
    · have : n % 2 ^ lo < 2 ^ lo := Nat.mod_lt _ (by positivity)
      rw [Nat.add_mul, Nat.add_mul, Nat.mul_assoc, ← Nat.pow_add, Nat.add_comm w lo]; omega
  rw [h, Nat.add_comm, Nat.add_mul_mod_self_right, Nat.mod_eq_of_lt x.isLt]

@[simp] theorem HeadF.ofNat_toNat (h : HeadF) : HeadF.ofNat h.toNat = h := by
  obtain ⟨m, t, a, b⟩ := h
  have := m.isLt; have := t.isLt; have := a.isLt; have := b.isLt
  simp only [HeadF.ofNat, HeadF.toNat, HeadF.mk.injEq]
  refine ⟨?_, ?_, ?_, ?_⟩ <;> apply BitVec.eq_of_toNat_eq <;> rw [BitVec.toNat_ofNat] <;> omega

theorem HeadF.toNat_lt (h : HeadF) : h.toNat < 2 ^ 16 := by
  have := h.major.isLt; have := h.tl.isLt; have := h.a.isLt; have := h.b.isLt
  simp only [HeadF.toNat]; omega

@[simp] theorem XTail.ofNat_toNat (x : XTail) : XTail.ofNat x.toNat = x := by
  obtain ⟨i, d, kc, kb, pen, pn, c, ty, sc, sb, pinv, f, minor⟩ := x
  have := i.isLt; have := d.isLt; have := kc.isLt; have := kb.isLt; have := pen.isLt; have := pn.isLt; have := c.isLt; have := ty.isLt
  have := sc.isLt; have := sb.isLt; have := pinv.isLt; have := f.isLt; have := minor.isLt
  simp only [XTail.ofNat, XTail.toNat, XTail.mk.injEq]
  refine ⟨?_, ?_, ?_, ?_, ?_, ?_, ?_, ?_, ?_, ?_, ?_, ?_, ?_⟩ <;> apply BitVec.eq_of_toNat_eq <;> rw [BitVec.toNat_ofNat] <;> omega

@[simp] theorem BTail.ofNat_toNat (x : BTail) : BTail.ofNat x.toNat = x := by
  obtain ⟨o, l, r, m⟩ := x
  have := o.isLt; have := l.isLt; have := r.isLt; have := m.isLt
  simp only [BTail.ofNat, BTail.toNat, BTail.mk.injEq]
  refine ⟨?_, ?_, ?_, ?_⟩ <;> apply BitVec.eq_of_toNat_eq <;> rw [BitVec.toNat_ofNat] <;> omega

@[simp] theorem VTail.ofNat_toNat (x : VTail) : VTail.ofNat x.toNat = x := by
  obtain ⟨vd, i, vc, vb, va, pn, pen, pinv, ty, sc, sb, rsv, f, minor⟩ := x
  have := vd.isLt; have := i.isLt; have := vc.isLt; have := vb.isLt; have := va.isLt; have := pn.isLt; have := pen.isLt
  have := pinv.isLt; have := ty.isLt; have := sc.isLt; have := sb.isLt; have := rsv.isLt; have := f.isLt; have := minor.isLt
  simp only [VTail.ofNat, VTail.toNat, VTail.mk.injEq]
  refine ⟨?_, ?_, ?_, ?_, ?_, ?_, ?_, ?_, ?_, ?_, ?_, ?_, ?_, ?_⟩ <;> apply BitVec.eq_of_toNat_eq <;> rw [BitVec.toNat_ofNat] <;> omega

@[simp] theorem Ty.ofCode_code (t : Ty) : Ty.ofCode t.code = some t := by cases t <;> rfl

theorem tyOf_code {ok : Ty → Bool} {t : Ty} (h : ok t = true) : tyOf ok t.code = .ok t := by simp [tyOf, h]

end Sys2Proof
end

