-- ==== Sys2Proof/Laws/State.lean ====
section
/-! SUPPORT. What each update of the state leaves alone: one lemma per field per update, and what it does to the field it writes. -/

namespace Sys2Proof.Machine

/-! ### `State.setCore` -/

@[simp] theorem State.setCore_time (s : State) (c : CoreId) (k : Core) : (s.setCore c k).time = s.time := rfl
@[simp] theorem State.setCore_mem (s : State) (c : CoreId) (k : Core) : (s.setCore c k).mem = s.mem := rfl
@[simp] theorem State.setCore_poison (s : State) (c : CoreId) (k : Core) : (s.setCore c k).poison = s.poison := rfl
@[simp] theorem State.setCore_hkey (s : State) (c : CoreId) (k : Core) : (s.setCore c k).hkey = s.hkey := rfl
@[simp] theorem State.setCore_badchk (s : State) (c : CoreId) (k : Core) : (s.setCore c k).badchk = s.badchk := rfl
@[simp] theorem State.setCore_slices (s : State) (c : CoreId) (k : Core) : (s.setCore c k).slices = s.slices := rfl
@[simp] theorem State.setCore_lines (s : State) (c : CoreId) (k : Core) : (s.setCore c k).lines = s.lines := rfl
@[simp] theorem State.setCore_wbq (s : State) (c : CoreId) (k : Core) : (s.setCore c k).wbq = s.wbq := rfl
@[simp] theorem State.setCore_fills (s : State) (c : CoreId) (k : Core) : (s.setCore c k).fills = s.fills := rfl
@[simp] theorem State.setCore_invw (s : State) (c : CoreId) (k : Core) : (s.setCore c k).invw = s.invw := rfl
@[simp] theorem State.setCore_qbuf (s : State) (c : CoreId) (k : Core) : (s.setCore c k).qbuf = s.qbuf := rfl
@[simp] theorem State.setCore_refused (s : State) (c : CoreId) (k : Core) : (s.setCore c k).refused = s.refused := rfl
@[simp] theorem State.setCore_recs (s : State) (c : CoreId) (k : Core) : (s.setCore c k).recs = s.recs := rfl
@[simp] theorem State.setCore_spaces (s : State) (c : CoreId) (k : Core) : (s.setCore c k).spaces = s.spaces := rfl
@[simp] theorem State.setCore_objs (s : State) (c : CoreId) (k : Core) : (s.setCore c k).objs = s.objs := rfl
@[simp] theorem State.setCore_lqs (s : State) (c : CoreId) (k : Core) : (s.setCore c k).lqs = s.lqs := rfl
@[simp] theorem State.setCore_wins (s : State) (c : CoreId) (k : Core) : (s.setCore c k).wins = s.wins := rfl
@[simp] theorem State.setCore_wds (s : State) (c : CoreId) (k : Core) : (s.setCore c k).wds = s.wds := rfl
@[simp] theorem State.setCore_unmaps (s : State) (c : CoreId) (k : Core) : (s.setCore c k).unmaps = s.unmaps := rfl
@[simp] theorem State.setCore_bops (s : State) (c : CoreId) (k : Core) : (s.setCore c k).bops = s.bops := rfl
@[simp] theorem State.setCore_keys (s : State) (c : CoreId) (k : Core) : (s.setCore c k).keys = s.keys := rfl
@[simp] theorem State.setCore_fns (s : State) (c : CoreId) (k : Core) : (s.setCore c k).fns = s.fns := rfl
@[simp] theorem State.setCore_ports (s : State) (c : CoreId) (k : Core) : (s.setCore c k).ports = s.ports := rfl
@[simp] theorem State.setCore_peers (s : State) (c : CoreId) (k : Core) : (s.setCore c k).peers = s.peers := rfl
@[simp] theorem State.setCore_hosts (s : State) (c : CoreId) (k : Core) : (s.setCore c k).hosts = s.hosts := rfl
@[simp] theorem State.setCore_quar (s : State) (c : CoreId) (k : Core) : (s.setCore c k).quar = s.quar := rfl
@[simp] theorem State.setCore_lost (s : State) (c : CoreId) (k : Core) : (s.setCore c k).lost = s.lost := rfl
@[simp] theorem State.setCore_soft (s : State) (c : CoreId) (k : Core) : (s.setCore c k).soft = s.soft := rfl
@[simp] theorem State.setCore_downs (s : State) (c : CoreId) (k : Core) : (s.setCore c k).downs = s.downs := rfl
@[simp] theorem State.setCore_shadow (s : State) (c : CoreId) (k : Core) : (s.setCore c k).shadow = s.shadow := rfl
@[simp] theorem State.setCore_fwmin (s : State) (c : CoreId) (k : Core) : (s.setCore c k).fwmin = s.fwmin := rfl
@[simp] theorem State.setCore_fwnext (s : State) (c : CoreId) (k : Core) : (s.setCore c k).fwnext = s.fwnext := rfl
@[simp] theorem State.setCore_lmsLeaf (s : State) (c : CoreId) (k : Core) : (s.setCore c k).lmsLeaf = s.lmsLeaf := rfl
@[simp] theorem State.setCore_rseq (s : State) (c : CoreId) (k : Core) : (s.setCore c k).rseq = s.rseq := rfl
@[simp] theorem State.setCore_hot (s : State) (c : CoreId) (k : Core) : (s.setCore c k).hot = s.hot := rfl
@[simp] theorem State.setCore_net (s : State) (c : CoreId) (k : Core) : (s.setCore c k).net = s.net := rfl
@[simp] theorem State.setCore_back (s : State) (c : CoreId) (k : Core) : (s.setCore c k).back = s.back := rfl
@[simp] theorem State.setCore_out (s : State) (c : CoreId) (k : Core) : (s.setCore c k).out = s.out := rfl
@[simp] theorem State.setCore_ev (s : State) (c : CoreId) (k : Core) : (s.setCore c k).ev = s.ev := rfl
@[simp] theorem State.setCore_pick (s : State) (c : CoreId) (k : Core) : (s.setCore c k).pick = s.pick := rfl
@[simp] theorem State.setCore_cur (s : State) (c : CoreId) (k : Core) : (s.setCore c k).cur = s.cur := rfl
@[simp] theorem State.setCore_svcCur (s : State) (c : CoreId) (k : Core) : (s.setCore c k).svcCur = s.svcCur := rfl
@[simp] theorem State.setCore_free (s : State) (c : CoreId) (k : Core) : (s.setCore c k).free = s.free := rfl
@[simp] theorem State.setCore_names (s : State) (c : CoreId) (k : Core) : (s.setCore c k).names = s.names := rfl

/-! ### `State.modCore` -/

@[simp] theorem State.modCore_time (s : State) (c : CoreId) (f : Core → Core) : (s.modCore c f).time = s.time := rfl
@[simp] theorem State.modCore_mem (s : State) (c : CoreId) (f : Core → Core) : (s.modCore c f).mem = s.mem := rfl
@[simp] theorem State.modCore_poison (s : State) (c : CoreId) (f : Core → Core) : (s.modCore c f).poison = s.poison := rfl
@[simp] theorem State.modCore_hkey (s : State) (c : CoreId) (f : Core → Core) : (s.modCore c f).hkey = s.hkey := rfl
@[simp] theorem State.modCore_badchk (s : State) (c : CoreId) (f : Core → Core) : (s.modCore c f).badchk = s.badchk := rfl
@[simp] theorem State.modCore_slices (s : State) (c : CoreId) (f : Core → Core) : (s.modCore c f).slices = s.slices := rfl
@[simp] theorem State.modCore_lines (s : State) (c : CoreId) (f : Core → Core) : (s.modCore c f).lines = s.lines := rfl
@[simp] theorem State.modCore_wbq (s : State) (c : CoreId) (f : Core → Core) : (s.modCore c f).wbq = s.wbq := rfl
@[simp] theorem State.modCore_fills (s : State) (c : CoreId) (f : Core → Core) : (s.modCore c f).fills = s.fills := rfl
@[simp] theorem State.modCore_invw (s : State) (c : CoreId) (f : Core → Core) : (s.modCore c f).invw = s.invw := rfl
@[simp] theorem State.modCore_qbuf (s : State) (c : CoreId) (f : Core → Core) : (s.modCore c f).qbuf = s.qbuf := rfl
@[simp] theorem State.modCore_refused (s : State) (c : CoreId) (f : Core → Core) : (s.modCore c f).refused = s.refused := rfl
@[simp] theorem State.modCore_recs (s : State) (c : CoreId) (f : Core → Core) : (s.modCore c f).recs = s.recs := rfl
@[simp] theorem State.modCore_spaces (s : State) (c : CoreId) (f : Core → Core) : (s.modCore c f).spaces = s.spaces := rfl
@[simp] theorem State.modCore_objs (s : State) (c : CoreId) (f : Core → Core) : (s.modCore c f).objs = s.objs := rfl
@[simp] theorem State.modCore_lqs (s : State) (c : CoreId) (f : Core → Core) : (s.modCore c f).lqs = s.lqs := rfl
@[simp] theorem State.modCore_wins (s : State) (c : CoreId) (f : Core → Core) : (s.modCore c f).wins = s.wins := rfl
@[simp] theorem State.modCore_wds (s : State) (c : CoreId) (f : Core → Core) : (s.modCore c f).wds = s.wds := rfl
@[simp] theorem State.modCore_unmaps (s : State) (c : CoreId) (f : Core → Core) : (s.modCore c f).unmaps = s.unmaps := rfl
@[simp] theorem State.modCore_bops (s : State) (c : CoreId) (f : Core → Core) : (s.modCore c f).bops = s.bops := rfl
@[simp] theorem State.modCore_keys (s : State) (c : CoreId) (f : Core → Core) : (s.modCore c f).keys = s.keys := rfl
@[simp] theorem State.modCore_fns (s : State) (c : CoreId) (f : Core → Core) : (s.modCore c f).fns = s.fns := rfl
@[simp] theorem State.modCore_ports (s : State) (c : CoreId) (f : Core → Core) : (s.modCore c f).ports = s.ports := rfl
@[simp] theorem State.modCore_peers (s : State) (c : CoreId) (f : Core → Core) : (s.modCore c f).peers = s.peers := rfl
@[simp] theorem State.modCore_hosts (s : State) (c : CoreId) (f : Core → Core) : (s.modCore c f).hosts = s.hosts := rfl
@[simp] theorem State.modCore_quar (s : State) (c : CoreId) (f : Core → Core) : (s.modCore c f).quar = s.quar := rfl
@[simp] theorem State.modCore_lost (s : State) (c : CoreId) (f : Core → Core) : (s.modCore c f).lost = s.lost := rfl
@[simp] theorem State.modCore_soft (s : State) (c : CoreId) (f : Core → Core) : (s.modCore c f).soft = s.soft := rfl
@[simp] theorem State.modCore_downs (s : State) (c : CoreId) (f : Core → Core) : (s.modCore c f).downs = s.downs := rfl
@[simp] theorem State.modCore_shadow (s : State) (c : CoreId) (f : Core → Core) : (s.modCore c f).shadow = s.shadow := rfl
@[simp] theorem State.modCore_fwmin (s : State) (c : CoreId) (f : Core → Core) : (s.modCore c f).fwmin = s.fwmin := rfl
@[simp] theorem State.modCore_fwnext (s : State) (c : CoreId) (f : Core → Core) : (s.modCore c f).fwnext = s.fwnext := rfl
@[simp] theorem State.modCore_lmsLeaf (s : State) (c : CoreId) (f : Core → Core) : (s.modCore c f).lmsLeaf = s.lmsLeaf := rfl
@[simp] theorem State.modCore_rseq (s : State) (c : CoreId) (f : Core → Core) : (s.modCore c f).rseq = s.rseq := rfl
@[simp] theorem State.modCore_hot (s : State) (c : CoreId) (f : Core → Core) : (s.modCore c f).hot = s.hot := rfl
@[simp] theorem State.modCore_net (s : State) (c : CoreId) (f : Core → Core) : (s.modCore c f).net = s.net := rfl
@[simp] theorem State.modCore_back (s : State) (c : CoreId) (f : Core → Core) : (s.modCore c f).back = s.back := rfl
@[simp] theorem State.modCore_out (s : State) (c : CoreId) (f : Core → Core) : (s.modCore c f).out = s.out := rfl
@[simp] theorem State.modCore_ev (s : State) (c : CoreId) (f : Core → Core) : (s.modCore c f).ev = s.ev := rfl
@[simp] theorem State.modCore_pick (s : State) (c : CoreId) (f : Core → Core) : (s.modCore c f).pick = s.pick := rfl
@[simp] theorem State.modCore_cur (s : State) (c : CoreId) (f : Core → Core) : (s.modCore c f).cur = s.cur := rfl
@[simp] theorem State.modCore_svcCur (s : State) (c : CoreId) (f : Core → Core) : (s.modCore c f).svcCur = s.svcCur := rfl
@[simp] theorem State.modCore_free (s : State) (c : CoreId) (f : Core → Core) : (s.modCore c f).free = s.free := rfl
@[simp] theorem State.modCore_names (s : State) (c : CoreId) (f : Core → Core) : (s.modCore c f).names = s.names := rfl

/-! ### `State.modEnt` -/

@[simp] theorem State.modEnt_time (s : State) (c : CoreId) (h : Hidx) (f : Entry → Entry) : (s.modEnt c h f).time = s.time := rfl
@[simp] theorem State.modEnt_mem (s : State) (c : CoreId) (h : Hidx) (f : Entry → Entry) : (s.modEnt c h f).mem = s.mem := rfl
@[simp] theorem State.modEnt_poison (s : State) (c : CoreId) (h : Hidx) (f : Entry → Entry) : (s.modEnt c h f).poison = s.poison := rfl
@[simp] theorem State.modEnt_hkey (s : State) (c : CoreId) (h : Hidx) (f : Entry → Entry) : (s.modEnt c h f).hkey = s.hkey := rfl
@[simp] theorem State.modEnt_badchk (s : State) (c : CoreId) (h : Hidx) (f : Entry → Entry) : (s.modEnt c h f).badchk = s.badchk := rfl
@[simp] theorem State.modEnt_slices (s : State) (c : CoreId) (h : Hidx) (f : Entry → Entry) : (s.modEnt c h f).slices = s.slices := rfl
@[simp] theorem State.modEnt_lines (s : State) (c : CoreId) (h : Hidx) (f : Entry → Entry) : (s.modEnt c h f).lines = s.lines := rfl
@[simp] theorem State.modEnt_wbq (s : State) (c : CoreId) (h : Hidx) (f : Entry → Entry) : (s.modEnt c h f).wbq = s.wbq := rfl
@[simp] theorem State.modEnt_fills (s : State) (c : CoreId) (h : Hidx) (f : Entry → Entry) : (s.modEnt c h f).fills = s.fills := rfl
@[simp] theorem State.modEnt_invw (s : State) (c : CoreId) (h : Hidx) (f : Entry → Entry) : (s.modEnt c h f).invw = s.invw := rfl
@[simp] theorem State.modEnt_qbuf (s : State) (c : CoreId) (h : Hidx) (f : Entry → Entry) : (s.modEnt c h f).qbuf = s.qbuf := rfl
@[simp] theorem State.modEnt_refused (s : State) (c : CoreId) (h : Hidx) (f : Entry → Entry) : (s.modEnt c h f).refused = s.refused := rfl
@[simp] theorem State.modEnt_recs (s : State) (c : CoreId) (h : Hidx) (f : Entry → Entry) : (s.modEnt c h f).recs = s.recs := rfl
@[simp] theorem State.modEnt_spaces (s : State) (c : CoreId) (h : Hidx) (f : Entry → Entry) : (s.modEnt c h f).spaces = s.spaces := rfl
@[simp] theorem State.modEnt_objs (s : State) (c : CoreId) (h : Hidx) (f : Entry → Entry) : (s.modEnt c h f).objs = s.objs := rfl
@[simp] theorem State.modEnt_lqs (s : State) (c : CoreId) (h : Hidx) (f : Entry → Entry) : (s.modEnt c h f).lqs = s.lqs := rfl
@[simp] theorem State.modEnt_wins (s : State) (c : CoreId) (h : Hidx) (f : Entry → Entry) : (s.modEnt c h f).wins = s.wins := rfl
@[simp] theorem State.modEnt_wds (s : State) (c : CoreId) (h : Hidx) (f : Entry → Entry) : (s.modEnt c h f).wds = s.wds := rfl
@[simp] theorem State.modEnt_unmaps (s : State) (c : CoreId) (h : Hidx) (f : Entry → Entry) : (s.modEnt c h f).unmaps = s.unmaps := rfl
@[simp] theorem State.modEnt_bops (s : State) (c : CoreId) (h : Hidx) (f : Entry → Entry) : (s.modEnt c h f).bops = s.bops := rfl
@[simp] theorem State.modEnt_keys (s : State) (c : CoreId) (h : Hidx) (f : Entry → Entry) : (s.modEnt c h f).keys = s.keys := rfl
@[simp] theorem State.modEnt_fns (s : State) (c : CoreId) (h : Hidx) (f : Entry → Entry) : (s.modEnt c h f).fns = s.fns := rfl
@[simp] theorem State.modEnt_ports (s : State) (c : CoreId) (h : Hidx) (f : Entry → Entry) : (s.modEnt c h f).ports = s.ports := rfl
@[simp] theorem State.modEnt_peers (s : State) (c : CoreId) (h : Hidx) (f : Entry → Entry) : (s.modEnt c h f).peers = s.peers := rfl
@[simp] theorem State.modEnt_hosts (s : State) (c : CoreId) (h : Hidx) (f : Entry → Entry) : (s.modEnt c h f).hosts = s.hosts := rfl
@[simp] theorem State.modEnt_quar (s : State) (c : CoreId) (h : Hidx) (f : Entry → Entry) : (s.modEnt c h f).quar = s.quar := rfl
@[simp] theorem State.modEnt_lost (s : State) (c : CoreId) (h : Hidx) (f : Entry → Entry) : (s.modEnt c h f).lost = s.lost := rfl
@[simp] theorem State.modEnt_soft (s : State) (c : CoreId) (h : Hidx) (f : Entry → Entry) : (s.modEnt c h f).soft = s.soft := rfl
@[simp] theorem State.modEnt_downs (s : State) (c : CoreId) (h : Hidx) (f : Entry → Entry) : (s.modEnt c h f).downs = s.downs := rfl
@[simp] theorem State.modEnt_shadow (s : State) (c : CoreId) (h : Hidx) (f : Entry → Entry) : (s.modEnt c h f).shadow = s.shadow := rfl
@[simp] theorem State.modEnt_fwmin (s : State) (c : CoreId) (h : Hidx) (f : Entry → Entry) : (s.modEnt c h f).fwmin = s.fwmin := rfl
@[simp] theorem State.modEnt_fwnext (s : State) (c : CoreId) (h : Hidx) (f : Entry → Entry) : (s.modEnt c h f).fwnext = s.fwnext := rfl
@[simp] theorem State.modEnt_lmsLeaf (s : State) (c : CoreId) (h : Hidx) (f : Entry → Entry) : (s.modEnt c h f).lmsLeaf = s.lmsLeaf := rfl
@[simp] theorem State.modEnt_rseq (s : State) (c : CoreId) (h : Hidx) (f : Entry → Entry) : (s.modEnt c h f).rseq = s.rseq := rfl
@[simp] theorem State.modEnt_hot (s : State) (c : CoreId) (h : Hidx) (f : Entry → Entry) : (s.modEnt c h f).hot = s.hot := rfl
@[simp] theorem State.modEnt_net (s : State) (c : CoreId) (h : Hidx) (f : Entry → Entry) : (s.modEnt c h f).net = s.net := rfl
@[simp] theorem State.modEnt_back (s : State) (c : CoreId) (h : Hidx) (f : Entry → Entry) : (s.modEnt c h f).back = s.back := rfl
@[simp] theorem State.modEnt_out (s : State) (c : CoreId) (h : Hidx) (f : Entry → Entry) : (s.modEnt c h f).out = s.out := rfl
@[simp] theorem State.modEnt_ev (s : State) (c : CoreId) (h : Hidx) (f : Entry → Entry) : (s.modEnt c h f).ev = s.ev := rfl
@[simp] theorem State.modEnt_pick (s : State) (c : CoreId) (h : Hidx) (f : Entry → Entry) : (s.modEnt c h f).pick = s.pick := rfl
@[simp] theorem State.modEnt_cur (s : State) (c : CoreId) (h : Hidx) (f : Entry → Entry) : (s.modEnt c h f).cur = s.cur := rfl
@[simp] theorem State.modEnt_svcCur (s : State) (c : CoreId) (h : Hidx) (f : Entry → Entry) : (s.modEnt c h f).svcCur = s.svcCur := rfl
@[simp] theorem State.modEnt_free (s : State) (c : CoreId) (h : Hidx) (f : Entry → Entry) : (s.modEnt c h f).free = s.free := rfl
@[simp] theorem State.modEnt_names (s : State) (c : CoreId) (h : Hidx) (f : Entry → Entry) : (s.modEnt c h f).names = s.names := rfl

/-! ### `State.setBuoy` -/

@[simp] theorem State.setBuoy_time (s : State) (c : CoreId) (b : BuoyId) (x : Buoy) : (s.setBuoy c b x).time = s.time := rfl
@[simp] theorem State.setBuoy_mem (s : State) (c : CoreId) (b : BuoyId) (x : Buoy) : (s.setBuoy c b x).mem = s.mem := rfl
@[simp] theorem State.setBuoy_poison (s : State) (c : CoreId) (b : BuoyId) (x : Buoy) : (s.setBuoy c b x).poison = s.poison := rfl
@[simp] theorem State.setBuoy_hkey (s : State) (c : CoreId) (b : BuoyId) (x : Buoy) : (s.setBuoy c b x).hkey = s.hkey := rfl
@[simp] theorem State.setBuoy_badchk (s : State) (c : CoreId) (b : BuoyId) (x : Buoy) : (s.setBuoy c b x).badchk = s.badchk := rfl
@[simp] theorem State.setBuoy_slices (s : State) (c : CoreId) (b : BuoyId) (x : Buoy) : (s.setBuoy c b x).slices = s.slices := rfl
@[simp] theorem State.setBuoy_lines (s : State) (c : CoreId) (b : BuoyId) (x : Buoy) : (s.setBuoy c b x).lines = s.lines := rfl
@[simp] theorem State.setBuoy_wbq (s : State) (c : CoreId) (b : BuoyId) (x : Buoy) : (s.setBuoy c b x).wbq = s.wbq := rfl
@[simp] theorem State.setBuoy_fills (s : State) (c : CoreId) (b : BuoyId) (x : Buoy) : (s.setBuoy c b x).fills = s.fills := rfl
@[simp] theorem State.setBuoy_invw (s : State) (c : CoreId) (b : BuoyId) (x : Buoy) : (s.setBuoy c b x).invw = s.invw := rfl
@[simp] theorem State.setBuoy_qbuf (s : State) (c : CoreId) (b : BuoyId) (x : Buoy) : (s.setBuoy c b x).qbuf = s.qbuf := rfl
@[simp] theorem State.setBuoy_refused (s : State) (c : CoreId) (b : BuoyId) (x : Buoy) : (s.setBuoy c b x).refused = s.refused := rfl
@[simp] theorem State.setBuoy_recs (s : State) (c : CoreId) (b : BuoyId) (x : Buoy) : (s.setBuoy c b x).recs = s.recs := rfl
@[simp] theorem State.setBuoy_spaces (s : State) (c : CoreId) (b : BuoyId) (x : Buoy) : (s.setBuoy c b x).spaces = s.spaces := rfl
@[simp] theorem State.setBuoy_objs (s : State) (c : CoreId) (b : BuoyId) (x : Buoy) : (s.setBuoy c b x).objs = s.objs := rfl
@[simp] theorem State.setBuoy_lqs (s : State) (c : CoreId) (b : BuoyId) (x : Buoy) : (s.setBuoy c b x).lqs = s.lqs := rfl
@[simp] theorem State.setBuoy_wins (s : State) (c : CoreId) (b : BuoyId) (x : Buoy) : (s.setBuoy c b x).wins = s.wins := rfl
@[simp] theorem State.setBuoy_wds (s : State) (c : CoreId) (b : BuoyId) (x : Buoy) : (s.setBuoy c b x).wds = s.wds := rfl
@[simp] theorem State.setBuoy_unmaps (s : State) (c : CoreId) (b : BuoyId) (x : Buoy) : (s.setBuoy c b x).unmaps = s.unmaps := rfl
@[simp] theorem State.setBuoy_bops (s : State) (c : CoreId) (b : BuoyId) (x : Buoy) : (s.setBuoy c b x).bops = s.bops := rfl
@[simp] theorem State.setBuoy_keys (s : State) (c : CoreId) (b : BuoyId) (x : Buoy) : (s.setBuoy c b x).keys = s.keys := rfl
@[simp] theorem State.setBuoy_fns (s : State) (c : CoreId) (b : BuoyId) (x : Buoy) : (s.setBuoy c b x).fns = s.fns := rfl
@[simp] theorem State.setBuoy_ports (s : State) (c : CoreId) (b : BuoyId) (x : Buoy) : (s.setBuoy c b x).ports = s.ports := rfl
@[simp] theorem State.setBuoy_peers (s : State) (c : CoreId) (b : BuoyId) (x : Buoy) : (s.setBuoy c b x).peers = s.peers := rfl
@[simp] theorem State.setBuoy_hosts (s : State) (c : CoreId) (b : BuoyId) (x : Buoy) : (s.setBuoy c b x).hosts = s.hosts := rfl
@[simp] theorem State.setBuoy_quar (s : State) (c : CoreId) (b : BuoyId) (x : Buoy) : (s.setBuoy c b x).quar = s.quar := rfl
@[simp] theorem State.setBuoy_lost (s : State) (c : CoreId) (b : BuoyId) (x : Buoy) : (s.setBuoy c b x).lost = s.lost := rfl
@[simp] theorem State.setBuoy_soft (s : State) (c : CoreId) (b : BuoyId) (x : Buoy) : (s.setBuoy c b x).soft = s.soft := rfl
@[simp] theorem State.setBuoy_downs (s : State) (c : CoreId) (b : BuoyId) (x : Buoy) : (s.setBuoy c b x).downs = s.downs := rfl
@[simp] theorem State.setBuoy_shadow (s : State) (c : CoreId) (b : BuoyId) (x : Buoy) : (s.setBuoy c b x).shadow = s.shadow := rfl
@[simp] theorem State.setBuoy_fwmin (s : State) (c : CoreId) (b : BuoyId) (x : Buoy) : (s.setBuoy c b x).fwmin = s.fwmin := rfl
@[simp] theorem State.setBuoy_fwnext (s : State) (c : CoreId) (b : BuoyId) (x : Buoy) : (s.setBuoy c b x).fwnext = s.fwnext := rfl
@[simp] theorem State.setBuoy_lmsLeaf (s : State) (c : CoreId) (b : BuoyId) (x : Buoy) : (s.setBuoy c b x).lmsLeaf = s.lmsLeaf := rfl
@[simp] theorem State.setBuoy_rseq (s : State) (c : CoreId) (b : BuoyId) (x : Buoy) : (s.setBuoy c b x).rseq = s.rseq := rfl
@[simp] theorem State.setBuoy_hot (s : State) (c : CoreId) (b : BuoyId) (x : Buoy) : (s.setBuoy c b x).hot = s.hot := rfl
@[simp] theorem State.setBuoy_net (s : State) (c : CoreId) (b : BuoyId) (x : Buoy) : (s.setBuoy c b x).net = s.net := rfl
@[simp] theorem State.setBuoy_back (s : State) (c : CoreId) (b : BuoyId) (x : Buoy) : (s.setBuoy c b x).back = s.back := rfl
@[simp] theorem State.setBuoy_out (s : State) (c : CoreId) (b : BuoyId) (x : Buoy) : (s.setBuoy c b x).out = s.out := rfl
@[simp] theorem State.setBuoy_ev (s : State) (c : CoreId) (b : BuoyId) (x : Buoy) : (s.setBuoy c b x).ev = s.ev := rfl
@[simp] theorem State.setBuoy_pick (s : State) (c : CoreId) (b : BuoyId) (x : Buoy) : (s.setBuoy c b x).pick = s.pick := rfl
@[simp] theorem State.setBuoy_cur (s : State) (c : CoreId) (b : BuoyId) (x : Buoy) : (s.setBuoy c b x).cur = s.cur := rfl
@[simp] theorem State.setBuoy_svcCur (s : State) (c : CoreId) (b : BuoyId) (x : Buoy) : (s.setBuoy c b x).svcCur = s.svcCur := rfl
@[simp] theorem State.setBuoy_free (s : State) (c : CoreId) (b : BuoyId) (x : Buoy) : (s.setBuoy c b x).free = s.free := rfl
@[simp] theorem State.setBuoy_names (s : State) (c : CoreId) (b : BuoyId) (x : Buoy) : (s.setBuoy c b x).names = s.names := rfl

/-! ### `State.emit` -/

@[simp] theorem State.emit_time (s : State) (e : Event) : (s.emit e).time = s.time := rfl
@[simp] theorem State.emit_mem (s : State) (e : Event) : (s.emit e).mem = s.mem := rfl
@[simp] theorem State.emit_poison (s : State) (e : Event) : (s.emit e).poison = s.poison := rfl
@[simp] theorem State.emit_hkey (s : State) (e : Event) : (s.emit e).hkey = s.hkey := rfl
@[simp] theorem State.emit_badchk (s : State) (e : Event) : (s.emit e).badchk = s.badchk := rfl
@[simp] theorem State.emit_cores (s : State) (e : Event) : (s.emit e).cores = s.cores := rfl
@[simp] theorem State.emit_slices (s : State) (e : Event) : (s.emit e).slices = s.slices := rfl
@[simp] theorem State.emit_lines (s : State) (e : Event) : (s.emit e).lines = s.lines := rfl
@[simp] theorem State.emit_wbq (s : State) (e : Event) : (s.emit e).wbq = s.wbq := rfl
@[simp] theorem State.emit_fills (s : State) (e : Event) : (s.emit e).fills = s.fills := rfl
@[simp] theorem State.emit_invw (s : State) (e : Event) : (s.emit e).invw = s.invw := rfl
@[simp] theorem State.emit_qbuf (s : State) (e : Event) : (s.emit e).qbuf = s.qbuf := rfl
@[simp] theorem State.emit_refused (s : State) (e : Event) : (s.emit e).refused = s.refused := rfl
@[simp] theorem State.emit_recs (s : State) (e : Event) : (s.emit e).recs = s.recs := rfl
@[simp] theorem State.emit_spaces (s : State) (e : Event) : (s.emit e).spaces = s.spaces := rfl
@[simp] theorem State.emit_objs (s : State) (e : Event) : (s.emit e).objs = s.objs := rfl
@[simp] theorem State.emit_lqs (s : State) (e : Event) : (s.emit e).lqs = s.lqs := rfl
@[simp] theorem State.emit_wins (s : State) (e : Event) : (s.emit e).wins = s.wins := rfl
@[simp] theorem State.emit_wds (s : State) (e : Event) : (s.emit e).wds = s.wds := rfl
@[simp] theorem State.emit_unmaps (s : State) (e : Event) : (s.emit e).unmaps = s.unmaps := rfl
@[simp] theorem State.emit_bops (s : State) (e : Event) : (s.emit e).bops = s.bops := rfl
@[simp] theorem State.emit_keys (s : State) (e : Event) : (s.emit e).keys = s.keys := rfl
@[simp] theorem State.emit_fns (s : State) (e : Event) : (s.emit e).fns = s.fns := rfl
@[simp] theorem State.emit_ports (s : State) (e : Event) : (s.emit e).ports = s.ports := rfl
@[simp] theorem State.emit_peers (s : State) (e : Event) : (s.emit e).peers = s.peers := rfl
@[simp] theorem State.emit_hosts (s : State) (e : Event) : (s.emit e).hosts = s.hosts := rfl
@[simp] theorem State.emit_quar (s : State) (e : Event) : (s.emit e).quar = s.quar := rfl
@[simp] theorem State.emit_lost (s : State) (e : Event) : (s.emit e).lost = s.lost := rfl
@[simp] theorem State.emit_soft (s : State) (e : Event) : (s.emit e).soft = s.soft := rfl
@[simp] theorem State.emit_downs (s : State) (e : Event) : (s.emit e).downs = s.downs := rfl
@[simp] theorem State.emit_shadow (s : State) (e : Event) : (s.emit e).shadow = s.shadow := rfl
@[simp] theorem State.emit_fwmin (s : State) (e : Event) : (s.emit e).fwmin = s.fwmin := rfl
@[simp] theorem State.emit_fwnext (s : State) (e : Event) : (s.emit e).fwnext = s.fwnext := rfl
@[simp] theorem State.emit_lmsLeaf (s : State) (e : Event) : (s.emit e).lmsLeaf = s.lmsLeaf := rfl
@[simp] theorem State.emit_rseq (s : State) (e : Event) : (s.emit e).rseq = s.rseq := rfl
@[simp] theorem State.emit_hot (s : State) (e : Event) : (s.emit e).hot = s.hot := rfl
@[simp] theorem State.emit_back (s : State) (e : Event) : (s.emit e).back = s.back := rfl
@[simp] theorem State.emit_out (s : State) (e : Event) : (s.emit e).out = s.out := rfl
@[simp] theorem State.emit_ev (s : State) (e : Event) : (s.emit e).ev = s.ev := rfl
@[simp] theorem State.emit_pick (s : State) (e : Event) : (s.emit e).pick = s.pick := rfl
@[simp] theorem State.emit_cur (s : State) (e : Event) : (s.emit e).cur = s.cur := rfl
@[simp] theorem State.emit_svcCur (s : State) (e : Event) : (s.emit e).svcCur = s.svcCur := rfl
@[simp] theorem State.emit_free (s : State) (e : Event) : (s.emit e).free = s.free := rfl
@[simp] theorem State.emit_names (s : State) (e : Event) : (s.emit e).names = s.names := rfl

/-! ### `State.emits` -/

@[simp] theorem State.emits_time (s : State) (l : List Event) : (s.emits l).time = s.time := rfl
@[simp] theorem State.emits_mem (s : State) (l : List Event) : (s.emits l).mem = s.mem := rfl
@[simp] theorem State.emits_poison (s : State) (l : List Event) : (s.emits l).poison = s.poison := rfl
@[simp] theorem State.emits_hkey (s : State) (l : List Event) : (s.emits l).hkey = s.hkey := rfl
@[simp] theorem State.emits_badchk (s : State) (l : List Event) : (s.emits l).badchk = s.badchk := rfl
@[simp] theorem State.emits_cores (s : State) (l : List Event) : (s.emits l).cores = s.cores := rfl
@[simp] theorem State.emits_slices (s : State) (l : List Event) : (s.emits l).slices = s.slices := rfl
@[simp] theorem State.emits_lines (s : State) (l : List Event) : (s.emits l).lines = s.lines := rfl
@[simp] theorem State.emits_wbq (s : State) (l : List Event) : (s.emits l).wbq = s.wbq := rfl
@[simp] theorem State.emits_fills (s : State) (l : List Event) : (s.emits l).fills = s.fills := rfl
@[simp] theorem State.emits_invw (s : State) (l : List Event) : (s.emits l).invw = s.invw := rfl
@[simp] theorem State.emits_qbuf (s : State) (l : List Event) : (s.emits l).qbuf = s.qbuf := rfl
@[simp] theorem State.emits_refused (s : State) (l : List Event) : (s.emits l).refused = s.refused := rfl
@[simp] theorem State.emits_recs (s : State) (l : List Event) : (s.emits l).recs = s.recs := rfl
@[simp] theorem State.emits_spaces (s : State) (l : List Event) : (s.emits l).spaces = s.spaces := rfl
@[simp] theorem State.emits_objs (s : State) (l : List Event) : (s.emits l).objs = s.objs := rfl
@[simp] theorem State.emits_lqs (s : State) (l : List Event) : (s.emits l).lqs = s.lqs := rfl
@[simp] theorem State.emits_wins (s : State) (l : List Event) : (s.emits l).wins = s.wins := rfl
@[simp] theorem State.emits_wds (s : State) (l : List Event) : (s.emits l).wds = s.wds := rfl
@[simp] theorem State.emits_unmaps (s : State) (l : List Event) : (s.emits l).unmaps = s.unmaps := rfl
@[simp] theorem State.emits_bops (s : State) (l : List Event) : (s.emits l).bops = s.bops := rfl
@[simp] theorem State.emits_keys (s : State) (l : List Event) : (s.emits l).keys = s.keys := rfl
@[simp] theorem State.emits_fns (s : State) (l : List Event) : (s.emits l).fns = s.fns := rfl
@[simp] theorem State.emits_ports (s : State) (l : List Event) : (s.emits l).ports = s.ports := rfl
@[simp] theorem State.emits_peers (s : State) (l : List Event) : (s.emits l).peers = s.peers := rfl
@[simp] theorem State.emits_hosts (s : State) (l : List Event) : (s.emits l).hosts = s.hosts := rfl
@[simp] theorem State.emits_quar (s : State) (l : List Event) : (s.emits l).quar = s.quar := rfl
@[simp] theorem State.emits_lost (s : State) (l : List Event) : (s.emits l).lost = s.lost := rfl
@[simp] theorem State.emits_soft (s : State) (l : List Event) : (s.emits l).soft = s.soft := rfl
@[simp] theorem State.emits_downs (s : State) (l : List Event) : (s.emits l).downs = s.downs := rfl
@[simp] theorem State.emits_shadow (s : State) (l : List Event) : (s.emits l).shadow = s.shadow := rfl
@[simp] theorem State.emits_fwmin (s : State) (l : List Event) : (s.emits l).fwmin = s.fwmin := rfl
@[simp] theorem State.emits_fwnext (s : State) (l : List Event) : (s.emits l).fwnext = s.fwnext := rfl
@[simp] theorem State.emits_lmsLeaf (s : State) (l : List Event) : (s.emits l).lmsLeaf = s.lmsLeaf := rfl
@[simp] theorem State.emits_rseq (s : State) (l : List Event) : (s.emits l).rseq = s.rseq := rfl
@[simp] theorem State.emits_hot (s : State) (l : List Event) : (s.emits l).hot = s.hot := rfl
@[simp] theorem State.emits_back (s : State) (l : List Event) : (s.emits l).back = s.back := rfl
@[simp] theorem State.emits_out (s : State) (l : List Event) : (s.emits l).out = s.out := rfl
@[simp] theorem State.emits_ev (s : State) (l : List Event) : (s.emits l).ev = s.ev := rfl
@[simp] theorem State.emits_pick (s : State) (l : List Event) : (s.emits l).pick = s.pick := rfl
@[simp] theorem State.emits_cur (s : State) (l : List Event) : (s.emits l).cur = s.cur := rfl
@[simp] theorem State.emits_svcCur (s : State) (l : List Event) : (s.emits l).svcCur = s.svcCur := rfl
@[simp] theorem State.emits_free (s : State) (l : List Event) : (s.emits l).free = s.free := rfl
@[simp] theorem State.emits_names (s : State) (l : List Event) : (s.emits l).names = s.names := rfl

/-! ### `State.wr64` -/

@[simp] theorem State.wr64_time (s : State) (a : Nat) (w : Word) : (s.wr64 a w).time = s.time := rfl
@[simp] theorem State.wr64_poison (s : State) (a : Nat) (w : Word) : (s.wr64 a w).poison = s.poison := rfl
@[simp] theorem State.wr64_hkey (s : State) (a : Nat) (w : Word) : (s.wr64 a w).hkey = s.hkey := rfl
@[simp] theorem State.wr64_badchk (s : State) (a : Nat) (w : Word) : (s.wr64 a w).badchk = s.badchk := rfl
@[simp] theorem State.wr64_cores (s : State) (a : Nat) (w : Word) : (s.wr64 a w).cores = s.cores := rfl
@[simp] theorem State.wr64_slices (s : State) (a : Nat) (w : Word) : (s.wr64 a w).slices = s.slices := rfl
@[simp] theorem State.wr64_lines (s : State) (a : Nat) (w : Word) : (s.wr64 a w).lines = s.lines := rfl
@[simp] theorem State.wr64_wbq (s : State) (a : Nat) (w : Word) : (s.wr64 a w).wbq = s.wbq := rfl
@[simp] theorem State.wr64_fills (s : State) (a : Nat) (w : Word) : (s.wr64 a w).fills = s.fills := rfl
@[simp] theorem State.wr64_invw (s : State) (a : Nat) (w : Word) : (s.wr64 a w).invw = s.invw := rfl
@[simp] theorem State.wr64_qbuf (s : State) (a : Nat) (w : Word) : (s.wr64 a w).qbuf = s.qbuf := rfl
@[simp] theorem State.wr64_refused (s : State) (a : Nat) (w : Word) : (s.wr64 a w).refused = s.refused := rfl
@[simp] theorem State.wr64_recs (s : State) (a : Nat) (w : Word) : (s.wr64 a w).recs = s.recs := rfl
@[simp] theorem State.wr64_spaces (s : State) (a : Nat) (w : Word) : (s.wr64 a w).spaces = s.spaces := rfl
@[simp] theorem State.wr64_objs (s : State) (a : Nat) (w : Word) : (s.wr64 a w).objs = s.objs := rfl
@[simp] theorem State.wr64_lqs (s : State) (a : Nat) (w : Word) : (s.wr64 a w).lqs = s.lqs := rfl
@[simp] theorem State.wr64_wins (s : State) (a : Nat) (w : Word) : (s.wr64 a w).wins = s.wins := rfl
@[simp] theorem State.wr64_wds (s : State) (a : Nat) (w : Word) : (s.wr64 a w).wds = s.wds := rfl
@[simp] theorem State.wr64_unmaps (s : State) (a : Nat) (w : Word) : (s.wr64 a w).unmaps = s.unmaps := rfl
@[simp] theorem State.wr64_bops (s : State) (a : Nat) (w : Word) : (s.wr64 a w).bops = s.bops := rfl
@[simp] theorem State.wr64_keys (s : State) (a : Nat) (w : Word) : (s.wr64 a w).keys = s.keys := rfl
@[simp] theorem State.wr64_fns (s : State) (a : Nat) (w : Word) : (s.wr64 a w).fns = s.fns := rfl
@[simp] theorem State.wr64_ports (s : State) (a : Nat) (w : Word) : (s.wr64 a w).ports = s.ports := rfl
@[simp] theorem State.wr64_peers (s : State) (a : Nat) (w : Word) : (s.wr64 a w).peers = s.peers := rfl
@[simp] theorem State.wr64_hosts (s : State) (a : Nat) (w : Word) : (s.wr64 a w).hosts = s.hosts := rfl
@[simp] theorem State.wr64_quar (s : State) (a : Nat) (w : Word) : (s.wr64 a w).quar = s.quar := rfl
@[simp] theorem State.wr64_lost (s : State) (a : Nat) (w : Word) : (s.wr64 a w).lost = s.lost := rfl
@[simp] theorem State.wr64_soft (s : State) (a : Nat) (w : Word) : (s.wr64 a w).soft = s.soft := rfl
@[simp] theorem State.wr64_downs (s : State) (a : Nat) (w : Word) : (s.wr64 a w).downs = s.downs := rfl
@[simp] theorem State.wr64_shadow (s : State) (a : Nat) (w : Word) : (s.wr64 a w).shadow = s.shadow := rfl
@[simp] theorem State.wr64_fwmin (s : State) (a : Nat) (w : Word) : (s.wr64 a w).fwmin = s.fwmin := rfl
@[simp] theorem State.wr64_fwnext (s : State) (a : Nat) (w : Word) : (s.wr64 a w).fwnext = s.fwnext := rfl
@[simp] theorem State.wr64_lmsLeaf (s : State) (a : Nat) (w : Word) : (s.wr64 a w).lmsLeaf = s.lmsLeaf := rfl
@[simp] theorem State.wr64_rseq (s : State) (a : Nat) (w : Word) : (s.wr64 a w).rseq = s.rseq := rfl
@[simp] theorem State.wr64_hot (s : State) (a : Nat) (w : Word) : (s.wr64 a w).hot = s.hot := rfl
@[simp] theorem State.wr64_net (s : State) (a : Nat) (w : Word) : (s.wr64 a w).net = s.net := rfl
@[simp] theorem State.wr64_back (s : State) (a : Nat) (w : Word) : (s.wr64 a w).back = s.back := rfl
@[simp] theorem State.wr64_out (s : State) (a : Nat) (w : Word) : (s.wr64 a w).out = s.out := rfl
@[simp] theorem State.wr64_ev (s : State) (a : Nat) (w : Word) : (s.wr64 a w).ev = s.ev := rfl
@[simp] theorem State.wr64_pick (s : State) (a : Nat) (w : Word) : (s.wr64 a w).pick = s.pick := rfl
@[simp] theorem State.wr64_cur (s : State) (a : Nat) (w : Word) : (s.wr64 a w).cur = s.cur := rfl
@[simp] theorem State.wr64_svcCur (s : State) (a : Nat) (w : Word) : (s.wr64 a w).svcCur = s.svcCur := rfl
@[simp] theorem State.wr64_free (s : State) (a : Nat) (w : Word) : (s.wr64 a w).free = s.free := rfl
@[simp] theorem State.wr64_names (s : State) (a : Nat) (w : Word) : (s.wr64 a w).names = s.names := rfl

/-! ### `State.setWs` -/

@[simp] theorem State.setWs_time (s : State) (c : CoreId) (b : BitVec 7) (o : Nat) (w : Word) : (s.setWs c b o w).time = s.time := rfl
@[simp] theorem State.setWs_poison (s : State) (c : CoreId) (b : BitVec 7) (o : Nat) (w : Word) : (s.setWs c b o w).poison = s.poison := rfl
@[simp] theorem State.setWs_hkey (s : State) (c : CoreId) (b : BitVec 7) (o : Nat) (w : Word) : (s.setWs c b o w).hkey = s.hkey := rfl
@[simp] theorem State.setWs_badchk (s : State) (c : CoreId) (b : BitVec 7) (o : Nat) (w : Word) : (s.setWs c b o w).badchk = s.badchk := rfl
@[simp] theorem State.setWs_cores (s : State) (c : CoreId) (b : BitVec 7) (o : Nat) (w : Word) : (s.setWs c b o w).cores = s.cores := rfl
@[simp] theorem State.setWs_slices (s : State) (c : CoreId) (b : BitVec 7) (o : Nat) (w : Word) : (s.setWs c b o w).slices = s.slices := rfl
@[simp] theorem State.setWs_lines (s : State) (c : CoreId) (b : BitVec 7) (o : Nat) (w : Word) : (s.setWs c b o w).lines = s.lines := rfl
@[simp] theorem State.setWs_wbq (s : State) (c : CoreId) (b : BitVec 7) (o : Nat) (w : Word) : (s.setWs c b o w).wbq = s.wbq := rfl
@[simp] theorem State.setWs_fills (s : State) (c : CoreId) (b : BitVec 7) (o : Nat) (w : Word) : (s.setWs c b o w).fills = s.fills := rfl
@[simp] theorem State.setWs_invw (s : State) (c : CoreId) (b : BitVec 7) (o : Nat) (w : Word) : (s.setWs c b o w).invw = s.invw := rfl
@[simp] theorem State.setWs_qbuf (s : State) (c : CoreId) (b : BitVec 7) (o : Nat) (w : Word) : (s.setWs c b o w).qbuf = s.qbuf := rfl
@[simp] theorem State.setWs_refused (s : State) (c : CoreId) (b : BitVec 7) (o : Nat) (w : Word) : (s.setWs c b o w).refused = s.refused := rfl
@[simp] theorem State.setWs_recs (s : State) (c : CoreId) (b : BitVec 7) (o : Nat) (w : Word) : (s.setWs c b o w).recs = s.recs := rfl
@[simp] theorem State.setWs_spaces (s : State) (c : CoreId) (b : BitVec 7) (o : Nat) (w : Word) : (s.setWs c b o w).spaces = s.spaces := rfl
@[simp] theorem State.setWs_objs (s : State) (c : CoreId) (b : BitVec 7) (o : Nat) (w : Word) : (s.setWs c b o w).objs = s.objs := rfl
@[simp] theorem State.setWs_lqs (s : State) (c : CoreId) (b : BitVec 7) (o : Nat) (w : Word) : (s.setWs c b o w).lqs = s.lqs := rfl
@[simp] theorem State.setWs_wins (s : State) (c : CoreId) (b : BitVec 7) (o : Nat) (w : Word) : (s.setWs c b o w).wins = s.wins := rfl
@[simp] theorem State.setWs_wds (s : State) (c : CoreId) (b : BitVec 7) (o : Nat) (w : Word) : (s.setWs c b o w).wds = s.wds := rfl
@[simp] theorem State.setWs_unmaps (s : State) (c : CoreId) (b : BitVec 7) (o : Nat) (w : Word) : (s.setWs c b o w).unmaps = s.unmaps := rfl
@[simp] theorem State.setWs_bops (s : State) (c : CoreId) (b : BitVec 7) (o : Nat) (w : Word) : (s.setWs c b o w).bops = s.bops := rfl
@[simp] theorem State.setWs_keys (s : State) (c : CoreId) (b : BitVec 7) (o : Nat) (w : Word) : (s.setWs c b o w).keys = s.keys := rfl
@[simp] theorem State.setWs_fns (s : State) (c : CoreId) (b : BitVec 7) (o : Nat) (w : Word) : (s.setWs c b o w).fns = s.fns := rfl
@[simp] theorem State.setWs_ports (s : State) (c : CoreId) (b : BitVec 7) (o : Nat) (w : Word) : (s.setWs c b o w).ports = s.ports := rfl
@[simp] theorem State.setWs_peers (s : State) (c : CoreId) (b : BitVec 7) (o : Nat) (w : Word) : (s.setWs c b o w).peers = s.peers := rfl
@[simp] theorem State.setWs_hosts (s : State) (c : CoreId) (b : BitVec 7) (o : Nat) (w : Word) : (s.setWs c b o w).hosts = s.hosts := rfl
@[simp] theorem State.setWs_quar (s : State) (c : CoreId) (b : BitVec 7) (o : Nat) (w : Word) : (s.setWs c b o w).quar = s.quar := rfl
@[simp] theorem State.setWs_lost (s : State) (c : CoreId) (b : BitVec 7) (o : Nat) (w : Word) : (s.setWs c b o w).lost = s.lost := rfl
@[simp] theorem State.setWs_soft (s : State) (c : CoreId) (b : BitVec 7) (o : Nat) (w : Word) : (s.setWs c b o w).soft = s.soft := rfl
@[simp] theorem State.setWs_downs (s : State) (c : CoreId) (b : BitVec 7) (o : Nat) (w : Word) : (s.setWs c b o w).downs = s.downs := rfl
@[simp] theorem State.setWs_shadow (s : State) (c : CoreId) (b : BitVec 7) (o : Nat) (w : Word) : (s.setWs c b o w).shadow = s.shadow := rfl
@[simp] theorem State.setWs_fwmin (s : State) (c : CoreId) (b : BitVec 7) (o : Nat) (w : Word) : (s.setWs c b o w).fwmin = s.fwmin := rfl
@[simp] theorem State.setWs_fwnext (s : State) (c : CoreId) (b : BitVec 7) (o : Nat) (w : Word) : (s.setWs c b o w).fwnext = s.fwnext := rfl
@[simp] theorem State.setWs_lmsLeaf (s : State) (c : CoreId) (b : BitVec 7) (o : Nat) (w : Word) : (s.setWs c b o w).lmsLeaf = s.lmsLeaf := rfl
@[simp] theorem State.setWs_rseq (s : State) (c : CoreId) (b : BitVec 7) (o : Nat) (w : Word) : (s.setWs c b o w).rseq = s.rseq := rfl
@[simp] theorem State.setWs_hot (s : State) (c : CoreId) (b : BitVec 7) (o : Nat) (w : Word) : (s.setWs c b o w).hot = s.hot := rfl
@[simp] theorem State.setWs_net (s : State) (c : CoreId) (b : BitVec 7) (o : Nat) (w : Word) : (s.setWs c b o w).net = s.net := rfl
@[simp] theorem State.setWs_back (s : State) (c : CoreId) (b : BitVec 7) (o : Nat) (w : Word) : (s.setWs c b o w).back = s.back := rfl
@[simp] theorem State.setWs_out (s : State) (c : CoreId) (b : BitVec 7) (o : Nat) (w : Word) : (s.setWs c b o w).out = s.out := rfl
@[simp] theorem State.setWs_ev (s : State) (c : CoreId) (b : BitVec 7) (o : Nat) (w : Word) : (s.setWs c b o w).ev = s.ev := rfl
@[simp] theorem State.setWs_pick (s : State) (c : CoreId) (b : BitVec 7) (o : Nat) (w : Word) : (s.setWs c b o w).pick = s.pick := rfl
@[simp] theorem State.setWs_cur (s : State) (c : CoreId) (b : BitVec 7) (o : Nat) (w : Word) : (s.setWs c b o w).cur = s.cur := rfl
@[simp] theorem State.setWs_svcCur (s : State) (c : CoreId) (b : BitVec 7) (o : Nat) (w : Word) : (s.setWs c b o w).svcCur = s.svcCur := rfl
@[simp] theorem State.setWs_free (s : State) (c : CoreId) (b : BitVec 7) (o : Nat) (w : Word) : (s.setWs c b o w).free = s.free := rfl
@[simp] theorem State.setWs_names (s : State) (c : CoreId) (b : BitVec 7) (o : Nat) (w : Word) : (s.setWs c b o w).names = s.names := rfl

/-! ### `State.setVAt` -/

@[simp] theorem State.setVAt_time (s : State) (c : CoreId) (b : BitVec 7) (v : VReg) (x : Line) : (s.setVAt c b v x).time = s.time := rfl
@[simp] theorem State.setVAt_hkey (s : State) (c : CoreId) (b : BitVec 7) (v : VReg) (x : Line) : (s.setVAt c b v x).hkey = s.hkey := rfl
@[simp] theorem State.setVAt_badchk (s : State) (c : CoreId) (b : BitVec 7) (v : VReg) (x : Line) : (s.setVAt c b v x).badchk = s.badchk := rfl
@[simp] theorem State.setVAt_cores (s : State) (c : CoreId) (b : BitVec 7) (v : VReg) (x : Line) : (s.setVAt c b v x).cores = s.cores := rfl
@[simp] theorem State.setVAt_slices (s : State) (c : CoreId) (b : BitVec 7) (v : VReg) (x : Line) : (s.setVAt c b v x).slices = s.slices := rfl
@[simp] theorem State.setVAt_lines (s : State) (c : CoreId) (b : BitVec 7) (v : VReg) (x : Line) : (s.setVAt c b v x).lines = s.lines := rfl
@[simp] theorem State.setVAt_wbq (s : State) (c : CoreId) (b : BitVec 7) (v : VReg) (x : Line) : (s.setVAt c b v x).wbq = s.wbq := rfl
@[simp] theorem State.setVAt_fills (s : State) (c : CoreId) (b : BitVec 7) (v : VReg) (x : Line) : (s.setVAt c b v x).fills = s.fills := rfl
@[simp] theorem State.setVAt_invw (s : State) (c : CoreId) (b : BitVec 7) (v : VReg) (x : Line) : (s.setVAt c b v x).invw = s.invw := rfl
@[simp] theorem State.setVAt_qbuf (s : State) (c : CoreId) (b : BitVec 7) (v : VReg) (x : Line) : (s.setVAt c b v x).qbuf = s.qbuf := rfl
@[simp] theorem State.setVAt_refused (s : State) (c : CoreId) (b : BitVec 7) (v : VReg) (x : Line) : (s.setVAt c b v x).refused = s.refused := rfl
@[simp] theorem State.setVAt_recs (s : State) (c : CoreId) (b : BitVec 7) (v : VReg) (x : Line) : (s.setVAt c b v x).recs = s.recs := rfl
@[simp] theorem State.setVAt_spaces (s : State) (c : CoreId) (b : BitVec 7) (v : VReg) (x : Line) : (s.setVAt c b v x).spaces = s.spaces := rfl
@[simp] theorem State.setVAt_objs (s : State) (c : CoreId) (b : BitVec 7) (v : VReg) (x : Line) : (s.setVAt c b v x).objs = s.objs := rfl
@[simp] theorem State.setVAt_lqs (s : State) (c : CoreId) (b : BitVec 7) (v : VReg) (x : Line) : (s.setVAt c b v x).lqs = s.lqs := rfl
@[simp] theorem State.setVAt_wins (s : State) (c : CoreId) (b : BitVec 7) (v : VReg) (x : Line) : (s.setVAt c b v x).wins = s.wins := rfl
@[simp] theorem State.setVAt_wds (s : State) (c : CoreId) (b : BitVec 7) (v : VReg) (x : Line) : (s.setVAt c b v x).wds = s.wds := rfl
@[simp] theorem State.setVAt_unmaps (s : State) (c : CoreId) (b : BitVec 7) (v : VReg) (x : Line) : (s.setVAt c b v x).unmaps = s.unmaps := rfl
@[simp] theorem State.setVAt_bops (s : State) (c : CoreId) (b : BitVec 7) (v : VReg) (x : Line) : (s.setVAt c b v x).bops = s.bops := rfl
@[simp] theorem State.setVAt_keys (s : State) (c : CoreId) (b : BitVec 7) (v : VReg) (x : Line) : (s.setVAt c b v x).keys = s.keys := rfl
@[simp] theorem State.setVAt_fns (s : State) (c : CoreId) (b : BitVec 7) (v : VReg) (x : Line) : (s.setVAt c b v x).fns = s.fns := rfl
@[simp] theorem State.setVAt_ports (s : State) (c : CoreId) (b : BitVec 7) (v : VReg) (x : Line) : (s.setVAt c b v x).ports = s.ports := rfl
@[simp] theorem State.setVAt_peers (s : State) (c : CoreId) (b : BitVec 7) (v : VReg) (x : Line) : (s.setVAt c b v x).peers = s.peers := rfl
@[simp] theorem State.setVAt_hosts (s : State) (c : CoreId) (b : BitVec 7) (v : VReg) (x : Line) : (s.setVAt c b v x).hosts = s.hosts := rfl
@[simp] theorem State.setVAt_quar (s : State) (c : CoreId) (b : BitVec 7) (v : VReg) (x : Line) : (s.setVAt c b v x).quar = s.quar := rfl
@[simp] theorem State.setVAt_lost (s : State) (c : CoreId) (b : BitVec 7) (v : VReg) (x : Line) : (s.setVAt c b v x).lost = s.lost := rfl
@[simp] theorem State.setVAt_soft (s : State) (c : CoreId) (b : BitVec 7) (v : VReg) (x : Line) : (s.setVAt c b v x).soft = s.soft := rfl
@[simp] theorem State.setVAt_downs (s : State) (c : CoreId) (b : BitVec 7) (v : VReg) (x : Line) : (s.setVAt c b v x).downs = s.downs := rfl
@[simp] theorem State.setVAt_shadow (s : State) (c : CoreId) (b : BitVec 7) (v : VReg) (x : Line) : (s.setVAt c b v x).shadow = s.shadow := rfl
@[simp] theorem State.setVAt_fwmin (s : State) (c : CoreId) (b : BitVec 7) (v : VReg) (x : Line) : (s.setVAt c b v x).fwmin = s.fwmin := rfl
@[simp] theorem State.setVAt_fwnext (s : State) (c : CoreId) (b : BitVec 7) (v : VReg) (x : Line) : (s.setVAt c b v x).fwnext = s.fwnext := rfl
@[simp] theorem State.setVAt_lmsLeaf (s : State) (c : CoreId) (b : BitVec 7) (v : VReg) (x : Line) : (s.setVAt c b v x).lmsLeaf = s.lmsLeaf := rfl
@[simp] theorem State.setVAt_rseq (s : State) (c : CoreId) (b : BitVec 7) (v : VReg) (x : Line) : (s.setVAt c b v x).rseq = s.rseq := rfl
@[simp] theorem State.setVAt_hot (s : State) (c : CoreId) (b : BitVec 7) (v : VReg) (x : Line) : (s.setVAt c b v x).hot = s.hot := rfl
@[simp] theorem State.setVAt_net (s : State) (c : CoreId) (b : BitVec 7) (v : VReg) (x : Line) : (s.setVAt c b v x).net = s.net := rfl
@[simp] theorem State.setVAt_back (s : State) (c : CoreId) (b : BitVec 7) (v : VReg) (x : Line) : (s.setVAt c b v x).back = s.back := rfl
@[simp] theorem State.setVAt_out (s : State) (c : CoreId) (b : BitVec 7) (v : VReg) (x : Line) : (s.setVAt c b v x).out = s.out := rfl
@[simp] theorem State.setVAt_ev (s : State) (c : CoreId) (b : BitVec 7) (v : VReg) (x : Line) : (s.setVAt c b v x).ev = s.ev := rfl
@[simp] theorem State.setVAt_pick (s : State) (c : CoreId) (b : BitVec 7) (v : VReg) (x : Line) : (s.setVAt c b v x).pick = s.pick := rfl
@[simp] theorem State.setVAt_cur (s : State) (c : CoreId) (b : BitVec 7) (v : VReg) (x : Line) : (s.setVAt c b v x).cur = s.cur := rfl
@[simp] theorem State.setVAt_svcCur (s : State) (c : CoreId) (b : BitVec 7) (v : VReg) (x : Line) : (s.setVAt c b v x).svcCur = s.svcCur := rfl
@[simp] theorem State.setVAt_free (s : State) (c : CoreId) (b : BitVec 7) (v : VReg) (x : Line) : (s.setVAt c b v x).free = s.free := rfl
@[simp] theorem State.setVAt_names (s : State) (c : CoreId) (b : BitVec 7) (v : VReg) (x : Line) : (s.setVAt c b v x).names = s.names := rfl

/-! ### `State.modSlice` -/

@[simp] theorem State.modSlice_time (s : State) (n : Nat) (f : Slice → Slice) : (s.modSlice n f).time = s.time := rfl
@[simp] theorem State.modSlice_mem (s : State) (n : Nat) (f : Slice → Slice) : (s.modSlice n f).mem = s.mem := rfl
@[simp] theorem State.modSlice_poison (s : State) (n : Nat) (f : Slice → Slice) : (s.modSlice n f).poison = s.poison := rfl
@[simp] theorem State.modSlice_hkey (s : State) (n : Nat) (f : Slice → Slice) : (s.modSlice n f).hkey = s.hkey := rfl
@[simp] theorem State.modSlice_badchk (s : State) (n : Nat) (f : Slice → Slice) : (s.modSlice n f).badchk = s.badchk := rfl
@[simp] theorem State.modSlice_cores (s : State) (n : Nat) (f : Slice → Slice) : (s.modSlice n f).cores = s.cores := rfl
@[simp] theorem State.modSlice_lines (s : State) (n : Nat) (f : Slice → Slice) : (s.modSlice n f).lines = s.lines := rfl
@[simp] theorem State.modSlice_wbq (s : State) (n : Nat) (f : Slice → Slice) : (s.modSlice n f).wbq = s.wbq := rfl
@[simp] theorem State.modSlice_fills (s : State) (n : Nat) (f : Slice → Slice) : (s.modSlice n f).fills = s.fills := rfl
@[simp] theorem State.modSlice_invw (s : State) (n : Nat) (f : Slice → Slice) : (s.modSlice n f).invw = s.invw := rfl
@[simp] theorem State.modSlice_qbuf (s : State) (n : Nat) (f : Slice → Slice) : (s.modSlice n f).qbuf = s.qbuf := rfl
@[simp] theorem State.modSlice_refused (s : State) (n : Nat) (f : Slice → Slice) : (s.modSlice n f).refused = s.refused := rfl
@[simp] theorem State.modSlice_recs (s : State) (n : Nat) (f : Slice → Slice) : (s.modSlice n f).recs = s.recs := rfl
@[simp] theorem State.modSlice_spaces (s : State) (n : Nat) (f : Slice → Slice) : (s.modSlice n f).spaces = s.spaces := rfl
@[simp] theorem State.modSlice_objs (s : State) (n : Nat) (f : Slice → Slice) : (s.modSlice n f).objs = s.objs := rfl
@[simp] theorem State.modSlice_lqs (s : State) (n : Nat) (f : Slice → Slice) : (s.modSlice n f).lqs = s.lqs := rfl
@[simp] theorem State.modSlice_wins (s : State) (n : Nat) (f : Slice → Slice) : (s.modSlice n f).wins = s.wins := rfl
@[simp] theorem State.modSlice_wds (s : State) (n : Nat) (f : Slice → Slice) : (s.modSlice n f).wds = s.wds := rfl
@[simp] theorem State.modSlice_unmaps (s : State) (n : Nat) (f : Slice → Slice) : (s.modSlice n f).unmaps = s.unmaps := rfl
@[simp] theorem State.modSlice_bops (s : State) (n : Nat) (f : Slice → Slice) : (s.modSlice n f).bops = s.bops := rfl
@[simp] theorem State.modSlice_keys (s : State) (n : Nat) (f : Slice → Slice) : (s.modSlice n f).keys = s.keys := rfl
@[simp] theorem State.modSlice_fns (s : State) (n : Nat) (f : Slice → Slice) : (s.modSlice n f).fns = s.fns := rfl
@[simp] theorem State.modSlice_ports (s : State) (n : Nat) (f : Slice → Slice) : (s.modSlice n f).ports = s.ports := rfl
@[simp] theorem State.modSlice_peers (s : State) (n : Nat) (f : Slice → Slice) : (s.modSlice n f).peers = s.peers := rfl
@[simp] theorem State.modSlice_hosts (s : State) (n : Nat) (f : Slice → Slice) : (s.modSlice n f).hosts = s.hosts := rfl
@[simp] theorem State.modSlice_quar (s : State) (n : Nat) (f : Slice → Slice) : (s.modSlice n f).quar = s.quar := rfl
@[simp] theorem State.modSlice_lost (s : State) (n : Nat) (f : Slice → Slice) : (s.modSlice n f).lost = s.lost := rfl
@[simp] theorem State.modSlice_soft (s : State) (n : Nat) (f : Slice → Slice) : (s.modSlice n f).soft = s.soft := rfl
@[simp] theorem State.modSlice_downs (s : State) (n : Nat) (f : Slice → Slice) : (s.modSlice n f).downs = s.downs := rfl
@[simp] theorem State.modSlice_shadow (s : State) (n : Nat) (f : Slice → Slice) : (s.modSlice n f).shadow = s.shadow := rfl
@[simp] theorem State.modSlice_fwmin (s : State) (n : Nat) (f : Slice → Slice) : (s.modSlice n f).fwmin = s.fwmin := rfl
@[simp] theorem State.modSlice_fwnext (s : State) (n : Nat) (f : Slice → Slice) : (s.modSlice n f).fwnext = s.fwnext := rfl
@[simp] theorem State.modSlice_lmsLeaf (s : State) (n : Nat) (f : Slice → Slice) : (s.modSlice n f).lmsLeaf = s.lmsLeaf := rfl
@[simp] theorem State.modSlice_rseq (s : State) (n : Nat) (f : Slice → Slice) : (s.modSlice n f).rseq = s.rseq := rfl
@[simp] theorem State.modSlice_hot (s : State) (n : Nat) (f : Slice → Slice) : (s.modSlice n f).hot = s.hot := rfl
@[simp] theorem State.modSlice_net (s : State) (n : Nat) (f : Slice → Slice) : (s.modSlice n f).net = s.net := rfl
@[simp] theorem State.modSlice_back (s : State) (n : Nat) (f : Slice → Slice) : (s.modSlice n f).back = s.back := rfl
@[simp] theorem State.modSlice_out (s : State) (n : Nat) (f : Slice → Slice) : (s.modSlice n f).out = s.out := rfl
@[simp] theorem State.modSlice_ev (s : State) (n : Nat) (f : Slice → Slice) : (s.modSlice n f).ev = s.ev := rfl
@[simp] theorem State.modSlice_pick (s : State) (n : Nat) (f : Slice → Slice) : (s.modSlice n f).pick = s.pick := rfl
@[simp] theorem State.modSlice_cur (s : State) (n : Nat) (f : Slice → Slice) : (s.modSlice n f).cur = s.cur := rfl
@[simp] theorem State.modSlice_svcCur (s : State) (n : Nat) (f : Slice → Slice) : (s.modSlice n f).svcCur = s.svcCur := rfl
@[simp] theorem State.modSlice_free (s : State) (n : Nat) (f : Slice → Slice) : (s.modSlice n f).free = s.free := rfl
@[simp] theorem State.modSlice_names (s : State) (n : Nat) (f : Slice → Slice) : (s.modSlice n f).names = s.names := rfl

/-! ### `State.modObj` -/

@[simp] theorem State.modObj_time (s : State) (r : ObjRef) (f : Obj → Obj) : (s.modObj r f).time = s.time := rfl
@[simp] theorem State.modObj_mem (s : State) (r : ObjRef) (f : Obj → Obj) : (s.modObj r f).mem = s.mem := rfl
@[simp] theorem State.modObj_poison (s : State) (r : ObjRef) (f : Obj → Obj) : (s.modObj r f).poison = s.poison := rfl
@[simp] theorem State.modObj_hkey (s : State) (r : ObjRef) (f : Obj → Obj) : (s.modObj r f).hkey = s.hkey := rfl
@[simp] theorem State.modObj_badchk (s : State) (r : ObjRef) (f : Obj → Obj) : (s.modObj r f).badchk = s.badchk := rfl
@[simp] theorem State.modObj_cores (s : State) (r : ObjRef) (f : Obj → Obj) : (s.modObj r f).cores = s.cores := rfl
@[simp] theorem State.modObj_slices (s : State) (r : ObjRef) (f : Obj → Obj) : (s.modObj r f).slices = s.slices := rfl
@[simp] theorem State.modObj_lines (s : State) (r : ObjRef) (f : Obj → Obj) : (s.modObj r f).lines = s.lines := rfl
@[simp] theorem State.modObj_wbq (s : State) (r : ObjRef) (f : Obj → Obj) : (s.modObj r f).wbq = s.wbq := rfl
@[simp] theorem State.modObj_fills (s : State) (r : ObjRef) (f : Obj → Obj) : (s.modObj r f).fills = s.fills := rfl
@[simp] theorem State.modObj_invw (s : State) (r : ObjRef) (f : Obj → Obj) : (s.modObj r f).invw = s.invw := rfl
@[simp] theorem State.modObj_qbuf (s : State) (r : ObjRef) (f : Obj → Obj) : (s.modObj r f).qbuf = s.qbuf := rfl
@[simp] theorem State.modObj_refused (s : State) (r : ObjRef) (f : Obj → Obj) : (s.modObj r f).refused = s.refused := rfl
@[simp] theorem State.modObj_recs (s : State) (r : ObjRef) (f : Obj → Obj) : (s.modObj r f).recs = s.recs := rfl
@[simp] theorem State.modObj_spaces (s : State) (r : ObjRef) (f : Obj → Obj) : (s.modObj r f).spaces = s.spaces := rfl
@[simp] theorem State.modObj_lqs (s : State) (r : ObjRef) (f : Obj → Obj) : (s.modObj r f).lqs = s.lqs := rfl
@[simp] theorem State.modObj_wins (s : State) (r : ObjRef) (f : Obj → Obj) : (s.modObj r f).wins = s.wins := rfl
@[simp] theorem State.modObj_wds (s : State) (r : ObjRef) (f : Obj → Obj) : (s.modObj r f).wds = s.wds := rfl
@[simp] theorem State.modObj_unmaps (s : State) (r : ObjRef) (f : Obj → Obj) : (s.modObj r f).unmaps = s.unmaps := rfl
@[simp] theorem State.modObj_bops (s : State) (r : ObjRef) (f : Obj → Obj) : (s.modObj r f).bops = s.bops := rfl
@[simp] theorem State.modObj_keys (s : State) (r : ObjRef) (f : Obj → Obj) : (s.modObj r f).keys = s.keys := rfl
@[simp] theorem State.modObj_fns (s : State) (r : ObjRef) (f : Obj → Obj) : (s.modObj r f).fns = s.fns := rfl
@[simp] theorem State.modObj_ports (s : State) (r : ObjRef) (f : Obj → Obj) : (s.modObj r f).ports = s.ports := rfl
@[simp] theorem State.modObj_peers (s : State) (r : ObjRef) (f : Obj → Obj) : (s.modObj r f).peers = s.peers := rfl
@[simp] theorem State.modObj_hosts (s : State) (r : ObjRef) (f : Obj → Obj) : (s.modObj r f).hosts = s.hosts := rfl
@[simp] theorem State.modObj_quar (s : State) (r : ObjRef) (f : Obj → Obj) : (s.modObj r f).quar = s.quar := rfl
@[simp] theorem State.modObj_lost (s : State) (r : ObjRef) (f : Obj → Obj) : (s.modObj r f).lost = s.lost := rfl
@[simp] theorem State.modObj_soft (s : State) (r : ObjRef) (f : Obj → Obj) : (s.modObj r f).soft = s.soft := rfl
@[simp] theorem State.modObj_downs (s : State) (r : ObjRef) (f : Obj → Obj) : (s.modObj r f).downs = s.downs := rfl
@[simp] theorem State.modObj_shadow (s : State) (r : ObjRef) (f : Obj → Obj) : (s.modObj r f).shadow = s.shadow := rfl
@[simp] theorem State.modObj_fwmin (s : State) (r : ObjRef) (f : Obj → Obj) : (s.modObj r f).fwmin = s.fwmin := rfl
@[simp] theorem State.modObj_fwnext (s : State) (r : ObjRef) (f : Obj → Obj) : (s.modObj r f).fwnext = s.fwnext := rfl
@[simp] theorem State.modObj_lmsLeaf (s : State) (r : ObjRef) (f : Obj → Obj) : (s.modObj r f).lmsLeaf = s.lmsLeaf := rfl
@[simp] theorem State.modObj_rseq (s : State) (r : ObjRef) (f : Obj → Obj) : (s.modObj r f).rseq = s.rseq := rfl
@[simp] theorem State.modObj_hot (s : State) (r : ObjRef) (f : Obj → Obj) : (s.modObj r f).hot = s.hot := rfl
@[simp] theorem State.modObj_net (s : State) (r : ObjRef) (f : Obj → Obj) : (s.modObj r f).net = s.net := rfl
@[simp] theorem State.modObj_back (s : State) (r : ObjRef) (f : Obj → Obj) : (s.modObj r f).back = s.back := rfl
@[simp] theorem State.modObj_out (s : State) (r : ObjRef) (f : Obj → Obj) : (s.modObj r f).out = s.out := rfl
@[simp] theorem State.modObj_ev (s : State) (r : ObjRef) (f : Obj → Obj) : (s.modObj r f).ev = s.ev := rfl
@[simp] theorem State.modObj_pick (s : State) (r : ObjRef) (f : Obj → Obj) : (s.modObj r f).pick = s.pick := rfl
@[simp] theorem State.modObj_cur (s : State) (r : ObjRef) (f : Obj → Obj) : (s.modObj r f).cur = s.cur := rfl
@[simp] theorem State.modObj_svcCur (s : State) (r : ObjRef) (f : Obj → Obj) : (s.modObj r f).svcCur = s.svcCur := rfl
@[simp] theorem State.modObj_free (s : State) (r : ObjRef) (f : Obj → Obj) : (s.modObj r f).free = s.free := rfl
@[simp] theorem State.modObj_names (s : State) (r : ObjRef) (f : Obj → Obj) : (s.modObj r f).names = s.names := rfl

/-! ### `Core.setEnt` -/

@[simp] theorem Core.setEnt_run (k : Core) (h : Hidx) (e : Entry) : (k.setEnt h e).run = k.run := rfl
@[simp] theorem Core.setEnt_blk (k : Core) (h : Hidx) (e : Entry) : (k.setEnt h e).blk = k.blk := rfl
@[simp] theorem Core.setEnt_pc (k : Core) (h : Hidx) (e : Entry) : (k.setEnt h e).pc = k.pc := rfl
@[simp] theorem Core.setEnt_line (k : Core) (h : Hidx) (e : Entry) : (k.setEnt h e).line = k.line := rfl
@[simp] theorem Core.setEnt_stop (k : Core) (h : Hidx) (e : Entry) : (k.setEnt h e).stop = k.stop := rfl
@[simp] theorem Core.setEnt_edge (k : Core) (h : Hidx) (e : Entry) : (k.setEnt h e).edge = k.edge := rfl
@[simp] theorem Core.setEnt_ahead (k : Core) (h : Hidx) (e : Entry) : (k.setEnt h e).ahead = k.ahead := rfl
@[simp] theorem Core.setEnt_hold (k : Core) (h : Hidx) (e : Entry) : (k.setEnt h e).hold = k.hold := rfl
@[simp] theorem Core.setEnt_dev (k : Core) (h : Hidx) (e : Entry) : (k.setEnt h e).dev = k.dev := rfl
@[simp] theorem Core.setEnt_sblk (k : Core) (h : Hidx) (e : Entry) : (k.setEnt h e).sblk = k.sblk := rfl
@[simp] theorem Core.setEnt_part (k : Core) (h : Hidx) (e : Entry) : (k.setEnt h e).part = k.part := rfl
@[simp] theorem Core.setEnt_mxs (k : Core) (h : Hidx) (e : Entry) : (k.setEnt h e).mxs = k.mxs := rfl
@[simp] theorem Core.setEnt_capmx (k : Core) (h : Hidx) (e : Entry) : (k.setEnt h e).capmx = k.capmx := rfl
@[simp] theorem Core.setEnt_orc (k : Core) (h : Hidx) (e : Entry) : (k.setEnt h e).orc = k.orc := rfl
@[simp] theorem Core.setEnt_cxdone (k : Core) (h : Hidx) (e : Entry) : (k.setEnt h e).cxdone = k.cxdone := rfl
@[simp] theorem Core.setEnt_cxnext (k : Core) (h : Hidx) (e : Entry) : (k.setEnt h e).cxnext = k.cxnext := rfl
@[simp] theorem Core.setEnt_cxfin (k : Core) (h : Hidx) (e : Entry) : (k.setEnt h e).cxfin = k.cxfin := rfl
@[simp] theorem Core.setEnt_mxprog (k : Core) (h : Hidx) (e : Entry) : (k.setEnt h e).mxprog = k.mxprog := rfl
@[simp] theorem Core.setEnt_buoys (k : Core) (h : Hidx) (e : Entry) : (k.setEnt h e).buoys = k.buoys := rfl
@[simp] theorem Core.setEnt_owed (k : Core) (h : Hidx) (e : Entry) : (k.setEnt h e).owed = k.owed := rfl
@[simp] theorem Core.setEnt_accs (k : Core) (h : Hidx) (e : Entry) : (k.setEnt h e).accs = k.accs := rfl
@[simp] theorem Core.setEnt_t0 (k : Core) (h : Hidx) (e : Entry) : (k.setEnt h e).t0 = k.t0 := rfl
@[simp] theorem Core.setEnt_t1 (k : Core) (h : Hidx) (e : Entry) : (k.setEnt h e).t1 = k.t1 := rfl
@[simp] theorem Core.setEnt_last (k : Core) (h : Hidx) (e : Entry) : (k.setEnt h e).last = k.last := rfl
@[simp] theorem Core.setEnt_chans (k : Core) (h : Hidx) (e : Entry) : (k.setEnt h e).chans = k.chans := rfl
@[simp] theorem Core.setEnt_cmask (k : Core) (h : Hidx) (e : Entry) : (k.setEnt h e).cmask = k.cmask := rfl
@[simp] theorem Core.setEnt_inChan (k : Core) (h : Hidx) (e : Entry) : (k.setEnt h e).inChan = k.inChan := rfl
@[simp] theorem Core.setEnt_inMx (k : Core) (h : Hidx) (e : Entry) : (k.setEnt h e).inMx = k.inMx := rfl
@[simp] theorem Core.setEnt_atc (k : Core) (h : Hidx) (e : Entry) : (k.setEnt h e).atc = k.atc := rfl
@[simp] theorem Core.setEnt_moor (k : Core) (h : Hidx) (e : Entry) : (k.setEnt h e).moor = k.moor := rfl
@[simp] theorem Core.setEnt_mxq (k : Core) (h : Hidx) (e : Entry) : (k.setEnt h e).mxq = k.mxq := rfl
@[simp] theorem Core.setEnt_mxrq (k : Core) (h : Hidx) (e : Entry) : (k.setEnt h e).mxrq = k.mxrq := rfl
@[simp] theorem Core.setEnt_vxq (k : Core) (h : Hidx) (e : Entry) : (k.setEnt h e).vxq = k.vxq := rfl
@[simp] theorem Core.setEnt_cxq (k : Core) (h : Hidx) (e : Entry) : (k.setEnt h e).cxq = k.cxq := rfl
@[simp] theorem Core.setEnt_fifo (k : Core) (h : Hidx) (e : Entry) : (k.setEnt h e).fifo = k.fifo := rfl
@[simp] theorem Core.setEnt_xfers (k : Core) (h : Hidx) (e : Entry) : (k.setEnt h e).xfers = k.xfers := rfl
@[simp] theorem Core.setEnt_cxerr (k : Core) (h : Hidx) (e : Entry) : (k.setEnt h e).cxerr = k.cxerr := rfl
@[simp] theorem Core.setEnt_srb (k : Core) (h : Hidx) (e : Entry) : (k.setEnt h e).srb = k.srb := rfl
@[simp] theorem Core.setEnt_emark (k : Core) (h : Hidx) (e : Entry) : (k.setEnt h e).emark = k.emark := rfl
@[simp] theorem Core.setEnt_late (k : Core) (h : Hidx) (e : Entry) : (k.setEnt h e).late = k.late := rfl
@[simp] theorem Core.setEnt_sfq (k : Core) (h : Hidx) (e : Entry) : (k.setEnt h e).sfq = k.sfq := rfl
@[simp] theorem Core.setEnt_ro (k : Core) (h : Hidx) (e : Entry) : (k.setEnt h e).ro = k.ro := rfl
@[simp] theorem Core.setEnt_loads (k : Core) (h : Hidx) (e : Entry) : (k.setEnt h e).loads = k.loads := rfl
@[simp] theorem Core.setEnt_decrs (k : Core) (h : Hidx) (e : Entry) : (k.setEnt h e).decrs = k.decrs := rfl
@[simp] theorem Core.setEnt_detSeq (k : Core) (h : Hidx) (e : Entry) : (k.setEnt h e).detSeq = k.detSeq := rfl
@[simp] theorem Core.setEnt_rcc (k : Core) (h : Hidx) (e : Entry) : (k.setEnt h e).rcc = k.rcc := rfl
@[simp] theorem Core.setEnt_rlog (k : Core) (h : Hidx) (e : Entry) : (k.setEnt h e).rlog = k.rlog := rfl
@[simp] theorem Core.setEnt_evc (k : Core) (h : Hidx) (e : Entry) : (k.setEnt h e).evc = k.evc := rfl
@[simp] theorem Core.setEnt_mxevc (k : Core) (h : Hidx) (e : Entry) : (k.setEnt h e).mxevc = k.mxevc := rfl
@[simp] theorem Core.setEnt_retry (k : Core) (h : Hidx) (e : Entry) : (k.setEnt h e).retry = k.retry := rfl
@[simp] theorem Core.setEnt_avail (k : Core) (h : Hidx) (e : Entry) : (k.setEnt h e).avail = k.avail := rfl
@[simp] theorem Core.setEnt_ids (k : Core) (h : Hidx) (e : Entry) : (k.setEnt h e).ids = k.ids := rfl

/-! ### `Core.setChan` -/

@[simp] theorem Core.setChan_run (k : Core) (n : Chan) (e : ChanEnt) : (k.setChan n e).run = k.run := rfl
@[simp] theorem Core.setChan_blk (k : Core) (n : Chan) (e : ChanEnt) : (k.setChan n e).blk = k.blk := rfl
@[simp] theorem Core.setChan_pc (k : Core) (n : Chan) (e : ChanEnt) : (k.setChan n e).pc = k.pc := rfl
@[simp] theorem Core.setChan_line (k : Core) (n : Chan) (e : ChanEnt) : (k.setChan n e).line = k.line := rfl
@[simp] theorem Core.setChan_stop (k : Core) (n : Chan) (e : ChanEnt) : (k.setChan n e).stop = k.stop := rfl
@[simp] theorem Core.setChan_edge (k : Core) (n : Chan) (e : ChanEnt) : (k.setChan n e).edge = k.edge := rfl
@[simp] theorem Core.setChan_ahead (k : Core) (n : Chan) (e : ChanEnt) : (k.setChan n e).ahead = k.ahead := rfl
@[simp] theorem Core.setChan_hold (k : Core) (n : Chan) (e : ChanEnt) : (k.setChan n e).hold = k.hold := rfl
@[simp] theorem Core.setChan_dev (k : Core) (n : Chan) (e : ChanEnt) : (k.setChan n e).dev = k.dev := rfl
@[simp] theorem Core.setChan_sblk (k : Core) (n : Chan) (e : ChanEnt) : (k.setChan n e).sblk = k.sblk := rfl
@[simp] theorem Core.setChan_part (k : Core) (n : Chan) (e : ChanEnt) : (k.setChan n e).part = k.part := rfl
@[simp] theorem Core.setChan_mxs (k : Core) (n : Chan) (e : ChanEnt) : (k.setChan n e).mxs = k.mxs := rfl
@[simp] theorem Core.setChan_capmx (k : Core) (n : Chan) (e : ChanEnt) : (k.setChan n e).capmx = k.capmx := rfl
@[simp] theorem Core.setChan_orc (k : Core) (n : Chan) (e : ChanEnt) : (k.setChan n e).orc = k.orc := rfl
@[simp] theorem Core.setChan_cxdone (k : Core) (n : Chan) (e : ChanEnt) : (k.setChan n e).cxdone = k.cxdone := rfl
@[simp] theorem Core.setChan_cxnext (k : Core) (n : Chan) (e : ChanEnt) : (k.setChan n e).cxnext = k.cxnext := rfl
@[simp] theorem Core.setChan_cxfin (k : Core) (n : Chan) (e : ChanEnt) : (k.setChan n e).cxfin = k.cxfin := rfl
@[simp] theorem Core.setChan_mxprog (k : Core) (n : Chan) (e : ChanEnt) : (k.setChan n e).mxprog = k.mxprog := rfl
@[simp] theorem Core.setChan_buoys (k : Core) (n : Chan) (e : ChanEnt) : (k.setChan n e).buoys = k.buoys := rfl
@[simp] theorem Core.setChan_owed (k : Core) (n : Chan) (e : ChanEnt) : (k.setChan n e).owed = k.owed := rfl
@[simp] theorem Core.setChan_accs (k : Core) (n : Chan) (e : ChanEnt) : (k.setChan n e).accs = k.accs := rfl
@[simp] theorem Core.setChan_t0 (k : Core) (n : Chan) (e : ChanEnt) : (k.setChan n e).t0 = k.t0 := rfl
@[simp] theorem Core.setChan_t1 (k : Core) (n : Chan) (e : ChanEnt) : (k.setChan n e).t1 = k.t1 := rfl
@[simp] theorem Core.setChan_ents (k : Core) (n : Chan) (e : ChanEnt) : (k.setChan n e).ents = k.ents := rfl
@[simp] theorem Core.setChan_last (k : Core) (n : Chan) (e : ChanEnt) : (k.setChan n e).last = k.last := rfl
@[simp] theorem Core.setChan_cmask (k : Core) (n : Chan) (e : ChanEnt) : (k.setChan n e).cmask = k.cmask := rfl
@[simp] theorem Core.setChan_inChan (k : Core) (n : Chan) (e : ChanEnt) : (k.setChan n e).inChan = k.inChan := rfl
@[simp] theorem Core.setChan_inMx (k : Core) (n : Chan) (e : ChanEnt) : (k.setChan n e).inMx = k.inMx := rfl
@[simp] theorem Core.setChan_atc (k : Core) (n : Chan) (e : ChanEnt) : (k.setChan n e).atc = k.atc := rfl
@[simp] theorem Core.setChan_moor (k : Core) (n : Chan) (e : ChanEnt) : (k.setChan n e).moor = k.moor := rfl
@[simp] theorem Core.setChan_mxq (k : Core) (n : Chan) (e : ChanEnt) : (k.setChan n e).mxq = k.mxq := rfl
@[simp] theorem Core.setChan_mxrq (k : Core) (n : Chan) (e : ChanEnt) : (k.setChan n e).mxrq = k.mxrq := rfl
@[simp] theorem Core.setChan_vxq (k : Core) (n : Chan) (e : ChanEnt) : (k.setChan n e).vxq = k.vxq := rfl
@[simp] theorem Core.setChan_cxq (k : Core) (n : Chan) (e : ChanEnt) : (k.setChan n e).cxq = k.cxq := rfl
@[simp] theorem Core.setChan_fifo (k : Core) (n : Chan) (e : ChanEnt) : (k.setChan n e).fifo = k.fifo := rfl
@[simp] theorem Core.setChan_xfers (k : Core) (n : Chan) (e : ChanEnt) : (k.setChan n e).xfers = k.xfers := rfl
@[simp] theorem Core.setChan_cxerr (k : Core) (n : Chan) (e : ChanEnt) : (k.setChan n e).cxerr = k.cxerr := rfl
@[simp] theorem Core.setChan_srb (k : Core) (n : Chan) (e : ChanEnt) : (k.setChan n e).srb = k.srb := rfl
@[simp] theorem Core.setChan_emark (k : Core) (n : Chan) (e : ChanEnt) : (k.setChan n e).emark = k.emark := rfl
@[simp] theorem Core.setChan_late (k : Core) (n : Chan) (e : ChanEnt) : (k.setChan n e).late = k.late := rfl
@[simp] theorem Core.setChan_sfq (k : Core) (n : Chan) (e : ChanEnt) : (k.setChan n e).sfq = k.sfq := rfl
@[simp] theorem Core.setChan_ro (k : Core) (n : Chan) (e : ChanEnt) : (k.setChan n e).ro = k.ro := rfl
@[simp] theorem Core.setChan_loads (k : Core) (n : Chan) (e : ChanEnt) : (k.setChan n e).loads = k.loads := rfl
@[simp] theorem Core.setChan_decrs (k : Core) (n : Chan) (e : ChanEnt) : (k.setChan n e).decrs = k.decrs := rfl
@[simp] theorem Core.setChan_detSeq (k : Core) (n : Chan) (e : ChanEnt) : (k.setChan n e).detSeq = k.detSeq := rfl
@[simp] theorem Core.setChan_rcc (k : Core) (n : Chan) (e : ChanEnt) : (k.setChan n e).rcc = k.rcc := rfl
@[simp] theorem Core.setChan_rlog (k : Core) (n : Chan) (e : ChanEnt) : (k.setChan n e).rlog = k.rlog := rfl
@[simp] theorem Core.setChan_evc (k : Core) (n : Chan) (e : ChanEnt) : (k.setChan n e).evc = k.evc := rfl
@[simp] theorem Core.setChan_mxevc (k : Core) (n : Chan) (e : ChanEnt) : (k.setChan n e).mxevc = k.mxevc := rfl
@[simp] theorem Core.setChan_retry (k : Core) (n : Chan) (e : ChanEnt) : (k.setChan n e).retry = k.retry := rfl
@[simp] theorem Core.setChan_avail (k : Core) (n : Chan) (e : ChanEnt) : (k.setChan n e).avail = k.avail := rfl
@[simp] theorem Core.setChan_ids (k : Core) (n : Chan) (e : ChanEnt) : (k.setChan n e).ids = k.ids := rfl

/-! ### `Core.setAcc` -/

@[simp] theorem Core.setAcc_run (k : Core) (a : AReg) (x : Acc) : (k.setAcc a x).run = k.run := rfl
@[simp] theorem Core.setAcc_blk (k : Core) (a : AReg) (x : Acc) : (k.setAcc a x).blk = k.blk := rfl
@[simp] theorem Core.setAcc_pc (k : Core) (a : AReg) (x : Acc) : (k.setAcc a x).pc = k.pc := rfl
@[simp] theorem Core.setAcc_line (k : Core) (a : AReg) (x : Acc) : (k.setAcc a x).line = k.line := rfl
@[simp] theorem Core.setAcc_stop (k : Core) (a : AReg) (x : Acc) : (k.setAcc a x).stop = k.stop := rfl
@[simp] theorem Core.setAcc_edge (k : Core) (a : AReg) (x : Acc) : (k.setAcc a x).edge = k.edge := rfl
@[simp] theorem Core.setAcc_ahead (k : Core) (a : AReg) (x : Acc) : (k.setAcc a x).ahead = k.ahead := rfl
@[simp] theorem Core.setAcc_hold (k : Core) (a : AReg) (x : Acc) : (k.setAcc a x).hold = k.hold := rfl
@[simp] theorem Core.setAcc_dev (k : Core) (a : AReg) (x : Acc) : (k.setAcc a x).dev = k.dev := rfl
@[simp] theorem Core.setAcc_sblk (k : Core) (a : AReg) (x : Acc) : (k.setAcc a x).sblk = k.sblk := rfl
@[simp] theorem Core.setAcc_part (k : Core) (a : AReg) (x : Acc) : (k.setAcc a x).part = k.part := rfl
@[simp] theorem Core.setAcc_mxs (k : Core) (a : AReg) (x : Acc) : (k.setAcc a x).mxs = k.mxs := rfl
@[simp] theorem Core.setAcc_capmx (k : Core) (a : AReg) (x : Acc) : (k.setAcc a x).capmx = k.capmx := rfl
@[simp] theorem Core.setAcc_orc (k : Core) (a : AReg) (x : Acc) : (k.setAcc a x).orc = k.orc := rfl
@[simp] theorem Core.setAcc_cxdone (k : Core) (a : AReg) (x : Acc) : (k.setAcc a x).cxdone = k.cxdone := rfl
@[simp] theorem Core.setAcc_cxnext (k : Core) (a : AReg) (x : Acc) : (k.setAcc a x).cxnext = k.cxnext := rfl
@[simp] theorem Core.setAcc_cxfin (k : Core) (a : AReg) (x : Acc) : (k.setAcc a x).cxfin = k.cxfin := rfl
@[simp] theorem Core.setAcc_mxprog (k : Core) (a : AReg) (x : Acc) : (k.setAcc a x).mxprog = k.mxprog := rfl
@[simp] theorem Core.setAcc_buoys (k : Core) (a : AReg) (x : Acc) : (k.setAcc a x).buoys = k.buoys := rfl
@[simp] theorem Core.setAcc_owed (k : Core) (a : AReg) (x : Acc) : (k.setAcc a x).owed = k.owed := rfl
@[simp] theorem Core.setAcc_t0 (k : Core) (a : AReg) (x : Acc) : (k.setAcc a x).t0 = k.t0 := rfl
@[simp] theorem Core.setAcc_t1 (k : Core) (a : AReg) (x : Acc) : (k.setAcc a x).t1 = k.t1 := rfl
@[simp] theorem Core.setAcc_ents (k : Core) (a : AReg) (x : Acc) : (k.setAcc a x).ents = k.ents := rfl
@[simp] theorem Core.setAcc_last (k : Core) (a : AReg) (x : Acc) : (k.setAcc a x).last = k.last := rfl
@[simp] theorem Core.setAcc_chans (k : Core) (a : AReg) (x : Acc) : (k.setAcc a x).chans = k.chans := rfl
@[simp] theorem Core.setAcc_cmask (k : Core) (a : AReg) (x : Acc) : (k.setAcc a x).cmask = k.cmask := rfl
@[simp] theorem Core.setAcc_inChan (k : Core) (a : AReg) (x : Acc) : (k.setAcc a x).inChan = k.inChan := rfl
@[simp] theorem Core.setAcc_inMx (k : Core) (a : AReg) (x : Acc) : (k.setAcc a x).inMx = k.inMx := rfl
@[simp] theorem Core.setAcc_atc (k : Core) (a : AReg) (x : Acc) : (k.setAcc a x).atc = k.atc := rfl
@[simp] theorem Core.setAcc_moor (k : Core) (a : AReg) (x : Acc) : (k.setAcc a x).moor = k.moor := rfl
@[simp] theorem Core.setAcc_mxq (k : Core) (a : AReg) (x : Acc) : (k.setAcc a x).mxq = k.mxq := rfl
@[simp] theorem Core.setAcc_mxrq (k : Core) (a : AReg) (x : Acc) : (k.setAcc a x).mxrq = k.mxrq := rfl
@[simp] theorem Core.setAcc_vxq (k : Core) (a : AReg) (x : Acc) : (k.setAcc a x).vxq = k.vxq := rfl
@[simp] theorem Core.setAcc_cxq (k : Core) (a : AReg) (x : Acc) : (k.setAcc a x).cxq = k.cxq := rfl
@[simp] theorem Core.setAcc_fifo (k : Core) (a : AReg) (x : Acc) : (k.setAcc a x).fifo = k.fifo := rfl
@[simp] theorem Core.setAcc_xfers (k : Core) (a : AReg) (x : Acc) : (k.setAcc a x).xfers = k.xfers := rfl
@[simp] theorem Core.setAcc_cxerr (k : Core) (a : AReg) (x : Acc) : (k.setAcc a x).cxerr = k.cxerr := rfl
@[simp] theorem Core.setAcc_srb (k : Core) (a : AReg) (x : Acc) : (k.setAcc a x).srb = k.srb := rfl
@[simp] theorem Core.setAcc_emark (k : Core) (a : AReg) (x : Acc) : (k.setAcc a x).emark = k.emark := rfl
@[simp] theorem Core.setAcc_late (k : Core) (a : AReg) (x : Acc) : (k.setAcc a x).late = k.late := rfl
@[simp] theorem Core.setAcc_sfq (k : Core) (a : AReg) (x : Acc) : (k.setAcc a x).sfq = k.sfq := rfl
@[simp] theorem Core.setAcc_ro (k : Core) (a : AReg) (x : Acc) : (k.setAcc a x).ro = k.ro := rfl
@[simp] theorem Core.setAcc_loads (k : Core) (a : AReg) (x : Acc) : (k.setAcc a x).loads = k.loads := rfl
@[simp] theorem Core.setAcc_decrs (k : Core) (a : AReg) (x : Acc) : (k.setAcc a x).decrs = k.decrs := rfl
@[simp] theorem Core.setAcc_detSeq (k : Core) (a : AReg) (x : Acc) : (k.setAcc a x).detSeq = k.detSeq := rfl
@[simp] theorem Core.setAcc_rcc (k : Core) (a : AReg) (x : Acc) : (k.setAcc a x).rcc = k.rcc := rfl
@[simp] theorem Core.setAcc_rlog (k : Core) (a : AReg) (x : Acc) : (k.setAcc a x).rlog = k.rlog := rfl
@[simp] theorem Core.setAcc_evc (k : Core) (a : AReg) (x : Acc) : (k.setAcc a x).evc = k.evc := rfl
@[simp] theorem Core.setAcc_mxevc (k : Core) (a : AReg) (x : Acc) : (k.setAcc a x).mxevc = k.mxevc := rfl
@[simp] theorem Core.setAcc_retry (k : Core) (a : AReg) (x : Acc) : (k.setAcc a x).retry = k.retry := rfl
@[simp] theorem Core.setAcc_avail (k : Core) (a : AReg) (x : Acc) : (k.setAcc a x).avail = k.avail := rfl
@[simp] theorem Core.setAcc_ids (k : Core) (a : AReg) (x : Acc) : (k.setAcc a x).ids = k.ids := rfl

/-! ### `Core.count` -/

@[simp] theorem Core.count_run (k : Core) (n : Nat) : (k.count n).run = k.run := rfl
@[simp] theorem Core.count_blk (k : Core) (n : Nat) : (k.count n).blk = k.blk := rfl
@[simp] theorem Core.count_pc (k : Core) (n : Nat) : (k.count n).pc = k.pc := rfl
@[simp] theorem Core.count_line (k : Core) (n : Nat) : (k.count n).line = k.line := rfl
@[simp] theorem Core.count_stop (k : Core) (n : Nat) : (k.count n).stop = k.stop := rfl
@[simp] theorem Core.count_edge (k : Core) (n : Nat) : (k.count n).edge = k.edge := rfl
@[simp] theorem Core.count_ahead (k : Core) (n : Nat) : (k.count n).ahead = k.ahead := rfl
@[simp] theorem Core.count_hold (k : Core) (n : Nat) : (k.count n).hold = k.hold := rfl
@[simp] theorem Core.count_dev (k : Core) (n : Nat) : (k.count n).dev = k.dev := rfl
@[simp] theorem Core.count_sblk (k : Core) (n : Nat) : (k.count n).sblk = k.sblk := rfl
@[simp] theorem Core.count_part (k : Core) (n : Nat) : (k.count n).part = k.part := rfl
@[simp] theorem Core.count_mxs (k : Core) (n : Nat) : (k.count n).mxs = k.mxs := rfl
@[simp] theorem Core.count_capmx (k : Core) (n : Nat) : (k.count n).capmx = k.capmx := rfl
@[simp] theorem Core.count_orc (k : Core) (n : Nat) : (k.count n).orc = k.orc := rfl
@[simp] theorem Core.count_cxdone (k : Core) (n : Nat) : (k.count n).cxdone = k.cxdone := rfl
@[simp] theorem Core.count_cxnext (k : Core) (n : Nat) : (k.count n).cxnext = k.cxnext := rfl
@[simp] theorem Core.count_cxfin (k : Core) (n : Nat) : (k.count n).cxfin = k.cxfin := rfl
@[simp] theorem Core.count_mxprog (k : Core) (n : Nat) : (k.count n).mxprog = k.mxprog := rfl
@[simp] theorem Core.count_buoys (k : Core) (n : Nat) : (k.count n).buoys = k.buoys := rfl
@[simp] theorem Core.count_owed (k : Core) (n : Nat) : (k.count n).owed = k.owed := rfl
@[simp] theorem Core.count_accs (k : Core) (n : Nat) : (k.count n).accs = k.accs := rfl
@[simp] theorem Core.count_t0 (k : Core) (n : Nat) : (k.count n).t0 = k.t0 := rfl
@[simp] theorem Core.count_t1 (k : Core) (n : Nat) : (k.count n).t1 = k.t1 := rfl
@[simp] theorem Core.count_ents (k : Core) (n : Nat) : (k.count n).ents = k.ents := rfl
@[simp] theorem Core.count_last (k : Core) (n : Nat) : (k.count n).last = k.last := rfl
@[simp] theorem Core.count_chans (k : Core) (n : Nat) : (k.count n).chans = k.chans := rfl
@[simp] theorem Core.count_cmask (k : Core) (n : Nat) : (k.count n).cmask = k.cmask := rfl
@[simp] theorem Core.count_inChan (k : Core) (n : Nat) : (k.count n).inChan = k.inChan := rfl
@[simp] theorem Core.count_inMx (k : Core) (n : Nat) : (k.count n).inMx = k.inMx := rfl
@[simp] theorem Core.count_atc (k : Core) (n : Nat) : (k.count n).atc = k.atc := rfl
@[simp] theorem Core.count_moor (k : Core) (n : Nat) : (k.count n).moor = k.moor := rfl
@[simp] theorem Core.count_mxq (k : Core) (n : Nat) : (k.count n).mxq = k.mxq := rfl
@[simp] theorem Core.count_mxrq (k : Core) (n : Nat) : (k.count n).mxrq = k.mxrq := rfl
@[simp] theorem Core.count_vxq (k : Core) (n : Nat) : (k.count n).vxq = k.vxq := rfl
@[simp] theorem Core.count_cxq (k : Core) (n : Nat) : (k.count n).cxq = k.cxq := rfl
@[simp] theorem Core.count_fifo (k : Core) (n : Nat) : (k.count n).fifo = k.fifo := rfl
@[simp] theorem Core.count_xfers (k : Core) (n : Nat) : (k.count n).xfers = k.xfers := rfl
@[simp] theorem Core.count_cxerr (k : Core) (n : Nat) : (k.count n).cxerr = k.cxerr := rfl
@[simp] theorem Core.count_srb (k : Core) (n : Nat) : (k.count n).srb = k.srb := rfl
@[simp] theorem Core.count_emark (k : Core) (n : Nat) : (k.count n).emark = k.emark := rfl
@[simp] theorem Core.count_late (k : Core) (n : Nat) : (k.count n).late = k.late := rfl
@[simp] theorem Core.count_sfq (k : Core) (n : Nat) : (k.count n).sfq = k.sfq := rfl
@[simp] theorem Core.count_ro (k : Core) (n : Nat) : (k.count n).ro = k.ro := rfl
@[simp] theorem Core.count_loads (k : Core) (n : Nat) : (k.count n).loads = k.loads := rfl
@[simp] theorem Core.count_decrs (k : Core) (n : Nat) : (k.count n).decrs = k.decrs := rfl
@[simp] theorem Core.count_detSeq (k : Core) (n : Nat) : (k.count n).detSeq = k.detSeq := rfl
@[simp] theorem Core.count_rcc (k : Core) (n : Nat) : (k.count n).rcc = k.rcc := rfl
@[simp] theorem Core.count_rlog (k : Core) (n : Nat) : (k.count n).rlog = k.rlog := rfl
@[simp] theorem Core.count_mxevc (k : Core) (n : Nat) : (k.count n).mxevc = k.mxevc := rfl
@[simp] theorem Core.count_retry (k : Core) (n : Nat) : (k.count n).retry = k.retry := rfl
@[simp] theorem Core.count_avail (k : Core) (n : Nat) : (k.count n).avail = k.avail := rfl
@[simp] theorem Core.count_ids (k : Core) (n : Nat) : (k.count n).ids = k.ids := rfl

/-! ### Tables -/

@[simp] theorem Tab.get_set_self {α : Type} (d : α) (t : Tab α) (n : Nat) (x : α) : Tab.get d (Tab.set t n x) n = x := by
  induction t with
  | nil => simp [Tab.set, Tab.get]
  | cons p t ih =>
    obtain ⟨k, v⟩ := p
    simp only [Tab.set]
    split
    · simp [Tab.get]
    · split
      · simp [Tab.get]
      · simp [Tab.get, *]

theorem Tab.get_set_ne {α : Type} (d : α) (t : Tab α) {n m : Nat} (x : α) (h : m ≠ n) : Tab.get d (Tab.set t n x) m = Tab.get d t m := by
  induction t with
  | nil => simp [Tab.set, Tab.get, h.symm]
  | cons p t ih =>
    obtain ⟨k, v⟩ := p
    simp only [Tab.set]
    split
    · subst_vars; simp [Tab.get, h.symm]
    · split
      · simp [Tab.get, h.symm]
      · simp [Tab.get, ih]

/-! ### Reading what was written -/

@[simp] theorem State.setCore_core_self (s : State) (c : CoreId) (k : Core) : (s.setCore c k).core c = k := by
  simp [State.core, State.setCore]

theorem State.setCore_core_ne (s : State) {c d : CoreId} (k : Core) (h : d ≠ c) : (s.setCore c k).core d = s.core d := by
  simp only [State.core, State.setCore]
  exact Tab.get_set_ne _ _ _ fun e => h (BitVec.eq_of_toNat_eq e)

@[simp] theorem State.modCore_core_self (s : State) (c : CoreId) (f : Core → Core) : (s.modCore c f).core c = f (s.core c) :=
  s.setCore_core_self c _

theorem State.modCore_core_ne (s : State) {c d : CoreId} (f : Core → Core) (h : d ≠ c) : (s.modCore c f).core d = s.core d :=
  s.setCore_core_ne _ h

@[simp] theorem Core.setEnt_ent_self (k : Core) (h : Hidx) (e : Entry) : (k.setEnt h e).ent h = e := by simp [Core.ent, Core.setEnt]

theorem Core.setEnt_ent_ne (k : Core) {h i : Hidx} (e : Entry) (n : i ≠ h) : (k.setEnt h e).ent i = k.ent i := by
  simp only [Core.ent, Core.setEnt]
  exact Tab.get_set_ne _ _ _ fun e => n (BitVec.eq_of_toNat_eq e)

@[simp] theorem Core.setChan_chan_self (k : Core) (n : Chan) (e : ChanEnt) : (k.setChan n e).chan n = e := by simp [Core.chan, Core.setChan]

@[simp] theorem Core.setAcc_acc_self (k : Core) (a : AReg) (x : Acc) : (k.setAcc a x).acc a = x := by simp [Core.acc, Core.setAcc]

@[simp] theorem State.modEnt_ent_self (s : State) (c : CoreId) (h : Hidx) (f : Entry → Entry) : (s.modEnt c h f).ent c h = f (s.ent c h) := by
  simp [State.ent, State.modEnt]

@[simp] theorem State.setBuoy_buoy_self (s : State) (c : CoreId) (b : BuoyId) (x : Buoy) : ((s.setBuoy c b x).core c).buoy b = x := by
  simp [State.setBuoy, Core.buoy]

@[simp] theorem State.modSlice_slice_self (s : State) (n : Nat) (f : Slice → Slice) : (s.modSlice n f).slice n = f (s.slice n) := by
  simp [State.slice, State.modSlice]

@[simp] theorem State.modObj_obj_self (s : State) (r : ObjRef) (f : Obj → Obj) : (s.modObj r f).obj r = f (s.obj r) := by
  simp [State.obj, State.modObj]

@[simp] theorem State.wr64_core (s : State) (a : Nat) (w : Word) (c : CoreId) : (s.wr64 a w).core c = s.core c := rfl
@[simp] theorem State.setWs_core (s : State) (c : CoreId) (b : BitVec 7) (o : Nat) (w : Word) (d : CoreId) : (s.setWs c b o w).core d = s.core d := rfl
@[simp] theorem State.emit_core (s : State) (e : Event) (c : CoreId) : (s.emit e).core c = s.core c := rfl
@[simp] theorem State.modSlice_core (s : State) (n : Nat) (f : Slice → Slice) (c : CoreId) : (s.modSlice n f).core c = s.core c := rfl
@[simp] theorem State.emit_net (s : State) (e : Event) : (s.emit e).net = s.net ++ [e] := rfl
@[simp] theorem State.emits_net (s : State) (l : List Event) : (s.emits l).net = s.net ++ l := rfl

/-! ### `State.modRec` -/

@[simp] theorem State.modRec_time (s : State) (r : RecRef) (f : DRec → DRec) : (s.modRec r f).time = s.time := by unfold State.modRec; split <;> rfl
@[simp] theorem State.modRec_mem (s : State) (r : RecRef) (f : DRec → DRec) : (s.modRec r f).mem = s.mem := by unfold State.modRec; split <;> rfl
@[simp] theorem State.modRec_poison (s : State) (r : RecRef) (f : DRec → DRec) : (s.modRec r f).poison = s.poison := by unfold State.modRec; split <;> rfl
@[simp] theorem State.modRec_hkey (s : State) (r : RecRef) (f : DRec → DRec) : (s.modRec r f).hkey = s.hkey := by unfold State.modRec; split <;> rfl
@[simp] theorem State.modRec_badchk (s : State) (r : RecRef) (f : DRec → DRec) : (s.modRec r f).badchk = s.badchk := by unfold State.modRec; split <;> rfl
@[simp] theorem State.modRec_cores (s : State) (r : RecRef) (f : DRec → DRec) : (s.modRec r f).cores = s.cores := by unfold State.modRec; split <;> rfl
@[simp] theorem State.modRec_slices (s : State) (r : RecRef) (f : DRec → DRec) : (s.modRec r f).slices = s.slices := by unfold State.modRec; split <;> rfl
@[simp] theorem State.modRec_lines (s : State) (r : RecRef) (f : DRec → DRec) : (s.modRec r f).lines = s.lines := by unfold State.modRec; split <;> rfl
@[simp] theorem State.modRec_wbq (s : State) (r : RecRef) (f : DRec → DRec) : (s.modRec r f).wbq = s.wbq := by unfold State.modRec; split <;> rfl
@[simp] theorem State.modRec_fills (s : State) (r : RecRef) (f : DRec → DRec) : (s.modRec r f).fills = s.fills := by unfold State.modRec; split <;> rfl
@[simp] theorem State.modRec_invw (s : State) (r : RecRef) (f : DRec → DRec) : (s.modRec r f).invw = s.invw := by unfold State.modRec; split <;> rfl
@[simp] theorem State.modRec_qbuf (s : State) (r : RecRef) (f : DRec → DRec) : (s.modRec r f).qbuf = s.qbuf := by unfold State.modRec; split <;> rfl
@[simp] theorem State.modRec_refused (s : State) (r : RecRef) (f : DRec → DRec) : (s.modRec r f).refused = s.refused := by unfold State.modRec; split <;> rfl
@[simp] theorem State.modRec_spaces (s : State) (r : RecRef) (f : DRec → DRec) : (s.modRec r f).spaces = s.spaces := by unfold State.modRec; split <;> rfl
@[simp] theorem State.modRec_objs (s : State) (r : RecRef) (f : DRec → DRec) : (s.modRec r f).objs = s.objs := by unfold State.modRec; split <;> rfl
@[simp] theorem State.modRec_lqs (s : State) (r : RecRef) (f : DRec → DRec) : (s.modRec r f).lqs = s.lqs := by unfold State.modRec; split <;> rfl
@[simp] theorem State.modRec_wins (s : State) (r : RecRef) (f : DRec → DRec) : (s.modRec r f).wins = s.wins := by unfold State.modRec; split <;> rfl
@[simp] theorem State.modRec_wds (s : State) (r : RecRef) (f : DRec → DRec) : (s.modRec r f).wds = s.wds := by unfold State.modRec; split <;> rfl
@[simp] theorem State.modRec_unmaps (s : State) (r : RecRef) (f : DRec → DRec) : (s.modRec r f).unmaps = s.unmaps := by unfold State.modRec; split <;> rfl
@[simp] theorem State.modRec_bops (s : State) (r : RecRef) (f : DRec → DRec) : (s.modRec r f).bops = s.bops := by unfold State.modRec; split <;> rfl
@[simp] theorem State.modRec_keys (s : State) (r : RecRef) (f : DRec → DRec) : (s.modRec r f).keys = s.keys := by unfold State.modRec; split <;> rfl
@[simp] theorem State.modRec_fns (s : State) (r : RecRef) (f : DRec → DRec) : (s.modRec r f).fns = s.fns := by unfold State.modRec; split <;> rfl
@[simp] theorem State.modRec_ports (s : State) (r : RecRef) (f : DRec → DRec) : (s.modRec r f).ports = s.ports := by unfold State.modRec; split <;> rfl
@[simp] theorem State.modRec_peers (s : State) (r : RecRef) (f : DRec → DRec) : (s.modRec r f).peers = s.peers := by unfold State.modRec; split <;> rfl
@[simp] theorem State.modRec_hosts (s : State) (r : RecRef) (f : DRec → DRec) : (s.modRec r f).hosts = s.hosts := by unfold State.modRec; split <;> rfl
@[simp] theorem State.modRec_quar (s : State) (r : RecRef) (f : DRec → DRec) : (s.modRec r f).quar = s.quar := by unfold State.modRec; split <;> rfl
@[simp] theorem State.modRec_lost (s : State) (r : RecRef) (f : DRec → DRec) : (s.modRec r f).lost = s.lost := by unfold State.modRec; split <;> rfl
@[simp] theorem State.modRec_soft (s : State) (r : RecRef) (f : DRec → DRec) : (s.modRec r f).soft = s.soft := by unfold State.modRec; split <;> rfl
@[simp] theorem State.modRec_downs (s : State) (r : RecRef) (f : DRec → DRec) : (s.modRec r f).downs = s.downs := by unfold State.modRec; split <;> rfl
@[simp] theorem State.modRec_shadow (s : State) (r : RecRef) (f : DRec → DRec) : (s.modRec r f).shadow = s.shadow := by unfold State.modRec; split <;> rfl
@[simp] theorem State.modRec_fwmin (s : State) (r : RecRef) (f : DRec → DRec) : (s.modRec r f).fwmin = s.fwmin := by unfold State.modRec; split <;> rfl
@[simp] theorem State.modRec_fwnext (s : State) (r : RecRef) (f : DRec → DRec) : (s.modRec r f).fwnext = s.fwnext := by unfold State.modRec; split <;> rfl
@[simp] theorem State.modRec_lmsLeaf (s : State) (r : RecRef) (f : DRec → DRec) : (s.modRec r f).lmsLeaf = s.lmsLeaf := by unfold State.modRec; split <;> rfl
@[simp] theorem State.modRec_rseq (s : State) (r : RecRef) (f : DRec → DRec) : (s.modRec r f).rseq = s.rseq := by unfold State.modRec; split <;> rfl
@[simp] theorem State.modRec_hot (s : State) (r : RecRef) (f : DRec → DRec) : (s.modRec r f).hot = s.hot := by unfold State.modRec; split <;> rfl
@[simp] theorem State.modRec_net (s : State) (r : RecRef) (f : DRec → DRec) : (s.modRec r f).net = s.net := by unfold State.modRec; split <;> rfl
@[simp] theorem State.modRec_back (s : State) (r : RecRef) (f : DRec → DRec) : (s.modRec r f).back = s.back := by unfold State.modRec; split <;> rfl
@[simp] theorem State.modRec_out (s : State) (r : RecRef) (f : DRec → DRec) : (s.modRec r f).out = s.out := by unfold State.modRec; split <;> rfl
@[simp] theorem State.modRec_ev (s : State) (r : RecRef) (f : DRec → DRec) : (s.modRec r f).ev = s.ev := by unfold State.modRec; split <;> rfl
@[simp] theorem State.modRec_pick (s : State) (r : RecRef) (f : DRec → DRec) : (s.modRec r f).pick = s.pick := by unfold State.modRec; split <;> rfl
@[simp] theorem State.modRec_cur (s : State) (r : RecRef) (f : DRec → DRec) : (s.modRec r f).cur = s.cur := by unfold State.modRec; split <;> rfl
@[simp] theorem State.modRec_svcCur (s : State) (r : RecRef) (f : DRec → DRec) : (s.modRec r f).svcCur = s.svcCur := by unfold State.modRec; split <;> rfl
@[simp] theorem State.modRec_free (s : State) (r : RecRef) (f : DRec → DRec) : (s.modRec r f).free = s.free := by unfold State.modRec; split <;> rfl
@[simp] theorem State.modRec_names (s : State) (r : RecRef) (f : DRec → DRec) : (s.modRec r f).names = s.names := by unfold State.modRec; split <;> rfl

/-! ### `State.modSpace` -/

@[simp] theorem State.modSpace_time (s : State) (sid : Sid) (f : Space → Space) : (s.modSpace sid f).time = s.time := by unfold State.modSpace; split <;> rfl
@[simp] theorem State.modSpace_mem (s : State) (sid : Sid) (f : Space → Space) : (s.modSpace sid f).mem = s.mem := by unfold State.modSpace; split <;> rfl
@[simp] theorem State.modSpace_poison (s : State) (sid : Sid) (f : Space → Space) : (s.modSpace sid f).poison = s.poison := by unfold State.modSpace; split <;> rfl
@[simp] theorem State.modSpace_hkey (s : State) (sid : Sid) (f : Space → Space) : (s.modSpace sid f).hkey = s.hkey := by unfold State.modSpace; split <;> rfl
@[simp] theorem State.modSpace_badchk (s : State) (sid : Sid) (f : Space → Space) : (s.modSpace sid f).badchk = s.badchk := by unfold State.modSpace; split <;> rfl
@[simp] theorem State.modSpace_cores (s : State) (sid : Sid) (f : Space → Space) : (s.modSpace sid f).cores = s.cores := by unfold State.modSpace; split <;> rfl
@[simp] theorem State.modSpace_slices (s : State) (sid : Sid) (f : Space → Space) : (s.modSpace sid f).slices = s.slices := by unfold State.modSpace; split <;> rfl
@[simp] theorem State.modSpace_lines (s : State) (sid : Sid) (f : Space → Space) : (s.modSpace sid f).lines = s.lines := by unfold State.modSpace; split <;> rfl
@[simp] theorem State.modSpace_wbq (s : State) (sid : Sid) (f : Space → Space) : (s.modSpace sid f).wbq = s.wbq := by unfold State.modSpace; split <;> rfl
@[simp] theorem State.modSpace_fills (s : State) (sid : Sid) (f : Space → Space) : (s.modSpace sid f).fills = s.fills := by unfold State.modSpace; split <;> rfl
@[simp] theorem State.modSpace_invw (s : State) (sid : Sid) (f : Space → Space) : (s.modSpace sid f).invw = s.invw := by unfold State.modSpace; split <;> rfl
@[simp] theorem State.modSpace_qbuf (s : State) (sid : Sid) (f : Space → Space) : (s.modSpace sid f).qbuf = s.qbuf := by unfold State.modSpace; split <;> rfl
@[simp] theorem State.modSpace_refused (s : State) (sid : Sid) (f : Space → Space) : (s.modSpace sid f).refused = s.refused := by unfold State.modSpace; split <;> rfl
@[simp] theorem State.modSpace_recs (s : State) (sid : Sid) (f : Space → Space) : (s.modSpace sid f).recs = s.recs := by unfold State.modSpace; split <;> rfl
@[simp] theorem State.modSpace_objs (s : State) (sid : Sid) (f : Space → Space) : (s.modSpace sid f).objs = s.objs := by unfold State.modSpace; split <;> rfl
@[simp] theorem State.modSpace_lqs (s : State) (sid : Sid) (f : Space → Space) : (s.modSpace sid f).lqs = s.lqs := by unfold State.modSpace; split <;> rfl
@[simp] theorem State.modSpace_wins (s : State) (sid : Sid) (f : Space → Space) : (s.modSpace sid f).wins = s.wins := by unfold State.modSpace; split <;> rfl
@[simp] theorem State.modSpace_wds (s : State) (sid : Sid) (f : Space → Space) : (s.modSpace sid f).wds = s.wds := by unfold State.modSpace; split <;> rfl
@[simp] theorem State.modSpace_unmaps (s : State) (sid : Sid) (f : Space → Space) : (s.modSpace sid f).unmaps = s.unmaps := by unfold State.modSpace; split <;> rfl
@[simp] theorem State.modSpace_bops (s : State) (sid : Sid) (f : Space → Space) : (s.modSpace sid f).bops = s.bops := by unfold State.modSpace; split <;> rfl
@[simp] theorem State.modSpace_keys (s : State) (sid : Sid) (f : Space → Space) : (s.modSpace sid f).keys = s.keys := by unfold State.modSpace; split <;> rfl
@[simp] theorem State.modSpace_fns (s : State) (sid : Sid) (f : Space → Space) : (s.modSpace sid f).fns = s.fns := by unfold State.modSpace; split <;> rfl
@[simp] theorem State.modSpace_ports (s : State) (sid : Sid) (f : Space → Space) : (s.modSpace sid f).ports = s.ports := by unfold State.modSpace; split <;> rfl
@[simp] theorem State.modSpace_peers (s : State) (sid : Sid) (f : Space → Space) : (s.modSpace sid f).peers = s.peers := by unfold State.modSpace; split <;> rfl
@[simp] theorem State.modSpace_hosts (s : State) (sid : Sid) (f : Space → Space) : (s.modSpace sid f).hosts = s.hosts := by unfold State.modSpace; split <;> rfl
@[simp] theorem State.modSpace_quar (s : State) (sid : Sid) (f : Space → Space) : (s.modSpace sid f).quar = s.quar := by unfold State.modSpace; split <;> rfl
@[simp] theorem State.modSpace_lost (s : State) (sid : Sid) (f : Space → Space) : (s.modSpace sid f).lost = s.lost := by unfold State.modSpace; split <;> rfl
@[simp] theorem State.modSpace_soft (s : State) (sid : Sid) (f : Space → Space) : (s.modSpace sid f).soft = s.soft := by unfold State.modSpace; split <;> rfl
@[simp] theorem State.modSpace_downs (s : State) (sid : Sid) (f : Space → Space) : (s.modSpace sid f).downs = s.downs := by unfold State.modSpace; split <;> rfl
@[simp] theorem State.modSpace_shadow (s : State) (sid : Sid) (f : Space → Space) : (s.modSpace sid f).shadow = s.shadow := by unfold State.modSpace; split <;> rfl
@[simp] theorem State.modSpace_fwmin (s : State) (sid : Sid) (f : Space → Space) : (s.modSpace sid f).fwmin = s.fwmin := by unfold State.modSpace; split <;> rfl
@[simp] theorem State.modSpace_fwnext (s : State) (sid : Sid) (f : Space → Space) : (s.modSpace sid f).fwnext = s.fwnext := by unfold State.modSpace; split <;> rfl
@[simp] theorem State.modSpace_lmsLeaf (s : State) (sid : Sid) (f : Space → Space) : (s.modSpace sid f).lmsLeaf = s.lmsLeaf := by unfold State.modSpace; split <;> rfl
@[simp] theorem State.modSpace_rseq (s : State) (sid : Sid) (f : Space → Space) : (s.modSpace sid f).rseq = s.rseq := by unfold State.modSpace; split <;> rfl
@[simp] theorem State.modSpace_hot (s : State) (sid : Sid) (f : Space → Space) : (s.modSpace sid f).hot = s.hot := by unfold State.modSpace; split <;> rfl
@[simp] theorem State.modSpace_net (s : State) (sid : Sid) (f : Space → Space) : (s.modSpace sid f).net = s.net := by unfold State.modSpace; split <;> rfl
@[simp] theorem State.modSpace_back (s : State) (sid : Sid) (f : Space → Space) : (s.modSpace sid f).back = s.back := by unfold State.modSpace; split <;> rfl
@[simp] theorem State.modSpace_out (s : State) (sid : Sid) (f : Space → Space) : (s.modSpace sid f).out = s.out := by unfold State.modSpace; split <;> rfl
@[simp] theorem State.modSpace_ev (s : State) (sid : Sid) (f : Space → Space) : (s.modSpace sid f).ev = s.ev := by unfold State.modSpace; split <;> rfl
@[simp] theorem State.modSpace_pick (s : State) (sid : Sid) (f : Space → Space) : (s.modSpace sid f).pick = s.pick := by unfold State.modSpace; split <;> rfl
@[simp] theorem State.modSpace_cur (s : State) (sid : Sid) (f : Space → Space) : (s.modSpace sid f).cur = s.cur := by unfold State.modSpace; split <;> rfl
@[simp] theorem State.modSpace_svcCur (s : State) (sid : Sid) (f : Space → Space) : (s.modSpace sid f).svcCur = s.svcCur := by unfold State.modSpace; split <;> rfl
@[simp] theorem State.modSpace_free (s : State) (sid : Sid) (f : Space → Space) : (s.modSpace sid f).free = s.free := by unfold State.modSpace; split <;> rfl
@[simp] theorem State.modSpace_names (s : State) (sid : Sid) (f : Space → Space) : (s.modSpace sid f).names = s.names := by unfold State.modSpace; split <;> rfl

/-! ### `State.modLq` -/

@[simp] theorem State.modLq_time (s : State) (p : Pid) (q : Nat) (f : LQueue → LQueue) : (s.modLq p q f).time = s.time := rfl
@[simp] theorem State.modLq_mem (s : State) (p : Pid) (q : Nat) (f : LQueue → LQueue) : (s.modLq p q f).mem = s.mem := rfl
@[simp] theorem State.modLq_poison (s : State) (p : Pid) (q : Nat) (f : LQueue → LQueue) : (s.modLq p q f).poison = s.poison := rfl
@[simp] theorem State.modLq_hkey (s : State) (p : Pid) (q : Nat) (f : LQueue → LQueue) : (s.modLq p q f).hkey = s.hkey := rfl
@[simp] theorem State.modLq_badchk (s : State) (p : Pid) (q : Nat) (f : LQueue → LQueue) : (s.modLq p q f).badchk = s.badchk := rfl
@[simp] theorem State.modLq_cores (s : State) (p : Pid) (q : Nat) (f : LQueue → LQueue) : (s.modLq p q f).cores = s.cores := rfl
@[simp] theorem State.modLq_slices (s : State) (p : Pid) (q : Nat) (f : LQueue → LQueue) : (s.modLq p q f).slices = s.slices := rfl
@[simp] theorem State.modLq_lines (s : State) (p : Pid) (q : Nat) (f : LQueue → LQueue) : (s.modLq p q f).lines = s.lines := rfl
@[simp] theorem State.modLq_wbq (s : State) (p : Pid) (q : Nat) (f : LQueue → LQueue) : (s.modLq p q f).wbq = s.wbq := rfl
@[simp] theorem State.modLq_fills (s : State) (p : Pid) (q : Nat) (f : LQueue → LQueue) : (s.modLq p q f).fills = s.fills := rfl
@[simp] theorem State.modLq_invw (s : State) (p : Pid) (q : Nat) (f : LQueue → LQueue) : (s.modLq p q f).invw = s.invw := rfl
@[simp] theorem State.modLq_qbuf (s : State) (p : Pid) (q : Nat) (f : LQueue → LQueue) : (s.modLq p q f).qbuf = s.qbuf := rfl
@[simp] theorem State.modLq_refused (s : State) (p : Pid) (q : Nat) (f : LQueue → LQueue) : (s.modLq p q f).refused = s.refused := rfl
@[simp] theorem State.modLq_recs (s : State) (p : Pid) (q : Nat) (f : LQueue → LQueue) : (s.modLq p q f).recs = s.recs := rfl
@[simp] theorem State.modLq_spaces (s : State) (p : Pid) (q : Nat) (f : LQueue → LQueue) : (s.modLq p q f).spaces = s.spaces := rfl
@[simp] theorem State.modLq_objs (s : State) (p : Pid) (q : Nat) (f : LQueue → LQueue) : (s.modLq p q f).objs = s.objs := rfl
@[simp] theorem State.modLq_wins (s : State) (p : Pid) (q : Nat) (f : LQueue → LQueue) : (s.modLq p q f).wins = s.wins := rfl
@[simp] theorem State.modLq_wds (s : State) (p : Pid) (q : Nat) (f : LQueue → LQueue) : (s.modLq p q f).wds = s.wds := rfl
@[simp] theorem State.modLq_unmaps (s : State) (p : Pid) (q : Nat) (f : LQueue → LQueue) : (s.modLq p q f).unmaps = s.unmaps := rfl
@[simp] theorem State.modLq_bops (s : State) (p : Pid) (q : Nat) (f : LQueue → LQueue) : (s.modLq p q f).bops = s.bops := rfl
@[simp] theorem State.modLq_keys (s : State) (p : Pid) (q : Nat) (f : LQueue → LQueue) : (s.modLq p q f).keys = s.keys := rfl
@[simp] theorem State.modLq_fns (s : State) (p : Pid) (q : Nat) (f : LQueue → LQueue) : (s.modLq p q f).fns = s.fns := rfl
@[simp] theorem State.modLq_ports (s : State) (p : Pid) (q : Nat) (f : LQueue → LQueue) : (s.modLq p q f).ports = s.ports := rfl
@[simp] theorem State.modLq_peers (s : State) (p : Pid) (q : Nat) (f : LQueue → LQueue) : (s.modLq p q f).peers = s.peers := rfl
@[simp] theorem State.modLq_hosts (s : State) (p : Pid) (q : Nat) (f : LQueue → LQueue) : (s.modLq p q f).hosts = s.hosts := rfl
@[simp] theorem State.modLq_quar (s : State) (p : Pid) (q : Nat) (f : LQueue → LQueue) : (s.modLq p q f).quar = s.quar := rfl
@[simp] theorem State.modLq_lost (s : State) (p : Pid) (q : Nat) (f : LQueue → LQueue) : (s.modLq p q f).lost = s.lost := rfl
@[simp] theorem State.modLq_soft (s : State) (p : Pid) (q : Nat) (f : LQueue → LQueue) : (s.modLq p q f).soft = s.soft := rfl
@[simp] theorem State.modLq_downs (s : State) (p : Pid) (q : Nat) (f : LQueue → LQueue) : (s.modLq p q f).downs = s.downs := rfl
@[simp] theorem State.modLq_shadow (s : State) (p : Pid) (q : Nat) (f : LQueue → LQueue) : (s.modLq p q f).shadow = s.shadow := rfl
@[simp] theorem State.modLq_fwmin (s : State) (p : Pid) (q : Nat) (f : LQueue → LQueue) : (s.modLq p q f).fwmin = s.fwmin := rfl
@[simp] theorem State.modLq_fwnext (s : State) (p : Pid) (q : Nat) (f : LQueue → LQueue) : (s.modLq p q f).fwnext = s.fwnext := rfl
@[simp] theorem State.modLq_lmsLeaf (s : State) (p : Pid) (q : Nat) (f : LQueue → LQueue) : (s.modLq p q f).lmsLeaf = s.lmsLeaf := rfl
@[simp] theorem State.modLq_rseq (s : State) (p : Pid) (q : Nat) (f : LQueue → LQueue) : (s.modLq p q f).rseq = s.rseq := rfl
@[simp] theorem State.modLq_hot (s : State) (p : Pid) (q : Nat) (f : LQueue → LQueue) : (s.modLq p q f).hot = s.hot := rfl
@[simp] theorem State.modLq_net (s : State) (p : Pid) (q : Nat) (f : LQueue → LQueue) : (s.modLq p q f).net = s.net := rfl
@[simp] theorem State.modLq_back (s : State) (p : Pid) (q : Nat) (f : LQueue → LQueue) : (s.modLq p q f).back = s.back := rfl
@[simp] theorem State.modLq_out (s : State) (p : Pid) (q : Nat) (f : LQueue → LQueue) : (s.modLq p q f).out = s.out := rfl
@[simp] theorem State.modLq_ev (s : State) (p : Pid) (q : Nat) (f : LQueue → LQueue) : (s.modLq p q f).ev = s.ev := rfl
@[simp] theorem State.modLq_pick (s : State) (p : Pid) (q : Nat) (f : LQueue → LQueue) : (s.modLq p q f).pick = s.pick := rfl
@[simp] theorem State.modLq_cur (s : State) (p : Pid) (q : Nat) (f : LQueue → LQueue) : (s.modLq p q f).cur = s.cur := rfl
@[simp] theorem State.modLq_svcCur (s : State) (p : Pid) (q : Nat) (f : LQueue → LQueue) : (s.modLq p q f).svcCur = s.svcCur := rfl
@[simp] theorem State.modLq_free (s : State) (p : Pid) (q : Nat) (f : LQueue → LQueue) : (s.modLq p q f).free = s.free := rfl
@[simp] theorem State.modLq_names (s : State) (p : Pid) (q : Nat) (f : LQueue → LQueue) : (s.modLq p q f).names = s.names := rfl

/-! ### `State.modPort` -/

@[simp] theorem State.modPort_time (s : State) (n : Nat) (f : Port → Port) : (s.modPort n f).time = s.time := rfl
@[simp] theorem State.modPort_mem (s : State) (n : Nat) (f : Port → Port) : (s.modPort n f).mem = s.mem := rfl
@[simp] theorem State.modPort_poison (s : State) (n : Nat) (f : Port → Port) : (s.modPort n f).poison = s.poison := rfl
@[simp] theorem State.modPort_hkey (s : State) (n : Nat) (f : Port → Port) : (s.modPort n f).hkey = s.hkey := rfl
@[simp] theorem State.modPort_badchk (s : State) (n : Nat) (f : Port → Port) : (s.modPort n f).badchk = s.badchk := rfl
@[simp] theorem State.modPort_cores (s : State) (n : Nat) (f : Port → Port) : (s.modPort n f).cores = s.cores := rfl
@[simp] theorem State.modPort_slices (s : State) (n : Nat) (f : Port → Port) : (s.modPort n f).slices = s.slices := rfl
@[simp] theorem State.modPort_lines (s : State) (n : Nat) (f : Port → Port) : (s.modPort n f).lines = s.lines := rfl
@[simp] theorem State.modPort_wbq (s : State) (n : Nat) (f : Port → Port) : (s.modPort n f).wbq = s.wbq := rfl
@[simp] theorem State.modPort_fills (s : State) (n : Nat) (f : Port → Port) : (s.modPort n f).fills = s.fills := rfl
@[simp] theorem State.modPort_invw (s : State) (n : Nat) (f : Port → Port) : (s.modPort n f).invw = s.invw := rfl
@[simp] theorem State.modPort_qbuf (s : State) (n : Nat) (f : Port → Port) : (s.modPort n f).qbuf = s.qbuf := rfl
@[simp] theorem State.modPort_refused (s : State) (n : Nat) (f : Port → Port) : (s.modPort n f).refused = s.refused := rfl
@[simp] theorem State.modPort_recs (s : State) (n : Nat) (f : Port → Port) : (s.modPort n f).recs = s.recs := rfl
@[simp] theorem State.modPort_spaces (s : State) (n : Nat) (f : Port → Port) : (s.modPort n f).spaces = s.spaces := rfl
@[simp] theorem State.modPort_objs (s : State) (n : Nat) (f : Port → Port) : (s.modPort n f).objs = s.objs := rfl
@[simp] theorem State.modPort_lqs (s : State) (n : Nat) (f : Port → Port) : (s.modPort n f).lqs = s.lqs := rfl
@[simp] theorem State.modPort_wins (s : State) (n : Nat) (f : Port → Port) : (s.modPort n f).wins = s.wins := rfl
@[simp] theorem State.modPort_wds (s : State) (n : Nat) (f : Port → Port) : (s.modPort n f).wds = s.wds := rfl
@[simp] theorem State.modPort_unmaps (s : State) (n : Nat) (f : Port → Port) : (s.modPort n f).unmaps = s.unmaps := rfl
@[simp] theorem State.modPort_bops (s : State) (n : Nat) (f : Port → Port) : (s.modPort n f).bops = s.bops := rfl
@[simp] theorem State.modPort_keys (s : State) (n : Nat) (f : Port → Port) : (s.modPort n f).keys = s.keys := rfl
@[simp] theorem State.modPort_fns (s : State) (n : Nat) (f : Port → Port) : (s.modPort n f).fns = s.fns := rfl
@[simp] theorem State.modPort_peers (s : State) (n : Nat) (f : Port → Port) : (s.modPort n f).peers = s.peers := rfl
@[simp] theorem State.modPort_hosts (s : State) (n : Nat) (f : Port → Port) : (s.modPort n f).hosts = s.hosts := rfl
@[simp] theorem State.modPort_quar (s : State) (n : Nat) (f : Port → Port) : (s.modPort n f).quar = s.quar := rfl
@[simp] theorem State.modPort_lost (s : State) (n : Nat) (f : Port → Port) : (s.modPort n f).lost = s.lost := rfl
@[simp] theorem State.modPort_soft (s : State) (n : Nat) (f : Port → Port) : (s.modPort n f).soft = s.soft := rfl
@[simp] theorem State.modPort_downs (s : State) (n : Nat) (f : Port → Port) : (s.modPort n f).downs = s.downs := rfl
@[simp] theorem State.modPort_shadow (s : State) (n : Nat) (f : Port → Port) : (s.modPort n f).shadow = s.shadow := rfl
@[simp] theorem State.modPort_fwmin (s : State) (n : Nat) (f : Port → Port) : (s.modPort n f).fwmin = s.fwmin := rfl
@[simp] theorem State.modPort_fwnext (s : State) (n : Nat) (f : Port → Port) : (s.modPort n f).fwnext = s.fwnext := rfl
@[simp] theorem State.modPort_lmsLeaf (s : State) (n : Nat) (f : Port → Port) : (s.modPort n f).lmsLeaf = s.lmsLeaf := rfl
@[simp] theorem State.modPort_rseq (s : State) (n : Nat) (f : Port → Port) : (s.modPort n f).rseq = s.rseq := rfl
@[simp] theorem State.modPort_hot (s : State) (n : Nat) (f : Port → Port) : (s.modPort n f).hot = s.hot := rfl
@[simp] theorem State.modPort_net (s : State) (n : Nat) (f : Port → Port) : (s.modPort n f).net = s.net := rfl
@[simp] theorem State.modPort_back (s : State) (n : Nat) (f : Port → Port) : (s.modPort n f).back = s.back := rfl
@[simp] theorem State.modPort_out (s : State) (n : Nat) (f : Port → Port) : (s.modPort n f).out = s.out := rfl
@[simp] theorem State.modPort_ev (s : State) (n : Nat) (f : Port → Port) : (s.modPort n f).ev = s.ev := rfl
@[simp] theorem State.modPort_pick (s : State) (n : Nat) (f : Port → Port) : (s.modPort n f).pick = s.pick := rfl
@[simp] theorem State.modPort_cur (s : State) (n : Nat) (f : Port → Port) : (s.modPort n f).cur = s.cur := rfl
@[simp] theorem State.modPort_svcCur (s : State) (n : Nat) (f : Port → Port) : (s.modPort n f).svcCur = s.svcCur := rfl
@[simp] theorem State.modPort_free (s : State) (n : Nat) (f : Port → Port) : (s.modPort n f).free = s.free := rfl
@[simp] theorem State.modPort_names (s : State) (n : Nat) (f : Port → Port) : (s.modPort n f).names = s.names := rfl

/-! ### `State.modFn` -/

@[simp] theorem State.modFn_time (s : State) (f : FnId) (g : Fn → Fn) : (s.modFn f g).time = s.time := rfl
@[simp] theorem State.modFn_mem (s : State) (f : FnId) (g : Fn → Fn) : (s.modFn f g).mem = s.mem := rfl
@[simp] theorem State.modFn_poison (s : State) (f : FnId) (g : Fn → Fn) : (s.modFn f g).poison = s.poison := rfl
@[simp] theorem State.modFn_hkey (s : State) (f : FnId) (g : Fn → Fn) : (s.modFn f g).hkey = s.hkey := rfl
@[simp] theorem State.modFn_badchk (s : State) (f : FnId) (g : Fn → Fn) : (s.modFn f g).badchk = s.badchk := rfl
@[simp] theorem State.modFn_cores (s : State) (f : FnId) (g : Fn → Fn) : (s.modFn f g).cores = s.cores := rfl
@[simp] theorem State.modFn_slices (s : State) (f : FnId) (g : Fn → Fn) : (s.modFn f g).slices = s.slices := rfl
@[simp] theorem State.modFn_lines (s : State) (f : FnId) (g : Fn → Fn) : (s.modFn f g).lines = s.lines := rfl
@[simp] theorem State.modFn_wbq (s : State) (f : FnId) (g : Fn → Fn) : (s.modFn f g).wbq = s.wbq := rfl
@[simp] theorem State.modFn_fills (s : State) (f : FnId) (g : Fn → Fn) : (s.modFn f g).fills = s.fills := rfl
@[simp] theorem State.modFn_invw (s : State) (f : FnId) (g : Fn → Fn) : (s.modFn f g).invw = s.invw := rfl
@[simp] theorem State.modFn_qbuf (s : State) (f : FnId) (g : Fn → Fn) : (s.modFn f g).qbuf = s.qbuf := rfl
@[simp] theorem State.modFn_refused (s : State) (f : FnId) (g : Fn → Fn) : (s.modFn f g).refused = s.refused := rfl
@[simp] theorem State.modFn_recs (s : State) (f : FnId) (g : Fn → Fn) : (s.modFn f g).recs = s.recs := rfl
@[simp] theorem State.modFn_spaces (s : State) (f : FnId) (g : Fn → Fn) : (s.modFn f g).spaces = s.spaces := rfl
@[simp] theorem State.modFn_objs (s : State) (f : FnId) (g : Fn → Fn) : (s.modFn f g).objs = s.objs := rfl
@[simp] theorem State.modFn_lqs (s : State) (f : FnId) (g : Fn → Fn) : (s.modFn f g).lqs = s.lqs := rfl
@[simp] theorem State.modFn_wins (s : State) (f : FnId) (g : Fn → Fn) : (s.modFn f g).wins = s.wins := rfl
@[simp] theorem State.modFn_wds (s : State) (f : FnId) (g : Fn → Fn) : (s.modFn f g).wds = s.wds := rfl
@[simp] theorem State.modFn_unmaps (s : State) (f : FnId) (g : Fn → Fn) : (s.modFn f g).unmaps = s.unmaps := rfl
@[simp] theorem State.modFn_bops (s : State) (f : FnId) (g : Fn → Fn) : (s.modFn f g).bops = s.bops := rfl
@[simp] theorem State.modFn_keys (s : State) (f : FnId) (g : Fn → Fn) : (s.modFn f g).keys = s.keys := rfl
@[simp] theorem State.modFn_ports (s : State) (f : FnId) (g : Fn → Fn) : (s.modFn f g).ports = s.ports := rfl
@[simp] theorem State.modFn_peers (s : State) (f : FnId) (g : Fn → Fn) : (s.modFn f g).peers = s.peers := rfl
@[simp] theorem State.modFn_hosts (s : State) (f : FnId) (g : Fn → Fn) : (s.modFn f g).hosts = s.hosts := rfl
@[simp] theorem State.modFn_quar (s : State) (f : FnId) (g : Fn → Fn) : (s.modFn f g).quar = s.quar := rfl
@[simp] theorem State.modFn_lost (s : State) (f : FnId) (g : Fn → Fn) : (s.modFn f g).lost = s.lost := rfl
@[simp] theorem State.modFn_soft (s : State) (f : FnId) (g : Fn → Fn) : (s.modFn f g).soft = s.soft := rfl
@[simp] theorem State.modFn_downs (s : State) (f : FnId) (g : Fn → Fn) : (s.modFn f g).downs = s.downs := rfl
@[simp] theorem State.modFn_shadow (s : State) (f : FnId) (g : Fn → Fn) : (s.modFn f g).shadow = s.shadow := rfl
@[simp] theorem State.modFn_fwmin (s : State) (f : FnId) (g : Fn → Fn) : (s.modFn f g).fwmin = s.fwmin := rfl
@[simp] theorem State.modFn_fwnext (s : State) (f : FnId) (g : Fn → Fn) : (s.modFn f g).fwnext = s.fwnext := rfl
@[simp] theorem State.modFn_lmsLeaf (s : State) (f : FnId) (g : Fn → Fn) : (s.modFn f g).lmsLeaf = s.lmsLeaf := rfl
@[simp] theorem State.modFn_rseq (s : State) (f : FnId) (g : Fn → Fn) : (s.modFn f g).rseq = s.rseq := rfl
@[simp] theorem State.modFn_hot (s : State) (f : FnId) (g : Fn → Fn) : (s.modFn f g).hot = s.hot := rfl
@[simp] theorem State.modFn_net (s : State) (f : FnId) (g : Fn → Fn) : (s.modFn f g).net = s.net := rfl
@[simp] theorem State.modFn_back (s : State) (f : FnId) (g : Fn → Fn) : (s.modFn f g).back = s.back := rfl
@[simp] theorem State.modFn_out (s : State) (f : FnId) (g : Fn → Fn) : (s.modFn f g).out = s.out := rfl
@[simp] theorem State.modFn_ev (s : State) (f : FnId) (g : Fn → Fn) : (s.modFn f g).ev = s.ev := rfl
@[simp] theorem State.modFn_pick (s : State) (f : FnId) (g : Fn → Fn) : (s.modFn f g).pick = s.pick := rfl
@[simp] theorem State.modFn_cur (s : State) (f : FnId) (g : Fn → Fn) : (s.modFn f g).cur = s.cur := rfl
@[simp] theorem State.modFn_svcCur (s : State) (f : FnId) (g : Fn → Fn) : (s.modFn f g).svcCur = s.svcCur := rfl
@[simp] theorem State.modFn_free (s : State) (f : FnId) (g : Fn → Fn) : (s.modFn f g).free = s.free := rfl
@[simp] theorem State.modFn_names (s : State) (f : FnId) (g : Fn → Fn) : (s.modFn f g).names = s.names := rfl

/-! ### `State.modWin` -/

@[simp] theorem State.modWin_time (s : State) (p : Pid) (f : Window → Window) : (s.modWin p f).time = s.time := rfl
@[simp] theorem State.modWin_mem (s : State) (p : Pid) (f : Window → Window) : (s.modWin p f).mem = s.mem := rfl
@[simp] theorem State.modWin_poison (s : State) (p : Pid) (f : Window → Window) : (s.modWin p f).poison = s.poison := rfl
@[simp] theorem State.modWin_hkey (s : State) (p : Pid) (f : Window → Window) : (s.modWin p f).hkey = s.hkey := rfl
@[simp] theorem State.modWin_badchk (s : State) (p : Pid) (f : Window → Window) : (s.modWin p f).badchk = s.badchk := rfl
@[simp] theorem State.modWin_cores (s : State) (p : Pid) (f : Window → Window) : (s.modWin p f).cores = s.cores := rfl
@[simp] theorem State.modWin_slices (s : State) (p : Pid) (f : Window → Window) : (s.modWin p f).slices = s.slices := rfl
@[simp] theorem State.modWin_lines (s : State) (p : Pid) (f : Window → Window) : (s.modWin p f).lines = s.lines := rfl
@[simp] theorem State.modWin_wbq (s : State) (p : Pid) (f : Window → Window) : (s.modWin p f).wbq = s.wbq := rfl
@[simp] theorem State.modWin_fills (s : State) (p : Pid) (f : Window → Window) : (s.modWin p f).fills = s.fills := rfl
@[simp] theorem State.modWin_invw (s : State) (p : Pid) (f : Window → Window) : (s.modWin p f).invw = s.invw := rfl
@[simp] theorem State.modWin_qbuf (s : State) (p : Pid) (f : Window → Window) : (s.modWin p f).qbuf = s.qbuf := rfl
@[simp] theorem State.modWin_refused (s : State) (p : Pid) (f : Window → Window) : (s.modWin p f).refused = s.refused := rfl
@[simp] theorem State.modWin_recs (s : State) (p : Pid) (f : Window → Window) : (s.modWin p f).recs = s.recs := rfl
@[simp] theorem State.modWin_spaces (s : State) (p : Pid) (f : Window → Window) : (s.modWin p f).spaces = s.spaces := rfl
@[simp] theorem State.modWin_objs (s : State) (p : Pid) (f : Window → Window) : (s.modWin p f).objs = s.objs := rfl
@[simp] theorem State.modWin_lqs (s : State) (p : Pid) (f : Window → Window) : (s.modWin p f).lqs = s.lqs := rfl
@[simp] theorem State.modWin_wds (s : State) (p : Pid) (f : Window → Window) : (s.modWin p f).wds = s.wds := rfl
@[simp] theorem State.modWin_unmaps (s : State) (p : Pid) (f : Window → Window) : (s.modWin p f).unmaps = s.unmaps := rfl
@[simp] theorem State.modWin_bops (s : State) (p : Pid) (f : Window → Window) : (s.modWin p f).bops = s.bops := rfl
@[simp] theorem State.modWin_keys (s : State) (p : Pid) (f : Window → Window) : (s.modWin p f).keys = s.keys := rfl
@[simp] theorem State.modWin_fns (s : State) (p : Pid) (f : Window → Window) : (s.modWin p f).fns = s.fns := rfl
@[simp] theorem State.modWin_ports (s : State) (p : Pid) (f : Window → Window) : (s.modWin p f).ports = s.ports := rfl
@[simp] theorem State.modWin_peers (s : State) (p : Pid) (f : Window → Window) : (s.modWin p f).peers = s.peers := rfl
@[simp] theorem State.modWin_hosts (s : State) (p : Pid) (f : Window → Window) : (s.modWin p f).hosts = s.hosts := rfl
@[simp] theorem State.modWin_quar (s : State) (p : Pid) (f : Window → Window) : (s.modWin p f).quar = s.quar := rfl
@[simp] theorem State.modWin_lost (s : State) (p : Pid) (f : Window → Window) : (s.modWin p f).lost = s.lost := rfl
@[simp] theorem State.modWin_soft (s : State) (p : Pid) (f : Window → Window) : (s.modWin p f).soft = s.soft := rfl
@[simp] theorem State.modWin_downs (s : State) (p : Pid) (f : Window → Window) : (s.modWin p f).downs = s.downs := rfl
@[simp] theorem State.modWin_shadow (s : State) (p : Pid) (f : Window → Window) : (s.modWin p f).shadow = s.shadow := rfl
@[simp] theorem State.modWin_fwmin (s : State) (p : Pid) (f : Window → Window) : (s.modWin p f).fwmin = s.fwmin := rfl
@[simp] theorem State.modWin_fwnext (s : State) (p : Pid) (f : Window → Window) : (s.modWin p f).fwnext = s.fwnext := rfl
@[simp] theorem State.modWin_lmsLeaf (s : State) (p : Pid) (f : Window → Window) : (s.modWin p f).lmsLeaf = s.lmsLeaf := rfl
@[simp] theorem State.modWin_rseq (s : State) (p : Pid) (f : Window → Window) : (s.modWin p f).rseq = s.rseq := rfl
@[simp] theorem State.modWin_hot (s : State) (p : Pid) (f : Window → Window) : (s.modWin p f).hot = s.hot := rfl
@[simp] theorem State.modWin_net (s : State) (p : Pid) (f : Window → Window) : (s.modWin p f).net = s.net := rfl
@[simp] theorem State.modWin_back (s : State) (p : Pid) (f : Window → Window) : (s.modWin p f).back = s.back := rfl
@[simp] theorem State.modWin_out (s : State) (p : Pid) (f : Window → Window) : (s.modWin p f).out = s.out := rfl
@[simp] theorem State.modWin_ev (s : State) (p : Pid) (f : Window → Window) : (s.modWin p f).ev = s.ev := rfl
@[simp] theorem State.modWin_pick (s : State) (p : Pid) (f : Window → Window) : (s.modWin p f).pick = s.pick := rfl
@[simp] theorem State.modWin_cur (s : State) (p : Pid) (f : Window → Window) : (s.modWin p f).cur = s.cur := rfl
@[simp] theorem State.modWin_svcCur (s : State) (p : Pid) (f : Window → Window) : (s.modWin p f).svcCur = s.svcCur := rfl
@[simp] theorem State.modWin_free (s : State) (p : Pid) (f : Window → Window) : (s.modWin p f).free = s.free := rfl
@[simp] theorem State.modWin_names (s : State) (p : Pid) (f : Window → Window) : (s.modWin p f).names = s.names := rfl

end Sys2Proof.Machine
end

