-- ==== Sys2Proof/Laws/Memory.lean ====
section
/-! SUPPORT. The laws of memory (R10): every operation keeps the canonical form, and a read after a write finds what was written, and elsewhere
what was there. -/

namespace Sys2Proof.Machine

/-! ## The canonical form -/

theorem Mem.wfFrom_mono {lo lo' : Nat} {m : Mem} (h : Mem.wfFrom lo m = true) (le : lo' ≤ lo) : Mem.wfFrom lo' m = true := by
  cases m with
  | nil => rfl
  | cons p m =>
    obtain ⟨a, b⟩ := p
    simp only [Mem.wfFrom, Bool.and_eq_true, decide_eq_true_eq] at h ⊢
    exact ⟨⟨by omega, h.1.2⟩, h.2⟩

theorem Mem.wfFrom_filter {lo : Nat} {m : Mem} (f : Host.Cell → Bool) (h : Mem.wfFrom lo m = true) : Mem.wfFrom lo (m.filter f) = true := by
  induction m generalizing lo with
  | nil => rfl
  | cons p m ih =>
    obtain ⟨a, b⟩ := p
    simp only [Mem.wfFrom, Bool.and_eq_true, decide_eq_true_eq] at h
    rw [List.filter_cons]
    split
    · simp only [Mem.wfFrom, Bool.and_eq_true, decide_eq_true_eq]
      exact ⟨h.1, ih h.2⟩
    · exact Mem.wfFrom_mono (ih h.2) (by omega)

theorem Mem.wf_filter {m : Mem} (f : Host.Cell → Bool) (h : Mem.wf m = true) : Mem.wf (m.filter f) = true := Mem.wfFrom_filter f h

theorem Mem.wf_erase {m : Mem} (a : Nat) (h : Mem.wf m = true) : Mem.wf (m.erase a) = true := Mem.wf_filter _ h

theorem Mem.wfFrom_insert {lo a : Nat} {b : Byte} {m : Mem} (h : Mem.wfFrom lo m = true) (hb : b ≠ Mem.blank) (ha : ∀ p ∈ m, p.1 ≠ a)
    (le : lo ≤ a) : Mem.wfFrom lo (Mem.insert a b m) = true := by
  induction m generalizing lo with
  | nil => simp [Mem.insert, Mem.wfFrom, le, hb]
  | cons p m ih =>
    obtain ⟨k, c⟩ := p
    simp only [Mem.wfFrom, Bool.and_eq_true, decide_eq_true_eq] at h
    simp only [Mem.insert]
    split
    · rename_i lt
      simp only [Mem.wfFrom, Bool.and_eq_true, decide_eq_true_eq, bne_iff_ne, ne_eq]
      exact ⟨⟨le, hb⟩, ⟨by omega, by simpa using h.1.2⟩, h.2⟩
    · rename_i ge
      have ne : k ≠ a := ha (k, c) (by simp)
      simp only [Mem.wfFrom, Bool.and_eq_true, decide_eq_true_eq]
      exact ⟨h.1, ih h.2 (fun p hp => ha p (by simp [hp])) (by omega)⟩

theorem Mem.wf_write {m : Mem} (a : Nat) (b : Byte) (h : Mem.wf m = true) : Mem.wf (m.write a b) = true := by
  unfold Mem.write
  split
  · exact Mem.wf_erase a h
  · rename_i hb
    exact Mem.wfFrom_insert (Mem.wf_erase a h) hb (by simp [Mem.erase]) (Nat.zero_le _)

theorem Mem.wf_writeN {m : Mem} (a n v : Nat) (h : Mem.wf m = true) : Mem.wf (m.writeN a n v) = true := by
  induction n generalizing m a v with
  | zero => exact h
  | succ n ih => exact ih _ _ (Mem.wf_write _ _ h)

/-- A fold of writes keeps the canonical form. -/
theorem Mem.wf_foldl {α : Type} (f : Mem → α → Mem) (hf : ∀ m x, Mem.wf m = true → Mem.wf (f m x) = true) (l : List α) {m : Mem}
    (h : Mem.wf m = true) : Mem.wf (l.foldl f m) = true := by
  induction l generalizing m with
  | nil => exact h
  | cons x l ih => exact ih (hf m x h)

/-! ## Reads after writes -/

theorem Mem.read_erase_self (m : Mem) (a : Nat) : Mem.read (m.erase a) a = Mem.blank := by
  induction m with
  | nil => rfl
  | cons p m ih =>
    obtain ⟨k, b⟩ := p
    simp only [Mem.erase, List.filter_cons]
    split
    · rename_i h
      simp only [Mem.read]
      rw [if_neg (by simpa using h)]
      exact ih
    · exact ih

theorem Mem.read_erase_ne (m : Mem) {a x : Nat} (h : x ≠ a) : Mem.read (m.erase a) x = Mem.read m x := by
  induction m with
  | nil => rfl
  | cons p m ih =>
    obtain ⟨k, b⟩ := p
    simp only [Mem.erase, List.filter_cons]
    split
    · simp only [Mem.read]
      split
      · rfl
      · exact ih
    · rename_i e
      have : k = a := by simpa using e
      simp only [Mem.read]
      rw [if_neg (by omega)]
      exact ih

theorem Mem.read_insert_self (m : Mem) (a : Nat) (b : Byte) (h : ∀ p ∈ m, p.1 ≠ a) : Mem.read (Mem.insert a b m) a = b := by
  induction m with
  | nil => simp [Mem.insert, Mem.read]
  | cons p m ih =>
    obtain ⟨k, c⟩ := p
    simp only [Mem.insert]
    split
    · simp [Mem.read]
    · simp only [Mem.read]
      rw [if_neg (h (k, c) (by simp))]
      exact ih fun p hp => h p (by simp [hp])

theorem Mem.read_insert_ne (m : Mem) {a x : Nat} (b : Byte) (h : x ≠ a) : Mem.read (Mem.insert a b m) x = Mem.read m x := by
  induction m with
  | nil => simp [Mem.insert, Mem.read, Ne.symm h]
  | cons p m ih =>
    obtain ⟨k, c⟩ := p
    simp only [Mem.insert]
    split
    · simp only [Mem.read]; rw [if_neg (Ne.symm h)]
    · simp only [Mem.read]; rw [ih]

@[simp] theorem Mem.read_write_self (m : Mem) (a : Nat) (b : Byte) : Mem.read (m.write a b) a = b := by
  unfold Mem.write
  split
  · rename_i h; rw [Mem.read_erase_self, h]
  · exact Mem.read_insert_self _ _ _ (by simp [Mem.erase])

theorem Mem.read_write_ne (m : Mem) {a x : Nat} (b : Byte) (h : x ≠ a) : Mem.read (m.write a b) x = Mem.read m x := by
  unfold Mem.write
  split
  · exact Mem.read_erase_ne m h
  · rw [Mem.read_insert_ne _ _ h, Mem.read_erase_ne m h]

theorem Mem.read_writeN_outside (m : Mem) {a x : Nat} (n v : Nat) (h : x < a ∨ a + n ≤ x) : Mem.read (m.writeN a n v) x = Mem.read m x := by
  induction n generalizing m a v with
  | zero => rfl
  | succ n ih =>
    simp only [Mem.writeN]
    rw [ih _ _ (by omega), Mem.read_write_ne _ _ (by omega)]

theorem Mem.readN_writeN_outside (m : Mem) {a x : Nat} (n k v : Nat) (h : x + k ≤ a ∨ a + n ≤ x) :
    Mem.readN (m.writeN a n v) x k = Mem.readN m x k := by
  induction k generalizing x with
  | zero => rfl
  | succ k ih =>
    simp only [Mem.readN]
    rw [Mem.read_writeN_outside _ _ _ (by omega), ih (by omega)]

theorem Mem.readN_writeN_self (m : Mem) (a n v : Nat) : Mem.readN (m.writeN a n v) a n = v % 256 ^ n := by
  induction n generalizing m a v with
  | zero => simp [Mem.readN, Nat.mod_one]
  | succ n ih =>
    simp only [Mem.readN, Mem.writeN]
    rw [ih, Mem.read_writeN_outside _ _ _ (by omega), Mem.read_write_self, BitVec.toNat_ofNat,
      show 256 ^ (n + 1) = 256 * 256 ^ n by rw [Nat.pow_succ, Nat.mul_comm], Nat.mod_mul]

theorem Mem.readN_lt (m : Mem) (a n : Nat) : Mem.readN m a n < 256 ^ n := by
  induction n generalizing a with
  | zero => simp [Mem.readN]
  | succ n ih =>
    simp only [Mem.readN]
    have h1 := ih (a + 1)
    have h2 := (m.read a).isLt
    rw [Nat.pow_succ]
    omega

/-! ## Words -/

@[simp] theorem State.rd64_wr64_self (s : State) (a : Nat) (w : Word) : (s.wr64 a w).rd64 a = w := by
  simp only [State.rd64, State.wr64]
  rw [Mem.readN_writeN_self, Nat.mod_eq_of_lt (by have := w.isLt; omega)]
  simp

theorem State.rd64_wr64_outside (s : State) {a x : Nat} (w : Word) (h : x + 8 ≤ a ∨ a + 8 ≤ x) : (s.wr64 a w).rd64 x = s.rd64 x := by
  simp only [State.rd64, State.wr64]
  rw [Mem.readN_writeN_outside _ _ _ _ (by omega)]

theorem State.wr64_wf {s : State} (a : Nat) (w : Word) (h : Mem.wf s.mem = true) : Mem.wf (s.wr64 a w).mem = true := Mem.wf_writeN _ _ _ h

/-! ## Registers (R63, R118, R120) -/

theorem State.gAt_zero (s : State) (c : CoreId) (b : BitVec 7) : s.gAt c b 0 = 0 := rfl

theorem State.setGAt_zero (s : State) (c : CoreId) (b : BitVec 7) (w : Word) : s.setGAt c b 0 w = s := rfl

@[simp] theorem State.ws_setWs_self (s : State) (c : CoreId) (b : BitVec 7) (o : Nat) (w : Word) : (s.setWs c b o w).ws c b o = w :=
  s.rd64_wr64_self _ w

theorem State.ws_setWs_outside (s : State) (c : CoreId) (b : BitVec 7) {o x : Nat} (w : Word) (h : x + 8 ≤ o ∨ o + 8 ≤ x) :
    (s.setWs c b o w).ws c b x = s.ws c b x := by
  apply State.rd64_wr64_outside
  simp only [wsAddr, spad]
  omega

theorem State.gAt_setGAt_self (s : State) (c : CoreId) (b : BitVec 7) {r : GReg} (w : Word) (h : r ≠ 0) : (s.setGAt c b r w).gAt c b r = w := by
  rw [State.gAt, if_neg h, State.setGAt, if_neg h, State.ws_setWs_self]

theorem State.gAt_setGAt_ne (s : State) (c : CoreId) (b : BitVec 7) {r x : GReg} (w : Word) (h : x ≠ r) :
    (s.setGAt c b r w).gAt c b x = s.gAt c b x := by
  simp only [State.gAt, State.setGAt]
  split
  · rfl
  · split
    · rfl
    · apply State.ws_setWs_outside
      have : x.toNat ≠ r.toNat := fun e => h (BitVec.eq_of_toNat_eq e)
      omega

theorem State.setGAt_wf {s : State} (c : CoreId) (b : BitVec 7) (r : GReg) (w : Word) (h : Mem.wf s.mem = true) :
    Mem.wf (s.setGAt c b r w).mem = true := by
  unfold State.setGAt
  split
  · exact h
  · exact State.wr64_wf _ _ h

@[simp] theorem State.setGAt_core (s : State) (c : CoreId) (b : BitVec 7) (r : GReg) (w : Word) (d : CoreId) :
    (s.setGAt c b r w).core d = s.core d := by
  unfold State.setGAt; split <;> rfl

@[simp] theorem State.setG_core (s : State) (r : GReg) (w : Word) (d : CoreId) : (s.setG r w).core d = s.core d := State.setGAt_core ..

@[simp] theorem State.setG_cur (s : State) (r : GReg) (w : Word) : (s.setG r w).cur = s.cur := by
  unfold State.setG State.setGAt; split <;> rfl

@[simp] theorem State.setG_me (s : State) (r : GReg) (w : Word) : (s.setG r w).me = s.me := by simp [State.me]

/-- A write of a general register changes memory and nothing else. -/
theorem State.setG_eq (s : State) (r : GReg) (w : Word) : s.setG r w = { s with mem := (s.setG r w).mem } := by
  unfold State.setG State.setGAt; split <;> rfl

theorem State.setG_wf {s : State} (r : GReg) (w : Word) (h : Mem.wf s.mem = true) : Mem.wf (s.setG r w).mem = true := State.setGAt_wf _ _ _ _ h

theorem State.g_setG_self (s : State) {r : GReg} (w : Word) (h : r ≠ 0) : (s.setG r w).g r = w := by
  simp only [State.g, State.setG_cur, State.setG_me]
  exact s.gAt_setGAt_self _ _ w h

theorem State.g_setG_ne (s : State) {r x : GReg} (w : Word) (h : x ≠ r) : (s.setG r w).g x = s.g x := by
  simp only [State.g, State.setG_cur, State.setG_me]
  exact s.gAt_setGAt_ne _ _ w h

end Sys2Proof.Machine
end

