-- ==== Sys2Proof/Laws/Operands.lean ====
section
/-! SUPPORT. What the shared operand operations answer when nothing is pending: guards, registers, sources, and the head forms built on them. -/

namespace Sys2Proof.Machine

open Sys2Proof.Safety

/-! ## Guards and interlocks -/

theorem State.touchG_quiet {s : State} (h : Quiet s) (r : GReg) : s.touchG r = .ok () := by
  simp [State.touchG, Machine.ready, bit, h.1, h.2.1]

theorem State.touchP_quiet {s : State} (h : Quiet s) (p : PReg) : s.touchP p = .ok () := by
  simp [State.touchP, Machine.ready, bit, h.1]

theorem State.touchGuard_quiet {s : State} (h : Quiet s) (q : Guard) : s.touchGuard q = .ok () := by
  cases q
  · rfl
  · exact s.touchP_quiet h _

theorem State.touchRun_quiet {s : State} (h : Quiet s) (r n : Nat) : s.touchRun r n = .ok () := by
  induction n generalizing r with
  | zero => rfl
  | succ n ih =>
    simp only [State.touchRun, s.touchG_quiet h]
    exact ih _

theorem State.touchMem_quiet {s : State} (h : Quiet s) (m : MemOpd) : s.touchMem m = .ok () := by
  simp only [State.touchMem, s.touchG_quiet h]
  cases m.d <;> rfl

/-- A head whose guard's test holds acts. -/
theorem State.guarded_on {s : State} (h : Quiet s) {q : Guard} (g : s.guardOn q = true) (act : Try State) : s.guarded q act = act := by
  simp only [State.guarded, s.touchGuard_quiet h, g]
  rfl

/-- A head whose guard's test fails goes on (R66). -/
theorem State.guarded_off {s : State} (h : Quiet s) {q : Guard} (g : s.guardOn q = false) (act : Try State) :
    s.guarded q act = .ok s.advance := by
  simp only [State.guarded, s.touchGuard_quiet h, g]
  rfl

/-- No fence holds a head of a task without fences (R231). -/
theorem State.fencedBy_quiet {s : State} (h : Quiet s) (n : Nat) : s.fencedBy n = .ok () := by simp [State.fencedBy, h.2.2.1]

/-- Nothing holds an access of a task without fences whose VX heads have nothing to consume (R231, R234). -/
theorem State.fenced_quiet {s : State} (h : Quiet s) (n : Nat) : s.fenced n = .ok () := by
  simp only [State.fenced, h.2.2.2]
  exact s.fencedBy_quiet h n

/-! ## Sources -/

theorem State.srcOk_able {s : State} (h : Quiet s) {b : Src} (a : able s b) : s.srcOk b = .ok () := by
  cases b with
  | g r => exact s.touchG_quiet h r
  | c x k =>
    obtain ⟨v, kd, ch, -⟩ := a
    have e : s.handleOk x = true := by simp [State.handleOk, bit, v, kd, ch]
    simp [State.srcOk, e]

theorem State.srcFilled_able {s : State} (h : Quiet s) {b : Src} (a : able s b) : s.srcFilled b = .ok () := by
  cases b with
  | g r => rfl
  | c x k =>
    simp only [State.srcFilled, s.fenced_quiet h, Machine.ready, a.2.2.2.1, Machine.must, a.2.2.2.2]
    rfl

theorem State.read1_able {s : State} (h : Quiet s) {b : Src} (a : able s b) : s.read1 b = .ok (s.take b) := by
  simp only [State.read1, s.srcOk_able h a, s.srcFilled_able h a]
  rfl

theorem State.read2_able {s : State} (h : Quiet s) {b c : Src} (a : able s b) (a' : able s c) : s.read2 b c = .ok (reads s b (.src c)) := by
  simp only [State.read2, s.srcOk_able h a, s.srcFilled_able h a, s.srcOk_able h a', s.srcFilled_able h a']
  rfl

theorem State.readOpd_able {s : State} (h : Quiet s) {b : Src} {c : Opd} (a : able s b) (a' : ableOpd s c) : s.readOpd b c = .ok (reads s b c) := by
  cases c with
  | src c => exact s.read2_able h a a'
  | imm v =>
    simp only [State.readOpd, s.read1_able h a]
    rfl

theorem State.readAlone_able {s : State} (h : Quiet s) {c : Opd} (a : ableOpd s c) : s.readAlone c = .ok (readsOne s c) := by
  cases c with
  | src c => exact s.read1_able h a
  | imm v => rfl

theorem State.regImm_quiet {s : State} (h : Quiet s) (r : RegImm) : s.regImm r = .ok (match r with | .reg x => s.g x | .imm v => v) := by
  cases r with
  | reg x => simp only [State.regImm, s.touchG_quiet h]; rfl
  | imm v => rfl

/-! ## Head forms -/

theorem State.alu_on {s : State} (h : Quiet s) {q : Guard} (g : s.guardOn q = true) (a : GReg) {b : Src} {c : Opd} (x : able s b) (y : ableOpd s c)
    (f : Word → Word → Word) :
    s.alu q a b c f = .next (((reads s b c).2.2.setG a (f (reads s b c).1 (reads s b c).2.1)).advance) := by
  simp only [State.alu, s.guarded_on h g, s.touchG_quiet h, s.readOpd_able h x y]
  rfl

theorem State.alu1_on {s : State} (h : Quiet s) {q : Guard} (g : s.guardOn q = true) (a : GReg) {b : Src} (x : able s b) (f : Word → Word) :
    s.alu1 q a b f = .next (((s.take b).2.setG a (f (s.take b).1)).advance) := by
  simp only [State.alu1, s.guarded_on h g, s.touchG_quiet h, s.read1_able h x]
  rfl

theorem State.compare_on {s : State} (h : Quiet s) (o : CmpOp) (g : s.guardOn o.q = true) (x : able s o.b) (y : ableOpd s o.c) (cc : Cc) :
    s.compare o cc = .next (((reads s o.b o.c).2.2.setP o.p
      (predWord (ccHolds cc (cmpVals o.t (reads s o.b o.c).1 (reads s o.b o.c).2.1)))).advance) := by
  simp only [State.compare, s.guarded_on h g, s.touchP_quiet h, s.readOpd_able h x y]
  rfl

/-- Every head answers a next state: its effect, or what its trap does. -/
theorem finish_next (s : State) (r : Try State) : ∃ t, finish s r = .next t := by
  cases r with
  | ok t => exact ⟨t, rfl⟩
  | error t => exact ⟨trapState s t, rfl⟩

/-! ## Going on -/

/-- A head that goes on, in a task that is no follower, changes the PC, the line, the event counters and the hold of its core. -/
theorem State.advanceAs_alone {s : State} (h : s.myEnt.g = false) (code : Nat) :
    s.advanceAs code = s.setCore s.cur { s.me.count code with
      pc := nextPc s.me.pc ((s.me.line.map headCount).getD 0), hold := none, edge := .bound, ahead := none
      line := if pcIdx s.me.pc < (s.me.line.map headCount).getD 0 then s.me.line else none } := by
  have e : ((s.me.count code).ent s.myIdx).g = false := h
  simp only [State.advanceAs, e]
  rfl

@[simp] theorem State.advanceAs_mem (s : State) (n : Nat) : (s.advanceAs n).mem = s.mem := by unfold State.advanceAs; dsimp only; split <;> rfl
@[simp] theorem State.advanceAs_net (s : State) (n : Nat) : (s.advanceAs n).net = s.net := by unfold State.advanceAs; dsimp only; split <;> rfl
@[simp] theorem State.advanceAs_cur (s : State) (n : Nat) : (s.advanceAs n).cur = s.cur := by unfold State.advanceAs; dsimp only; split <;> rfl
@[simp] theorem State.advance_mem (s : State) : s.advance.mem = s.mem := s.advanceAs_mem 2
@[simp] theorem State.advance_net (s : State) : s.advance.net = s.net := s.advanceAs_net 2
@[simp] theorem State.advance_cur (s : State) : s.advance.cur = s.cur := s.advanceAs_cur 2

/-- Going on changes the cores and nothing else. -/
theorem State.advanceAs_eq (s : State) (n : Nat) : s.advanceAs n = { s with cores := (s.advanceAs n).cores } := by
  unfold State.advanceAs; dsimp only; split <;> rfl

theorem State.advanceAs_core_ne (s : State) (n : Nat) {c : CoreId} (h : c ≠ s.cur) : (s.advanceAs n).core c = s.core c := by
  unfold State.advanceAs; dsimp only; split <;> exact s.setCore_core_ne _ h

end Sys2Proof.Machine
end

