-- ==== Sys2Proof/Laws/Frames.lean ====
section
/-! SUPPORT. What the ways of going on change: the PC, the line, the hold and the event counters of one core, and a written register's bytes. -/

namespace Sys2Proof.Machine

open Sys2Proof.Safety

theorem outside_eq_of {s t : State} (h : t = { s with mem := t.mem, cores := t.cores }) : outside t = outside s := by rw [h]; rfl

theorem State.advanceAs_frame {s : State} (g : s.myEnt.g = false) (n : Nat) : changedOnly nowhere s (s.advanceAs n) := by
  refine ⟨?_, fun c h => s.advanceAs_core_ne n h, ?_, fun a _ => by rw [s.advanceAs_mem]⟩
  · rw [s.advanceAs_alone g]; rfl
  · rw [s.advanceAs_alone g, State.setCore_core_self]; rfl

theorem State.advance_frame {s : State} (g : s.myEnt.g = false) : changedOnly nowhere s s.advance := s.advanceAs_frame g 2

theorem State.jump_frame (s : State) (va : VA) (x : Option Line) : changedOnly nowhere s (s.jump va x) := by
  refine ⟨rfl, fun c h => s.setCore_core_ne _ h, ?_, fun a _ => rfl⟩
  rw [State.jump, State.setCore_core_self]
  split <;> rfl

/-- A register image word written before the head goes on. -/
theorem changedOnly_write_advance {u t : State} (A : Nat → Prop) (w : t = { u with mem := t.mem }) (m : ∀ a, ¬A a → Mem.read t.mem a = Mem.read u.mem a)
    (g : u.myEnt.g = false) : changedOnly A u t.advance := by
  have c : t.cores = u.cores := by rw [w]
  have cu : t.cur = u.cur := by rw [w]
  have co : ∀ d, t.core d = u.core d := fun d => by simp only [State.core, c]
  have ge : t.myEnt.g = false := by simpa only [State.myEnt, State.myIdx, State.me, co, cu] using g
  obtain ⟨h1, h2, h3, h4⟩ := t.advance_frame ge
  refine ⟨h1.trans ?_, fun d hd => (h2 d (by rw [cu]; exact hd)).trans (co d), ?_, fun a ha => (h4 a id).trans (m a ha)⟩
  · rw [w]; rfl
  · rw [← cu, h3, co]

theorem State.setG_outside (s : State) (r : GReg) (w : Word) (a : Nat) (h : ¬(r ≠ 0 ∧ imageWord s r.toNat a)) :
    Mem.read (s.setG r w).mem a = Mem.read s.mem a := by
  unfold State.setG State.setGAt
  split
  · rfl
  · rename_i r0
    have : ¬imageWord s r.toNat a := fun x => h ⟨r0, x⟩
    simp only [imageWord, not_and, not_lt] at this
    exact Mem.read_writeN_outside _ _ _ (by by_cases l : wsAddr s.cur s.me.blk (8 * r.toNat) ≤ a; exact .inr (this l); omega)

theorem State.setG_advance_frame {s : State} (g : s.myEnt.g = false) (r : GReg) (w : Word) :
    changedOnly (fun a => r ≠ 0 ∧ imageWord s r.toNat a) s (s.setG r w).advance :=
  changedOnly_write_advance _ (s.setG_eq r w) (fun a h => s.setG_outside r w a h) g

theorem State.setP_eq (s : State) (p : PReg) (w : Word) : s.setP p w = { s with mem := (s.setP p w).mem } := rfl

theorem State.setP_outside (s : State) (p : PReg) (w : Word) (a : Nat) (h : ¬imageWord s (32 + p.toNat) a) :
    Mem.read (s.setP p w).mem a = Mem.read s.mem a := by
  simp only [imageWord, not_and, not_lt] at h
  have e : 256 + 8 * p.toNat = 8 * (32 + p.toNat) := by omega
  simp only [State.setP, State.setPAt, State.setWs, State.wr64, e]
  exact Mem.read_writeN_outside _ _ _ (by by_cases l : wsAddr s.cur s.me.blk (8 * (32 + p.toNat)) ≤ a; exact .inr (h l); omega)

theorem State.setP_advance_frame {s : State} (g : s.myEnt.g = false) (p : PReg) (w : Word) :
    changedOnly (imageWord s (32 + p.toNat)) s (s.setP p w).advance :=
  changedOnly_write_advance _ (s.setP_eq p w) (fun a h => s.setP_outside p w a h) g

end Sys2Proof.Machine
end

