-- ==== Sys2Proof/Tests/Slice0.lean ====
section
/-! SUPPORT. Tests: ill-formed terms that the checks of WellFormed refuse, words of the spec's encodings and what they decode to, values that the spec
prints, and, for each statement that has hypotheses, a small state that meets them. -/

namespace Sys2Proof.Tests

set_option Elab.async false

open Sys2Proof.Machine Sys2Proof.Safety

/-! ## A small machine -/

/-- A partition 0 of slice 0 and core 0 alone. -/
def slice0 : Slice := { Slice.reset with pdesc := [0x8000000000000000, 1, 0, 0, 0, 0, 0, 0, 0, 0, 0, 0] }

/-- A line of three heads. -/
def threeHeads : Line := lineOf [0x1800]

/-- A task in entry 0 of core 0, its workspace in blocks 0 and 1, at the first head of a line. -/
def entry0 : Entry := { Entry.reset with v := true, nblk := 2, fvec := 0x2002 }

def core0 : Core := { Core.reset with run := some 0, pc := 0x1002, line := some threeHeads, ents := [(0, entry0)] }

/-- Core 0 runs the task. -/
def s0 : State := { State.reset with cores := [(0, core0)], slices := [(0, slice0)], keys := [(0, ⟨1, 0, 0, .xts, 0, false⟩)] }

/-- The event in hand. -/
def onEv (s : State) (e : Event) : State := { s with ev := some e }

/-- Core 0 changed. -/
def on0 (f : Core → Core) : State := s0.modCore 0 f

/-- Entry 0 of core 0 changed. -/
def onEnt (f : Entry → Entry) : State := s0.modEnt 0 0 f

/-- The head holds its task. -/
def held (n : Nat) (ws : List Word) (b : Option RepBody) : State := on0 fun k => { k with hold := some ⟨n, ws, b⟩ }

/-- The task is in the given lock of privilege: TSTAT.priv set. -/
def privileged : State := s0.setWsW offTstat 0x8000000000000000

/-- Who asks. -/
def who0 : Who := ⟨0, 0, 0, 0, 0, 0⟩

def okay {α : Type} (x : Try α) : Bool := match x with | .ok _ => true | .error _ => false

theorem exists_of_okay {α : Type} {x : Try α} (h : okay x = true) : ∃ t, x = .ok t := by
  cases x with
  | ok t => exact ⟨t, rfl⟩
  | error _ => cases h

def goes (x : Result) : Bool := match x with | .next _ => true | _ => false

theorem exists_of_goes {x : Result} (h : goes x = true) : ∃ t, x = .next t := by
  cases x with
  | next t => exact ⟨t, rfl⟩
  | fault _ => cases h
  | refused _ => cases h

/-- A packet of core 1 to core 0 with some payload. -/
def packet0 (ws : List Word) : Packet := ⟨0, 0, false, 1, 0, false, 0, false, 0, 3, ws⟩

/-- A fetch finds its line in a read-only cache whose checks agree. -/
theorem fetch_hit {s : State} {va : VA} {e : AtcEntry} (ht : s.translate va.toNat rExec (vaWord va) 1 = .ok e) (hh : s.me.hold = none)
    (hf : (s.me.ro.find? fun x => x.ln == atcPa e va.toNat / 64).isSome = true) (hc : ∀ x ∈ s.me.ro, x.chk = lineCheck x.data ∧ x.poi = 0) :
    ∃ x, s.fetch va = .ok x := by
  obtain ⟨l, hl⟩ := Option.isSome_iff_exists.mp hf
  have h := hc l (List.mem_of_find?_eq_some hl)
  unfold State.fetch
  rw [ht]
  simp only [hh, Core.roFind, hl, Option.map, RoLine.checked, if_pos h.1, if_pos h.2]
  exact ⟨_, rfl⟩

def gives {α : Type} [DecidableEq α] (x : Try α) (a : α) : Bool := match x with | .ok y => decide (y = a) | .error _ => false

theorem ok_of_gives {α : Type} [DecidableEq α] {x : Try α} {a : α} (h : gives x a = true) : x = .ok a := by
  cases x with
  | ok y => exact congrArg _ (of_decide_eq_true h)
  | error _ => cases h


/-! ## Ill-formed terms -/

/-- Suffixes: each list of WellFormed refuses a suffix outside it (R71, R255, R281 to R283, R330, R347). -/
theorem test_ill_formed_suffix :
    ((Instr.add ⟨.always, .nosfx, 1, .g 2, .src (.g 3)⟩).wf || (Instr.mulh ⟨.always, .i32, 1, .g 2, .src (.g 3)⟩).wf
      || (Instr.abs ⟨.always, .z8, 1, .g 2⟩).wf || (Instr.clz ⟨.always, .i64, 1, .g 2⟩).wf || (Instr.cvt ⟨.always, .t8, 1, .g 2, .f32⟩).wf
      || (Instr.cvt ⟨.always, .f32, 1, .g 2, .nosfx⟩).wf || (Instr.ld ⟨.always, .t4, 1, ⟨2, .idx 0⟩⟩).wf
      || (Instr.atomAdd ⟨.always, .f32, 1, 2, .g 3, 0⟩).wf || (Instr.bredAdd ⟨.always, .z32, 1, ⟨2, .idx 0⟩⟩).wf
      || (Instr.vadd ⟨.always, .i64, 1, .v 2, .src (.v 3)⟩).wf || (Instr.vmin ⟨.always, .t8, 1, .v 2, .src (.v 3)⟩).wf
      || (Instr.vfma ⟨.always, .i32, 1, .v 2, .src (.v 3), 4⟩).wf || (Instr.vcmpEq ⟨.always, .z64, 1, .v 2, .src (.v 3)⟩).wf
      || (Instr.vperm ⟨.always, .z8, 1, .v 2, .v 3, none⟩).wf || (Instr.vredAdd ⟨.always, .i64, 1, 2⟩).wf
      || (Instr.mxst ⟨.always, .i64, 0, 2, 3, none⟩).wf) = false := by decide +kernel

/-- Wait counts of 0, and counts in a layout I head (R65, R84, R91). -/
theorem test_ill_formed_wait_count :
    ((Instr.add ⟨.always, .i64, 1, .c 2 0, .src (.g 3)⟩).wf || (Instr.add ⟨.always, .i64, 1, .c 2 3, .imm 1⟩).wf
      || (Instr.vadd ⟨.always, .f32, 1, .c 2 0, .src (.v 3)⟩).wf || (Instr.vadd ⟨.always, .f32, 1, .v 2, .src (.c 3 0)⟩).wf
      || (Instr.cancelJob ⟨1, .c 2 2⟩).wf || (Instr.gform (.c 0 2)).wf || (Instr.tbld false 2 (.c 1 3)).wf) = false := by decide +kernel

/-- Immediates outside their fields (R84, R243, R250, R251, R259, R283, R303, R307, R317). -/
theorem test_ill_formed_immediate :
    ((Instr.add ⟨.always, .i64, 1, .g 2, .imm 0x0000800000000000⟩).wf || (Instr.add ⟨.always, .f32, 1, .g 2, .imm 1⟩).wf
      || (Instr.cmpEq ⟨.always, .f32, 1, .g 2, .imm 1⟩).wf || (Instr.shl ⟨.always, 1, .g 2, .imm 64⟩).wf
      || (Instr.fshl ⟨.always, 1, .g 2, .g 3, .imm 64⟩).wf || (Instr.ptag ⟨.always, 1, .g 2, .imm 256⟩).wf
      || (Instr.pget ⟨.always, 1, .g 2, .imm 8⟩).wf || (Instr.pdiff ⟨.always, 1, .g 2, .imm 1⟩).wf
      || (Instr.bupdSet ⟨.always, .i32, 1, 2, .imm 0x10000⟩).wf || (Instr.cmask ⟨.always, .imm 8⟩).wf
      || (Instr.setprio ⟨.always, .imm 8⟩).wf || (Instr.decr ⟨.always, 1, .imm 0x100000000⟩).wf
      || (Instr.trap ⟨.always, .imm 0x100000000⟩).wf || (Instr.spqry ⟨.always, 1, 2, .imm 2⟩).wf) = false := by decide +kernel

/-- Registers and counts outside the limits of the entries (R262, R269, R281 to R287, R295, R300 to R302, R316, R336, R352, R358 to R361, R366, R371). -/
theorem test_ill_formed_operand :
    ((Instr.ball 1 0 4).wf || (Instr.bany 1 65 4).wf || (Instr.bredAdd ⟨.always, .i32, 1, ⟨0, .idx 0⟩⟩).wf
      || (Instr.atomAdd ⟨.always, .i32, 1, 2, .g 3, 4⟩).wf || (Instr.atomCas ⟨.always, .i32, 1, 0, .g 3, 4⟩).wf
      || (Instr.bupdAdd ⟨.always, .i32, 1, 0, .reg 1⟩).wf || (Instr.discard ⟨.always, 1, ⟨0, .idx 0⟩⟩).wf || (Instr.barinit ⟨.always, 0, 1, 2⟩).wf
      || (Instr.bar 0).wf || (Instr.barQ 0).wf || (Instr.serviceCoreFence 6 ⟨1, 1⟩).wf || (Instr.cadv ⟨.always, 0, 0⟩).wf
      || (Instr.cwait ⟨.always, 0, 257⟩).wf || (Instr.csend ⟨.always, 1, 5, 9⟩).wf || (Instr.csend ⟨.always, 1, 15, 2⟩).wf
      || (Instr.spawn ⟨1, 0⟩).wf || (Instr.launch ⟨1, 0⟩).wf || (Instr.tbld false 0 (.g 1)).wf || (Instr.scrub ⟨1, 0⟩).wf) = false := by decide +kernel

theorem test_ill_formed_operand_2 :
    ((Instr.crd ⟨.always, 1, 15⟩).wf || (Instr.cwr ⟨.always, 1, 64⟩).wf || (Instr.cwr ⟨.always, 0, 1⟩).wf
      || (Instr.vsel ⟨.always, 1, .v 2, .bc 3, 4, 0⟩).wf || (Instr.vand ⟨.always, 1, .v 2, .src (.v 3), 4, 0⟩).wf
      || (Instr.vcvt ⟨.always, .i32, 1, .v 2, .i8, 4⟩).wf || (Instr.enc ⟨.always, .t8, 1, .v 2, .i32, false, 0⟩).wf
      || (Instr.dec ⟨.always, .t8, 1, .v 2, .f32, false, 4⟩).wf || (Instr.vbcast ⟨.always, .f32, 1, .lane 2 16⟩).wf
      || (Instr.mxmul ⟨.always, 0, 0, 1, 2⟩).wf || (Instr.mxst ⟨.on 1 false, .f32, 0, 2, 3, none⟩).wf || (Instr.mxsplitLeave ⟨1, 0⟩).wf
      || (Instr.mxrem ⟨0, 1⟩).wf || (Instr.mxrem ⟨15, 1⟩).wf || (Instr.rstat ⟨27, 0⟩).wf || (Instr.rstatE ⟨31, 0, 1, 2⟩).wf
      || (Instr.gmu ⟨12, 1⟩).wf || (Instr.gsub ⟨12, 1⟩).wf || (Instr.cxq ⟨.always, 1, 0⟩).wf || (Instr.cxqNb ⟨.always, 1, 13⟩).wf) = false := by
  decide +kernel

/-- Messages: a packet of no words or of nine, a request across a line (R23, R25). -/
theorem test_ill_formed_message :
    ((Event.chanPacketReceive (packet0 [])).wf || (Event.gaussPartReceive (packet0 (List.replicate 9 0))).wf
      || (Event.bankRequest ⟨who0, .load, 60, 8, 0, 0, 0, 0, false, 0, 0, none, .step, none, 0⟩).wf) = false := by decide +kernel

/-! ## Words of the spec -/

/-- A tail from its half-words, lowest first (R74). -/
def tl (hs : List Nat) : Nat := hs.foldr (fun h t => h + t * 2 ^ 16) 0

def readsAs (hw : Nat) (hs : List Nat) (i : Instr) : Bool :=
  match decodeHead hw (tl hs) with
  | .ok j => decide (j = i) && decide (encode i = some (hw, tl hs))
  | .error _ => false

/-- The N forms of R88: 0x2400 + A x 16 + B is MOV (R257). -/
theorem test_decode_no_tail :
    (readsAs 0x2435 [] (.mov 3 5) && readsAs 0x4000 [] .ret && readsAs 0x4019 [] (.jr 9) && readsAs 0x7060 [] (.drainst 6)
      && readsAs 0x8000 [] .endTask && readsAs 0x8010 [] .yield && readsAs 0x8020 [] .sleep && readsAs 0xEC00 [] .nop
      && readsAs 0xEC10 [] .bkpt) = true := by decide +kernel

/-- R92. -/
theorem test_decode_line :
    (readsAs 0x4E00 [0x2021, 0x0004] (.bcf 0 1 33) && readsAs 0x4200 [0x0000, 0xFFFC] (.br (.ofInt 19 (-32)))
      && readsAs 0x4200 [0xC000, 0xFFFB] (.br (.ofInt 19 (-34)))
      && readsAs 0x0155 [0x0380] (.add ⟨.always, .i64, 5, .g 5, .src (.c 0 1)⟩)) = true := by decide +kernel

/-- The table after R267. -/
theorem test_decode_scalar :
    (readsAs 0x0F51 [0x2E00, 0x3000, 0x0096, 0x0000] (.log3 ⟨.always, 5, .g 1, .g 2, 3, 0x96⟩)
      && readsAs 0x3222 [0x0E10, 0x0020] (.pstep ⟨.always, 2, .g 2, .imm 32⟩) && readsAs 0x4E11 [0xC100, 0x0000] (.bby 17 8 6)
      && readsAs 0x1516 [0x7B02] (.cmpLt ⟨.always, .f32, 1, .g 6, .src (.g 7)⟩)
      && readsAs 0x1144 [0x1E10] (.shl ⟨.always, 4, .g 4, .imm 1⟩)) = true := by decide +kernel

/-- Heads of the program chapters: a funnel shift, truth tables, branches and LDI (R83, R85, R87, R252). -/
theorem test_decode_programs :
    (readsAs 0x1363 [0x3E03, 0, 1, 0] (.fshl ⟨.always, 6, .g 3, .g 3, .imm 1⟩)
      && readsAs 0x0F11 [0x8E00, 0x9000, 0x0014, 0] (.log3 ⟨.always, 1, .g 1, .g 8, 9, 0x14⟩)
      && readsAs 0x46C0 [0x4005, 0xFFF1] (.bnz 12 (.ofInt 19 (-118))) && readsAs 0x46F0 [0xE005, 0xFFEF] (.bnz 15 (.ofInt 19 (-129)))
      && readsAs 0x2180 [0x3000] (.ldi 8 0x3000)) = true := by decide +kernel

/-- The table of the memory chapter. -/
theorem test_decode_memory :
    (readsAs 0x5210 [0x0B10, 0x0980] (.ld ⟨.always, .f32, 1, ⟨0, .imm 2432⟩⟩)
      && readsAs 0x5682 [0xCB10, 0x0030] (.st ⟨.always, .f32, 8, ⟨2, .imm 60⟩⟩)
      && readsAs 0x6552 [0x0B00] (.bredAdd ⟨.always, .f32, 5, ⟨2, .idx 0⟩⟩)
      && readsAs 0x6162 [0x5300] (.atomAdd ⟨.always, .i64, 6, 2, .g 5, 0⟩) && readsAs 0x7507 [0x0E00] (.bar 7)
      && readsAs 0x7507 [0x0E01] (.barQ 7) && readsAs 0x7500 [0x0E02] .qclose && readsAs 0x5900 [0x0E02] .roInv
      && readsAs 0x6DEB [0xFE00] (.barinit ⟨.always, 11, 14, 15⟩) && readsAs 0x7144 [0x0E00] (.fenceTask ⟨4, 4⟩)
      && readsAs 0x7141 [0x0E00] (.fenceTask ⟨4, 1⟩) && readsAs 0x5230 [0x4610, 0x0EC0] (.ld ⟨.always, .z32, 3, ⟨0, .imm 3780⟩⟩)) = true := by
  decide +kernel

/-- The table of the channel and task chapter. -/
theorem test_decode_channels_and_tasks :
    (readsAs 0x7926 [0x0E00] (.cbind 2 6) && readsAs 0x7920 [0x0E01] (.cunbind 2) && readsAs 0x7945 [0x2E12] (.csend ⟨.always, 4, 5, 2⟩)
      && readsAs 0x7945 [0x2E13] (.csendEos ⟨.always, 4, 5, 2⟩) && readsAs 0x7900 [0x1E14] (.cadv ⟨.always, 0, 1⟩)
      && readsAs 0x7D31 [0x0E00] (.cfill 3 1) && readsAs 0x7D10 [0x4E13] (.cwait ⟨.always, 1, 4⟩)
      && readsAs 0x8100 [0x5E13] (.setprio ⟨.always, .imm 5⟩) && readsAs 0x8100 [0x6E03] (.setprio ⟨.always, .src (.g 6)⟩)
      && readsAs 0x8590 [0x1E11] (.decr ⟨.always, 9, .imm 1⟩) && readsAs 0x8512 [0x0E00] (.spawn ⟨1, 2⟩)
      && readsAs 0x8912 [0x0E00] (.launch ⟨1, 2⟩) && readsAs 0x8D03 [0x0E00] (.gform (.g 3))) = true := by decide +kernel

/-- The same table: control registers, tables and traps; and FENCE.DEVICE w, w of the service core (R233). -/
theorem test_decode_control :
    (readsAs 0x2930 [0x2E10] (.crd ⟨.always, 3, 2⟩) && readsAs 0x2A30 [0x1E10, 0x0050] (.crd ⟨.always, 3, 81⟩)
      && readsAs 0xE502 [0x3E00] (.tbld false 2 (.g 3)) && readsAs 0xE100 [0x5E10] (.trap ⟨.always, .imm 5⟩)
      && readsAs 0xE100 [0x0E01] .rft && decide (decodeService 0x0220400B = some (.serviceCoreFence 4 ⟨2, 2⟩))) = true := by decide +kernel

/-- The table of the vector chapter. -/
theorem test_decode_vector :
    (readsAs 0x9200 [0x0B00, 0x1046] (.vadd ⟨.always, .f32, 3, .v 1, .src (.v 2)⟩)
      && readsAs 0x9201 [0x0B80, 0x1046] (.vadd ⟨.always, .f32, 3, .v 1, .src (.c 2 1)⟩)
      && readsAs 0x9A00 [0x6B11, 0x2A10] (.vmax ⟨.on 1 false, .f32, 8, .v 8, .bc 5⟩)
      && readsAs 0x9700 [0x0B00, 0x3148, 0, 0x3800] (.vfma ⟨.always, .f32, 4, .v 5, .src (.v 6), 7⟩)
      && readsAs 0xA200 [0x0B02, 0x1044] (.vcmpLt ⟨.always, .f32, 2, .v 1, .src (.v 2)⟩)
      && readsAs 0x9F00 [0x0C02, 0x5852, 2, 0] (.enc ⟨.always, .t8, 9, .v 1, .f32, false, 2⟩)
      && readsAs 0xA600 [0x0B02, 0x00CC] (.vredAdd ⟨.always, .f32, 6, 3⟩)) = true := by decide +kernel

theorem test_decode_vector_memory_and_lanes :
    (readsAs 0xAA30 [0x0B00, 0x0004] (.vld ⟨.always, .f32, 2, 3, 0, 0⟩)
      && readsAs 0xAB30 [0x0B01, 0x0004, 0x0040, 0] (.vst ⟨.always, .f32, 2, 3, 0, 64⟩)
      && readsAs 0xAF00 [0x0E04, 0x1882, 0x0096, 0x2000] (.vlog3 ⟨.always, 1, .v 2, .src (.v 3), 4, 0x96⟩)
      && readsAs 0xB600 [0x0B00, 0x018A] (.vexp2 ⟨.always, 5, .v 6⟩)
      && readsAs 0xA600 [0x0210, 0x4028] (.vbcast ⟨.always, .i32, 20, .g 8⟩)
      && readsAs 0xA700 [0x0B01, 0xA22A, 0, 0x4800] (.vperm ⟨.always, .f32, 21, .v 8, .v 20, some 9⟩)
      && readsAs 0xAB00 [0x0301, 0x0008, 0x0EC0, 0] (.vst ⟨.always, .i64, 4, 0, 0, 3776⟩)) = true := by decide +kernel

/-- The table of the matrix and Gaussian chapter. -/
theorem test_decode_matrix :
    (readsAs 0xB900 [0x0E00] (.mxclr 0) && readsAs 0xBA02 [0x3E01, 0xE000] (.mxmul ⟨.always, 0, 2, 3, 14⟩)
      && readsAs 0xBA12 [0x3E02, 0xE000] (.mxs3 ⟨.always, 1, 2, 3, 14⟩) && readsAs 0xBD07 [0x4900] (.mxst ⟨.always, .bf16, 0, 7, 4, none⟩)
      && readsAs 0xC140 [0x0E00] (.mxedge ⟨4, 0⟩) && readsAs 0xC140 [0x5E01] (.mxsplitEnter ⟨4, 5⟩)
      && readsAs 0xC149 [0x0E02] (.mxrem ⟨4, 9⟩) && readsAs 0xC100 [0x0E03] (.mxrsm 0)
      && readsAs 0xC600 [0x0E00, 0x0010] (.rstat ⟨8, 0⟩) && readsAs 0xC700 [0x0E01, 0x4014, 6, 0] (.rstatE ⟨10, 0, 8, 6⟩)
      && readsAs 0xC925 [0x0E00] (.gmu ⟨2, 5⟩) && readsAs 0xCD15 [0x0E01] (.gsub ⟨1, 5⟩) && readsAs 0xCD65 [0x0E02] (.gres ⟨6, 5⟩)) = true := by
  decide +kernel

/-- R390, and CXQ and CXWAIT of the copy program. -/
theorem test_decode_spaces_and_copies :
    (readsAs 0xDA62 [0x3E00, 0x4000] (.map ⟨.always, 6, 2, 3, 4⟩) && readsAs 0xDA62 [0x3E01, 0x4000] (.grant ⟨.always, 6, 2, 3, 4⟩)
      && readsAs 0xDA62 [0x3E02, 0x4000] (.unmap ⟨.always, 6, 2, 3, 4⟩) && readsAs 0xDD62 [0x0E10] (.spqry ⟨.always, 6, 2, .imm 0⟩)
      && readsAs 0xD1C8 [0x0E00] (.cxq ⟨.always, 12, 8⟩) && readsAs 0xD50C [0x0E00] (.cxwait ⟨.always, 0, 12⟩)) = true := by decide +kernel

def refuses (hw : Nat) (hs : List Nat) : Bool :=
  match decodeHead hw (tl hs) with
  | .ok _ => false
  | .error _ => true

/-- Rows of R91 that give ILLEGAL_OP: no N form, a reserved major, an unassigned minor, type 15, an unlisted type, F and sC both 1, pinv without
pen, an unused field, wait count 0, a wait count without a channel, BBY's A and lvl, a broadcast of register 16, a far displacement. -/
theorem test_decode_refuses :
    (refuses 0x0000 [] && refuses 0xF000 [] && refuses 0x0155 [0x0382] && refuses 0x0155 [0x0F00] && refuses 0x0511 [0x0B01]
      && refuses 0x0155 [0x0390] && refuses 0x0155 [0x0320] && refuses 0x0255 [0x0300, 0x1000] && refuses 0x0255 [0x0340, 0x0000]
      && refuses 0x0255 [0x0300, 0x0010] && refuses 0x4E81 [0xC100, 0] && refuses 0x4E11 [0xC800, 0]
      && refuses 0x9A00 [0x6B11, 0xAA10] && refuses 0x5310 [0x0B10, 0, 0, 0x0800]) = true := by decide +kernel

/-! ## Results that the spec prints -/

/-- The registers of a state with the given values, after one head. -/
def afterG (i : Instr) (s : State) (r : GReg) : Option Word :=
  match exec i s with
  | .next t => some (t.g r)
  | _ => none

def afterP (i : Instr) (s : State) (p : PReg) : Option Word :=
  match exec i s with
  | .next t => some (t.p p)
  | _ => none

/-- g2 and g3 at the given values. -/
def withG (x y : Word) : State := (s0.setG 2 x).setG 3 y

/-- The worked results after R257. -/
theorem test_add : afterG (.add ⟨.always, .i8, 1, .g 2, .imm 1⟩) (withG 0x7F 0) 1 = some 0xFFFFFFFFFFFFFF80
    ∧ afterG (.add ⟨.always, .z8, 1, .g 2, .imm 1⟩) (withG 0x7F 0) 1 = some 0x80 := by decide +kernel

theorem test_div : afterG (.div ⟨.always, .i64, 1, .g 2, .imm 2⟩) (withG (-7) 0) 1 = some (-3)
    ∧ afterG (.div ⟨.always, .z64, 1, .g 2, .src (.g 0)⟩) (withG 5 0) 1 = some 0xFFFFFFFFFFFFFFFF
    ∧ afterG (.div ⟨.always, .i64, 1, .g 2, .imm (-1)⟩) (withG 0x8000000000000000 0) 1 = some 0x8000000000000000 := by decide +kernel

theorem test_mod : afterG (.mod ⟨.always, .i64, 1, .g 2, .imm 2⟩) (withG (-7) 0) 1 = some (-1) := by decide +kernel

theorem test_mulh : afterG (.mulh ⟨.always, .z64, 1, .g 2, .src (.g 2)⟩) (withG 0xFFFFFFFFFFFFFFFF 0) 1 = some 0xFFFFFFFFFFFFFFFE := by
  decide +kernel

theorem test_shl : afterG (.shl ⟨.always, 1, .g 2, .src (.g 3)⟩) (withG 1 65) 1 = some 2 := by decide +kernel

theorem test_fshl_fshr : afterG (.fshl ⟨.always, 1, .g 2, .g 3, .imm 1⟩) (withG 0x8000000000000001 0xC000000000000000) 1 = some 3
    ∧ afterG (.fshr ⟨.always, 1, .g 2, .g 3, .imm 1⟩) (withG 0x8000000000000001 0xC000000000000000) 1 = some 0xE000000000000000 := by
  decide +kernel

theorem test_cvt : afterG (.cvt ⟨.always, .i32, 1, .g 2, .f32⟩) (withG 0xC0200000 0) 1 = some 0xFFFFFFFFFFFFFFFE
    ∧ afterG (.cvt ⟨.always, .i8, 1, .g 2, .f32⟩) (withG 0x43960000 0) 1 = some 0x2C := by decide +kernel

theorem test_cvt_sat : afterG (.cvtSat ⟨.always, .i8, 1, .g 2, .f32⟩) (withG 0x43960000 0) 1 = some 0x7F
    ∧ afterG (.cvtSat ⟨.always, .f19, 1, .g 2, .f32⟩) (withG 0x7F7FFFFF 0) 1 = some 0x3FBFF := by decide +kernel

theorem test_cmp : afterP (.cmpLt ⟨.always, .f32, 1, .g 2, .src (.g 3)⟩) ((withG 0x7FC00000 0).setP 1 1) 1 = some 0 := by decide +kernel

/-- The conversions to F19 of R105's table. -/
theorem test_cvt_f19 : afterG (.cvt ⟨.always, .f19, 1, .g 2, .f32⟩) (withG 0x3FC01000 0) 1 = some 0x1FE00
    ∧ afterG (.cvt ⟨.always, .f19, 1, .g 2, .f32⟩) (withG 0x3FC03000 0) 1 = some 0x1FE02
    ∧ afterG (.cvt ⟨.always, .f19, 1, .g 2, .f32⟩) (withG 0x7F7FFFFF 0) 1 = some 0x3FC00
    ∧ afterG (.cvt ⟨.always, .f19, 1, .g 2, .f16⟩) (withG 1 0) 1 = some 0x19C00
    ∧ afterG (.cvt ⟨.always, .f19, 1, .g 2, .bf16⟩) (withG 0xC0A0 0) 1 = some 0x60500 := by decide +kernel

/-- The example of R261: an I4 pointer with k = 5 stepped by 32 from code address 0. -/
theorem test_pstep : afterG (.pstep ⟨.always, 1, .g 2, .imm 32⟩) (withG 0xC500000000000000 0) 1 = some 0xC500000000000020 := by decide +kernel

theorem test_pdiff : afterG (.pdiff ⟨.always, 1, .g 2, .src (.g 3)⟩) (withG 0xC500000000000020 0xC500000000000000) 1 = some 32 := by
  decide +kernel

theorem test_pget : afterG (.pget ⟨.always, 1, .g 2, .imm 3⟩) (withG 0xC500000000000020 0) 1 = some 18
    ∧ afterG (.pget ⟨.always, 1, .g 2, .imm 4⟩) (withG 0xC500000000000020 0) 1 = some 17
    -- R100: T8A with k = 5, elements 100 and 3,980
    ∧ afterG (.pget ⟨.always, 1, .g 2, .imm 3⟩) (withG 0x8500000000000064 0) 1 = some 104
    ∧ afterG (.pget ⟨.always, 1, .g 2, .imm 4⟩) (withG 0x8500000000000F8C 0) 1 = some 4092 := by decide +kernel

def f32s (xs : List Nat) : Line := ofLanes .f32 fun i => xs.getD i 0

/-- A head of VX and its registers v1, v2, v3: what it computes. -/
def computes (i : Instr) (v1 v2 v3 : Line) : Line × BitVec 64 × Word :=
  vxResult s0.me (fun r => if r = 1 then v1 else if r = 2 then v2 else if r = 3 then v3 else 0) [] (s0.vxItem i .always)

/-- The example of R333. -/
theorem test_vcvt : (let r := (computes (.vcvt ⟨.always, .bf16, 4, .v 1, .f32, 0⟩) (f32s [0x3F808000, 0x3F818000]) 0 0)
      lane .bf16 r.1 0 = 0x3F80 ∧ lane .bf16 r.1 1 = 0x3F82 ∧ r.2.1 = 0x00000000FFFFFFFF)
    ∧ (computes (.vcvt ⟨.always, .bf16, 4, .v 2, .f32, 1⟩) 0 0 0).2.1 = 0xFFFFFFFF00000000 := by decide +kernel

/-- The example of R338: 2^24, 1.0, 1.0, -2^24 and twelve zeros. -/
theorem test_vred_add : (computes (.vredAdd ⟨.always, .f32, 6, 3⟩) 0 0 (f32s [0x4B800000, 0x3F800000, 0x3F800000, 0xCB800000])).2.2 = 0x3F800000 := by
  decide +kernel

/-- R57: the same four added in core order. -/
theorem test_quantum_order : [0x4B800000, 0x3F800000, 0x3F800000, 0xCB800000].foldl f32Add 0 = 0 := by decide +kernel

/-- The table of R344. -/
theorem test_special_functions : f32Rcp 0x40400000 = 0x3EAAAAAB ∧ f32Rsq 0x40800000 = 0x3F000000 ∧ f32Log2 0x3F800000 = 0 := by decide +kernel

theorem test_exp2 : f32Exp2 0xBFC00000 = 0x3EB504F3 := by decide +kernel

theorem test_log2 : f32Log2 0x41200000 = 0x40549A78 := by decide +kernel

/-- The special cases of R344: +0, -0, the infinities, a negative number. -/
theorem test_special_cases : [0, 0x80000000, 0x7F800000, 0xFF800000].map f32Rcp = [0x7F800000, 0xFF800000, 0, 0x80000000]
    ∧ [0, 0x80000000, 0x7F800000, 0xFF800000, 0xBF800000].map f32Rsq = [0x7F800000, 0xFF800000, 0, 0x7FC00000, 0x7FC00000]
    ∧ [0, 0x80000000, 0x7F800000, 0xFF800000].map f32Exp2 = [0x3F800000, 0x3F800000, 0x7F800000, 0]
    ∧ [0, 0x80000000, 0x7F800000, 0xFF800000, 0xBF800000].map f32Log2 = [0xFF800000, 0xFF800000, 0x7F800000, 0x7FC00000, 0x7FC00000] := by
  decide +kernel

/-- The example of R343: I8 with k = 3 from code address 0. -/
theorem test_vst_scaled : ((vstBytes s0.me ⟨false, 0x13, 1, 3, 0, .f32, false⟩
    (f32s [0x3F800000, 0xBF400000, 0x3F000000, 0, 0x3E800000, 0xBFC00000, 0x3E000000, 0x40000000, 0, 0, 0, 0, 0x7FC00000])).map (·.2))
    = [0x7A, 0x20, 0xE8, 0x10, 0x00, 0x08, 0xD0, 0x04, 0x40, 0xFF, 0, 0, 0, 0, 0, 0, 0, 0] := by decide +kernel

/-- Loads of R271's table, and R100's two elements of an I4 block. -/
theorem test_load_formats : loadVal s0.me .f32 6 0 0 (fun a => if a = 0 then 0xA0 else 0xC0) = 0xC0A00000
    ∧ loadVal s0.me .nosfx 6 0 0 (fun a => if a = 0 then 0xA0 else 0xC0) = 0xC0A0
    ∧ loadVal s0.me .i32 7 0 0 (fun a => if a = 2 then 0x20 else if a = 3 then 0xC0 else 0) = 0xFFFFFFFFFFFFFFFE
    ∧ loadVal s0.me .nosfx 12 3 10 (fun a => if a = 5 then 0x7C else 0x3A) = 0xBF400000
    ∧ loadVal s0.me .nosfx 12 3 11 (fun a => if a = 5 then 0x7C else 0x3A) = 0x3EC00000 ∧ needed .nosfx 12 3 10 = [5, 7] := by decide +kernel

theorem test_store_format : storeVal s0.me .f32 5 0x47800000 = 0x7C00 := by decide +kernel

/-- The table of R103's example: -8, -5, -3, -2, -1.5, -1, -0.5, 0, 0.5, 1, 1.5, 2, 3, 5, 8 and NaN. -/
def table0 : Table := .build ([0x60800, 0x60500, 0x60200, 0x60000, 0x5FE00, 0x5FC00, 0x5F800, 0, 0x1F800, 0x1FC00, 0x1FE00, 0x20000, 0x20200,
  0x20500, 0x20800, 0x3FE00] ++ List.replicate 240 0) 0

theorem test_encode : [0x40200000, 0x40800000, 0xC0800000, 0xBE800000, 0x42C80000, 0x7F800000, 0xFF800000, 0x7FC00000].map
      (fun x => table0.enc true false (f32v x)) = [11, 12, 1, 6, 14, 15, 15, 15]
    ∧ [0x40200000, 0x7F800000, 0xFF800000, 0x7FC00000].map (fun x => table0.enc true true (f32v x)) = [11, 14, 0, 15] := by decide +kernel

/-- The example of R114, on one element: 3.0; then 2^-40 three times and 3 x 2^-40; then 1,024. -/
def tile1 : Acc := accStep ⟨[(.fin, 0)], 0x8000, true, .none⟩ [[.fin false 3 0]]
def tile2 : Acc := accStep tile1 [[.fin false 1 (-40), .fin false 1 (-40), .fin false 1 (-40), .fin false 3 (-40)]]
def tile3 : Acc := accStep tile2 [[.fin false 1 10]]

theorem test_accumulator : tile1.elems = [(.fin, 0x18000000000)] ∧ tile1.e = BitVec.ofInt 16 (-39)
    ∧ tile2.elems = [(.fin, 0x18000000002)] ∧ tile3.elems = [(.fin, 0x201800000000)] ∧ tile3.e = BitVec.ofInt 16 (-35)
    ∧ (elemVal tile3.e (tile3.elems.getD 0 (.fin, 0))).cmp (.ofInt 1027) = some .eq := by decide +kernel

/-- The example of R357: gx 3, gy 2, cx 2, cy 1, tm = tn = 1, M 50, N 70. -/
theorem test_mxedge : edgeVal 0x0030020020010101 (BitVec.ofNat 64 (50 * 2 ^ 42 + 70 * 2 ^ 21)) 0 = 0x0000003F0003FFFF
    ∧ edgeVal 0x0030020020010101 (BitVec.ofNat 64 (50 * 2 ^ 42 + 70 * 2 ^ 21)) 0x10000 = 0x0000002000000040 := by decide +kernel
/-! ## Witnesses: heads of chapter 13 -/

/-- A channel of one filled slot and a bound handle c0 to it. -/
def chan0 : State := (on0 fun k => k.setChan 0 { ChanEnt.reset with v := true, base := 0x46, sm1 := 3, fill := 1 }).setH 0 0x8000000000000000

theorem witness_arithmetic : Quiet s0 ∧ s0.guardOn .always = true ∧ able s0 (.g 1) ∧ ableOpd s0 (.imm 3) := by
  simp only [Quiet, able, ableOpd]; decide +kernel

theorem witness_arithmetic_channel : Quiet chan0 ∧ chan0.guardOn .always = true ∧ able chan0 (.c 0 1) ∧ ableOpd chan0 (.src (.g 2)) := by
  simp only [Quiet, able, ableOpd]; decide +kernel

theorem witness_mulh_div_mod : Quiet s0 ∧ s0.guardOn .always = true ∧ able s0 (.g 1) ∧ ableOpd s0 (.imm 0)
    ∧ (let r := reads s0 (.g 1) (.imm 0); ival .i64 r.2.1 = 0)
    ∧ (let r := reads (s0.setG 1 0x8000000000000000) (.g 1) (.imm 0xFFFFFFFFFFFFFFFF); ival .i64 r.1 = -2 ^ 63 ∧ ival .i64 r.2.1 = -1)
    ∧ (let r := reads s0 (.g 1) (.imm 7); ival .i64 r.2.1 ≠ 0) := by
  simp only [Quiet, able, ableOpd]; decide +kernel

theorem witness_guard_off : headGuard (.add ⟨.on 0 false, .i64, 1, .g 1, .imm 1⟩) = some (.on 0 false) ∧ Quiet s0 ∧ s0.me.hold = none
    ∧ s0.guardOn (.on 0 false) = false := by
  simp only [Quiet]; decide +kernel

theorem witness_count : let x := (s0.setG 1 1 |>.take (.g 1)).1
    x.getLsbD (63 - 63) = true ∧ (∀ i, i < 63 → x.getLsbD (63 - i) = false) ∧ (s0.take (.g 1)).1 = 0 := by decide +kernel

theorem witness_funnel_log3_sel : Quiet chan0 ∧ able chan0 (.g 1) ∧ able chan0 (.c 0 1) ∧ chan0.guardOn .always = true := by
  simp only [Quiet, able]; decide +kernel

theorem witness_compare : Quiet s0 ∧ s0.guardOn .always = true ∧ able s0 (.g 1) ∧ ableOpd s0 (.src (.g 2)) ∧ Ty.i64.isFloat = false
    ∧ Ty.f32.isFloat = true := by
  simp only [Quiet, able, ableOpd]; decide +kernel

theorem witness_pstep :
    (let p : Word := 0x00FFFFFFFFFFFFFF;
      (0 : Int) ≤ (p.toNat % 2 ^ 56 : Nat) + (0 : Int) * fmtWidth 0 / 8 ∧ ((p.toNat % 2 ^ 56 : Nat) : Int) + 1 * fmtWidth 0 / 8 = 2 ^ 56)
    ∧ reads (s0.setG 1 0x00FFFFFFFFFFFFFF) (.g 1) (.imm 1) = (0x00FFFFFFFFFFFFFF, 1, s0.setG 1 0x00FFFFFFFFFFFFFF) := by decide +kernel

theorem witness_scrub : Quiet s0 ∧ Alone s0 ∧ s0.me.run.isSome = true ∧ s0.me.hold = none ∧ s0.guardOn .always = true ∧ s0.priv = false
    ∧ (own s0 offFstat).getLsbD 63 = false ∧ s0.myEnt.wpb = s0.me.blk ∧ s0.myEnt.wait = (false, false) := by
  simp only [Quiet, Alone]; decide +kernel

theorem witness_scaled : fmtLegal 12 3 = true ∧ fmtLegal 8 8 = true ∧ fmtLegal 12 2 = false := by decide

theorem witness_frame : scalarForm (.add ⟨.always, .i64, 1, .g 1, .imm 1⟩) = some (.always, 1, .g 1, .imm 1) ∧ Quiet s0
    ∧ (reads s0 (.g 1) (.imm 1)).2.2.myEnt.g = false
    ∧ compareForm (.cmpEq ⟨.always, .i64, 1, .g 1, .imm 1⟩) = some (.always, 1, .g 1, .imm 1) := by
  simp only [Quiet]; decide +kernel

theorem witness_channel_word : (let d := chan0.h 0; let e := chan0.me.chan (chan0.chanOf 0)
      field d 59 3 = chan0.tagOf chan0.cur e e.rd.toNat % 8)
    ∧ (let s := (chan0.setTag 0 (chan0.me.chan 0) 0 9); let e := s.me.chan (s.chanOf 0)
      field (s.h 0) 59 3 ≠ s.tagOf s.cur e e.rd.toNat % 8)
    ∧ ∀ p ∈ (chan0.core 0).inChan, p.chan ≠ 0 := by decide +kernel

theorem witness_go_on : s0.myEnt.g = false ∧ s0.me.line = some threeHeads ∧ pcIdx s0.me.pc < headCount threeHeads
    ∧ (let s := (on0 fun k => { k with pc := 0x1006 }); s.me.line = some threeHeads ∧ headCount threeHeads ≤ pcIdx s.me.pc) := by decide +kernel

theorem witness_branch : branchOf s0 (.br 2) = some (true, 2) ∧ Quiet s0 ∧ s0.myEnt.g = false ∧ branchHandle (.br 2) = none
    ∧ branchOf s0 (.bnz 1 2) = some (false, 2)
    ∧ (let va : VA := s0.me.pc + 2 * (2 : BitVec 19).signExtend 56
      va.toNat % 2 = 0 ∧ va.toNat % 64 ≠ 0 ∧ s0.me.line = some threeHeads ∧ pcLine va = pcLine s0.me.pc ∧ va.toNat % 64 / 2 = headCount threeHeads)
    ∧ (let va : VA := s0.me.pc + 2 * (31 : BitVec 19).signExtend 56; va.toNat % 64 = 0)
    ∧ (s0.h 0).getLsbD 63 = false
    ∧ branchHandle (.bcf 0 1 2) = some 0 ∧ (chan0.h 0).getLsbD 63 = true := by
  simp only [Quiet]; decide +kernel

/-- The code of the task is mapped to its scratchpad by an entry of the ATC; two lines of it are in the read-only cache, the second no legal line. -/
def code0 : State :=
  on0 fun k => { k with
    atc := [⟨true, 1, 15, false, 0, false, 0, 0, 0, 2 ^ 41⟩], ro := [⟨2 ^ 47 + 0x41, 0x1800, 0, lineCheck 0x1800⟩, ⟨2 ^ 47 + 0x42, 0, 0, lineCheck 0⟩] }

theorem code0_ro : code0.me.ro = [⟨2 ^ 47 + 0x41, 0x1800, 0, lineCheck 0x1800⟩, ⟨2 ^ 47 + 0x42, 0, 0, lineCheck 0⟩] := rfl

theorem code0_checks : ∀ x ∈ code0.me.ro, x.chk = lineCheck x.data ∧ x.poi = 0 := by
  rw [code0_ro]
  intro x hx
  rcases List.mem_cons.mp hx with rfl | hx
  · dsimp only; exact ⟨rfl, rfl⟩
  · rcases List.mem_cons.mp hx with rfl | hx
    · dsimp only; exact ⟨rfl, rfl⟩
    · cases hx

theorem witness_far_branch : (∃ x, code0.fetch (pcLine (0x1042 : VA)) = .ok x) ∧ pcLine (0x1042 : VA) ≠ pcLine code0.me.pc :=
  ⟨fetch_hit (e := ⟨true, 1, 15, false, 0, false, 0, 0, 0, 2 ^ 41⟩) (ok_of_gives (by decide +kernel)) (by decide +kernel) (by decide +kernel)
    code0_checks, by decide +kernel⟩

theorem witness_call : Quiet s0 ∧ s0.myEnt.g = false ∧ s0.me.line = some threeHeads ∧ (∃ t, s0.target (s0.me.pc + 2 * (2 : BitVec 19).signExtend 56) = .ok t)
    ∧ (∃ t, (s0.setWsW offLink 0x1004).target (((s0.setWsW offLink 0x1004).wsW offLink).setWidth 56) = .ok t)
    ∧ ∃ t, (s0.setG 1 0x1004).target (((s0.setG 1 0x1004).g 1).setWidth 56) = .ok t :=
  ⟨by unfold Quiet; decide +kernel, by decide +kernel, by decide +kernel, exists_of_okay (by decide +kernel), exists_of_okay (by decide +kernel),
    exists_of_okay (by decide +kernel)⟩

theorem witness_trap : Quiet s0 ∧ Alone s0 ∧ s0.me.run.isSome = true ∧ s0.me.line = some threeHeads ∧ (own s0 offFstat).getLsbD 63 = false
    ∧ s0.guardOn .always = true ∧ ableOpd s0 (.src (.g 1)) ∧ s0.myEnt.gang = none := by
  simp only [Quiet, Alone, able, ableOpd]; decide +kernel

/-- The task is in fault service. -/
def inService : State := s0.setWsW offFstat 0xC000000000000000

theorem witness_fault_service : inService.myEnt.g = false ∧ (inService.wsW offFstat).getLsbD 63 = true ∧ (s0.wsW offFstat).getLsbD 63 = false
    ∧ (inService.ws 0 (inService.ent 0 0).wpb offFstat).getLsbD 63 = true := by decide +kernel
/-! ## Witnesses: what reaches a core, and its banks -/

/-- A load of core 0 waits for a reply, under buoy 0 and under none. -/
def access0 : Access := ⟨0, .load 1, 0x1000, 0, 0, false⟩

def owing (b : Option BuoyId) : State := on0 fun k => { k with owed := [(⟨b, 1⟩, .mem access0)] }

def reply0 (b : Option BuoyId) : MemRep := ⟨0, .load 1, .ok, some ⟨b, 1⟩, false⟩

theorem witness_reply : (onEv (owing (some 0)) (.memrepReceive (reply0 (some 0)))).ev = some (.memrepReceive (reply0 (some 0)))
    ∧ (reply0 (some 0)).buoy = some ⟨some 0, 1⟩ ∧ dropOwed ⟨some 0, 1⟩ ((owing (some 0)).core 0).owed = some []
    ∧ dropOwed ⟨none, 1⟩ ((owing none).core 0).owed = some [] ∧ (reply0 none).buoy = some ⟨none, 1⟩
    ∧ dropOwed ⟨some 0, 1⟩ (s0.core 0).owed = none := by decide +kernel

theorem witness_buoys : (onEv (on0 fun k => { k with buoys := [(0, ⟨20, 30, 255⟩)] }) (.ceilingRecovery 0 0)).ev = some (.ceilingRecovery 0 0)
    ∧ (((on0 fun k => { k with buoys := [(0, ⟨20, 30, 255⟩)] }).core 0).buoy 0).unm = 255
    ∧ (((on0 fun k => { k with buoys := [(0, ⟨20, 30, 255⟩)] }).core 0).buoy 0).val < (((on0 fun k => { k with buoys := [(0, ⟨20, 30, 255⟩)] }).core 0).buoy 0).ceil
    ∧ (onEv s0 (.remoteCompletionNotice 0 none)).ev = some (.remoteCompletionNotice 0 none)
    ∧ buoyOk ⟨63, 63, 0⟩ ∧ buoyOk ⟨0, 1, 255⟩ := by
  unfold buoyOk; decide +kernel

theorem witness_age : (let s := onEv (onEnt fun e => { e with age := 255, eff := 7 }) (.ageWrap 0 0)
      s.ev = some (.ageWrap 0 0) ∧ (s.ent 0 0).v = true ∧ (s.ent 0 0).age = 255 ∧ (s.ent 0 0).eff = 7)
    ∧ (let s := onEv (onEnt fun e => { e with age := 255, eff := 6 }) (.ageWrap 0 0); (s.ent 0 0).age = 255 ∧ (s.ent 0 0).eff ≠ 7) := by decide +kernel

/-- Core 0 leads a gang of two with core 1, and is forming it. -/
def gang0 : Gang := ⟨0, false, 1, 0, [], false, 0x1002, none, none, false, none, [], false⟩

def forming0 : State := onEnt fun e => { e with gang := some gang0 }

/-- The members once one has joined at a position. -/
def joinedWith (g : Gang) (p : BitVec 4) : List (Nat × Hidx) :=
  (g.joined.filter fun m => decide (m.1 < p.toNat)) ++ (p.toNat, 0) :: g.joined.filter fun m => decide (p.toNat < m.1)

theorem witness_join : (forming0.core 0).forming = some (0, gang0) ∧ (let w : Who := { who0 with core := gang0.coreAt 1 }
    w.lref = (forming0.ent 0 0).lref ∧ w.core = gang0.coreAt (1 : BitVec 4).toNat) ∧ gang0.sm1.toNat ≤ (joinedWith gang0 1).length
    ∧ { who0 with lref := 1 }.lref ≠ (forming0.ent 0 0).lref := by decide +kernel

theorem witness_join_more : (let g := { gang0 with sm1 := 2 }; let s := onEnt fun e => { e with gang := some g }
    (s.core 0).forming = some (0, g) ∧ (joinedWith g 1).length < g.sm1.toNat) := by decide +kernel

/-- A formed gang: core 0 leads, and core 1 waits for its start. -/
def formed0 : State :=
  let g : Gang := { gang0 with joined := [(1, 0)], formed := true }
  (forming0.modEnt 0 0 fun e => { e with gang := some g }).modCore 1 fun k => k.setEnt 0 { entry0 with g := true, st := 3, gang := some { g with pos := 1 } }

theorem witness_gang_start : (formed0.ent 1 0).v = true ∧ (formed0.ent 1 0).g = true ∧ (formed0.ent 1 0).st = 3
    ∧ (∃ g, (formed0.ent 1 0).gang = some g ∧ formed0.leaderRuns 0 g = true) ∧ (formed0.core 1).run = none :=
  ⟨by decide +kernel, by decide +kernel, by decide +kernel, ⟨_, by rfl, by decide +kernel⟩, by decide +kernel⟩

theorem witness_idle : State.reset.me.run = none ∧ State.reset.me.stop = false ∧ (∀ h, State.reset.me.eligible h = false)
    ∧ (let s := (onEnt fun e => { e with st := 1 }).modCore 0 fun k => { k with run := none, line := none }
      s.me.run = none ∧ s.me.stop = false ∧ s.me.choose = some 0) := by decide +kernel

def load0 : MemReq := ⟨who0, .load, 0x1000, 8, 0, 0xFF, 0x1000, 0, false, 0, 0, some ⟨some 0, 1⟩, .load 1, none, 0⟩

def line0 : CLine := ⟨0x40, 5, 0, false, 0, 0, 0, false, 0, false⟩

def cached0 : State := { s0 with lines := [line0] }

theorem witness_bank_load : (∃ f, cached0.bankFacts (.bankRequest load0) = some f) ∧ (∃ f, s0.bankFacts (.bankRequest load0) = some f)
    ∧ paRegion load0.pa.toNat = 0 ∧ load0.op = .load ∧ load0.det = false
    ∧ cached0.sliceOwner (cached0.lineSlice load0.who.pid load0.pa.toNat) = some load0.who.pid ∧ cached0.paBad load0.pa.toNat = false
    ∧ cached0.isLost load0.pa.toNat = false ∧ cached0.keyOk load0.key load0.who.pid = true ∧ cached0.fills = [] ∧ cached0.invw = []
    ∧ cached0.cached (load0.pa.toNat / 64) = some line0 ∧ s0.cached (load0.pa.toNat / 64) = none ∧ s0.wbq = [] :=
  ⟨⟨_, rfl⟩, ⟨_, rfl⟩, by decide +kernel⟩

theorem witness_fill : (let s : State := { s0 with fills := [(0x40, [.bankRequest load0])] }
      Tab.find s.fills (0x40 : BitVec 50).toNat = some [.bankRequest load0] ∧ s.soft = [] ∧ s.cached 0x40 = none
      ∧ s.homeAddr load0.who.pid load0.pa.toNat / 64 = 0x40 ∧ s.keyOk load0.key load0.who.pid = true
      ∧ (match ({ s with fills := Tab.del s.fills 0x40 } : State).fillFrom 0x40 load0.key with | .ok _ => true | .error _ => false) = true)
    ∧ (({ s0 with wbq := [line0] } : State).wbq.find? fun y => y.ln == (0x40 : BitVec 50).toNat) = some line0 ∧ paRegion (64 * line0.ln) ≠ 4 := by
  decide +kernel

theorem witness_copy_slice : (let x : CLine := { line0 with copy := true }; let s : State := { s0 with lines := [x] }
      s.sliceOwner (0 : SliceId).toNat = some load0.who.pid ∧ s.keyOk load0.key load0.who.pid = true
      ∧ (s.lines.find? fun x => x.copy && x.sl == (0 : SliceId).toNat && x.ln == load0.pa.toNat / 64) = some x)
    ∧ (∀ x ∈ s0.lines, x.copy = true → x.sl = (0 : SliceId).toNat → x.ln ≠ load0.pa.toNat / 64)
    ∧ (({ s0 with invw := [⟨0x40, 8, []⟩] } : State).invw.find? fun w => w.ln == (0x40 : BitVec 50).toNat) = some ⟨0x40, 8, []⟩
    ∧ (8 : BitVec 4) = BitVec.ofNat 4 (2 ^ (3 : BitVec 2).toNat)
    ∧ (0x80 : BitVec 51).toNat ∈ ({ s0 with soft := [0x80] } : State).soft
    ∧ { load0 with ret := .retained 1 }.ret = .retained 1
    ∧ (s0.core (BitVec.ofNat 11 ((2 ^ 53 : BitVec 56).toNat / 2 ^ 19))).part = load0.who.pid := by decide +kernel

/-! ## Witnesses: engines -/

theorem witness_vector : vxForm (.vadd ⟨.always, .f32, 1, .v 2, .src (.v 3)⟩) = some (.always, opdSrc (.v 2) (.src (.v 3)), opdBc (.src (.v 3)), .vec)
    ∧ Quiet s0 ∧ (∀ f ∈ s0.myEnt.engf, f.eng ≠ .vx) ∧ okay ((opdSrc (.v 2) (.src (.v 3))).forM s0.streamOk) = true
    ∧ (∀ r ∈ vxRegs (.vadd ⟨.always, .f32, 1, .v 2, .src (.v 3)⟩), s0.rstatBusy r = false) ∧ s0.me.vxq.length < 2 := by
  unfold Quiet; decide +kernel

def vmem0 : VmemOp := ⟨.always, .f32, 1, 0, 0, 0x1000⟩

theorem witness_vector_memory : Quiet s0 ∧ s0.rstatBusy vmem0.a = false ∧ s0.me.vxq.length < 2 ∧ s0.me.hold = none
    ∧ (match s0.vmem vmem0 with
      | .ok m => m.ws && m.needed (s0.actsOf vmem0.q) != [] && decide ((m.needed (s0.actsOf vmem0.q)).foldl max m.va < 4096 * s0.me.sblk.toNat)
        && okay (s0.wsReady m.va ((m.needed (s0.actsOf vmem0.q)).foldl max m.va + 1 - m.va)) && okay (vstScaled vmem0 m)
        && !s0.sealedHit s0.cur m.va ((m.needed (s0.actsOf vmem0.q)).foldl max m.va + 1 - m.va)
        && (m.needed (s0.actsOf vmem0.q)).all fun b => !s0.poison.contains (spad s0.cur b / 32)
      | .error _ => false) = true := by
  unfold Quiet; decide +kernel

/-- The first pages are mapped to HBM by an entry of the ATC, and g2 points into them. -/
def far0 : State := (on0 fun k => { k with atc := [⟨true, 1, 15, false, 0, false, 0, 0, 0, 0⟩] }).setG 2 0x1000

theorem witness_vector_memory_far : Quiet far0 ∧ far0.me.vxq.length < 2 ∧ far0.me.hold = none ∧ far0.me.moor = [] ∧ far0.ownPending = false ∧ far0.me.orc < 64
    ∧ (match far0.vmem ⟨.always, .f32, 1, 2, 0, 0⟩ with
      | .ok m =>
        let bs := m.needed (far0.actsOf .always)
        !m.ws && bs != [] && bs.all (fun b => decide (b < 2 ^ 56)) && okay (vstScaled ⟨.always, .f32, 1, 2, 0, 0⟩ m)
          && (match far0.transPieces m.tag rRead 0 (pieces 64 bs) with
            | .ok xs => xs.all (fun x => okay (far0.pathFree x.1.a (far0.receiver far0.cur far0.me.part (atcPa x.2 x.1.a) true x.2.det) false))
              && okay (far0.firstStep (xs.map (far0.loadReq m.tag .load (.load 0))))
            | .error _ => false)
          && (match far0.transPieces m.tag rWrite 0 (pieces 64 bs) with
            | .ok xs => (xs.map (far0.engReq m.tag .vxLine)).all (fun r =>
                okay (far0.pathFree (ptrVa r.fptr) (far0.receiver far0.cur far0.me.part r.pa.toNat false r.det) true))
              && okay (far0.firstStep (xs.map (far0.engReq m.tag .vxLine)))
            | .error _ => false)
      | .error _ => false) = true := by
  unfold Quiet; decide +kernel

theorem witness_vector_memory_no_lane : (match s0.vmem { vmem0 with q := .on 0 false } with
      | .ok m => m.needed (s0.actsOf (.on 0 false)) == [] && okay (vstScaled vmem0 m)
      | .error _ => false) = true := by decide +kernel

def outst0 : Outst := ⟨1, 0, 0, false, 1, .i64, 0x1000, false, 0, 0x1002, [], [], 0, none, [], [], [], true, false, true⟩

theorem witness_vector_load_answered : (let s := (held 6 [1, 0] (some .ok)).modCore 0 fun k => { k with loads := [outst0] }
    s.me.hold = some ⟨6, [1, 0], some .ok⟩ ∧ (s.me.loads.find? fun x => x.id == (1 : Word).toNat) = some outst0) := by decide +kernel

/-- The task owns accumulator 0. -/
def owner0 : State := on0 fun k => k.setAcc 0 { k.acc 0 with own := .task 0 }

theorem witness_matrix : Quiet owner0 ∧ (∀ f ∈ owner0.myEnt.engf, f.eng ≠ .mx) ∧ owner0.me.mxq.length < 2 ∧ owner0.me.mxprog.mv = false
    ∧ (owner0.me.acc 0).own = .task owner0.myIdx ∧ (s0.me.acc 0).own = .none ∧ owner0.guardOn .always = true ∧ owner0.me.moor = []
    ∧ owner0.g 3 = 0 ∧ okay (mxstOk .f32 ((owner0.setG 1 0x7000000000001000).g 1) 0 (mxstStride none)) = true := by
  unfold Quiet; decide +kernel

theorem witness_mxst_masked : (let s := (owner0.setG 1 0x7000000000001000).setG 3 0x100000001
    Quiet s ∧ enabled (s.g 3) ≠ [] ∧ s.me.moor = [] ∧ okay (mxstOk .f32 (s.g 1) (s.g 3) (mxstStride none)) = true ∧ (s.me.acc 0).own = .task s.myIdx) := by
  unfold Quiet; decide +kernel

theorem witness_mxmul : (let pa : Word := 0x6000000000001000; let pb : Word := 0x6000000000002000; let w : Word := 0
    rowsOk pa (swSa w) (swAm1 w) (swKm1 w) = true ∧ rowsOk pb (swSb w) (swKm1 w) (swBm1 w) = true ∧ mulFmt false pa = true ∧ mulFmt false pb = true
    ∧ mulFmt true (0x7000000000001000 : Word) = true ∧ rowsOk (0x7000000000001000 : Word) (swSa w) (swAm1 w) (swKm1 w) = true) := by decide +kernel

theorem witness_matrix_control : Quiet owner0 ∧ owner0.myEnt.engf = [] ∧ owner0.me.mxq.length < 2
    ∧ (let s := owner0.modCore 0 fun k => { k with mxprog := ⟨true, 0, 0, 0, none⟩ }; s.me.mxprog.mv = true ∧ s.me.mxprog.acc = 0
      ∧ (s.me.acc 0).own = .task s.myIdx)
    ∧ (s0.wsW offTstat).getLsbD 63 = false ∧ (privileged.wsW offTstat).getLsbD 63 = true
    ∧ privileged.me.mxs = (privileged.g 1).getLsbD 0
    ∧ (let s := privileged.setG 1 1; s.me.mxs = false ∧ (s.g 1).getLsbD 0 = true ∧ s.me.mxq = [] ∧ (s.me.acc 2).own = .none ∧ (s.me.acc 3).own = .none)
    ∧ (let s := privileged.modCore 0 fun k => { k with mxs := true }
      s.me.mxs = true ∧ (s.g 1).getLsbD 0 = false ∧ s.me.mxrq = [] ∧ s.me.inMx = []) := by
  unfold Quiet; decide +kernel

theorem witness_remote : Quiet (held 3 [0, 0] (some .ok)) ∧ (held 3 [0, 0] (some .ok)).me.hold = some ⟨3, [0, 0], some .ok⟩
    ∧ BitVec.ofNat 10 (field (([0, 0] : List Word).getD 0 0) 54 10) = (held 3 [0, 0] (some .ok)).me.dev
    ∧ (held 7 [] (some (.pair 1 2))).me.hold = some ⟨7, [], some (.pair 1 2)⟩
    ∧ (let s := s0.setG 1 2432; s.me.vxq.length < 2 ∧ s.descOk ((s.g 1).toNat % 2 ^ 19) = true) := by
  unfold Quiet; decide +kernel

/-- The words of a copy of 64 bytes in g1 to g4. -/
def copy0 : State := ((s0.setG 1 64).setG 2 0x2000).setG 3 0x3000

theorem witness_copy : Quiet copy0 ∧ copy0.me.hold = none ∧ copy0.guardOn .always = true
    ∧ (match copy0.cxRequest ⟨.always, 5, 1⟩ with | .ok q => q.mode != 4 && q.mode != 6 | .error _ => false) = true
    ∧ copy0.me.cxq.length < 2 ∧ copy0.me.cxq.length + copy0.me.fifo.length < 8 ∧ copy0.me.moor = []
    ∧ (let s := copy0.modCore 0 fun k => { k with fifo := List.replicate 8 ⟨64, 0x2000, 0x3000, 0, [], 0, 0, who0, [], none, none⟩ }
      8 ≤ s.me.cxq.length + s.me.fifo.length ∧ okay (s.cxRequest ⟨.always, 5, 1⟩) = true) := by
  unfold Quiet; decide +kernel

theorem witness_plain_copy : (let w (i : Nat) : Word := copy0.g ((1 : GReg) + BitVec.ofNat 4 i)
    let n := field (w 0) 0 32
    field (w 0) 56 8 = 0 ∧ field (w 0) 32 22 = 0 ∧ n ≠ 0 ∧ ptrBlog (w 1) = 0 ∧ ptrBlog (w 2) = 0 ∧ w 3 = 0 ∧ ptrVa (w 1) + n ≤ 2 ^ 56 ∧ ptrVa (w 2) + n ≤ 2 ^ 56
      ∧ ptrVa (w 1) + n ≤ ptrVa (w 2)) := by decide +kernel

theorem witness_cxwait : (let s := (on0 fun k => { k with cxdone := [(0, 2)], cxnext := [(0, 2)] }).setG 1 1
      let d := ((s.g 1).setWidth 32 - s.me.cxDone 0).toNat
      2 ^ 31 ≤ d ∧ (s.me.cxNext 0 - s.me.cxDone 0).toNat ≤ d ∧ ∀ r ∈ s.me.cxerr, r.cch = 0 → r.hidx ≠ s.myIdx)
    ∧ (let s := (on0 fun k => { k with cxnext := [(0, 2)] }).setG 1 1
      let d := ((s.g 1).setWidth 32 - s.me.cxDone 0).toNat
      d < (s.me.cxNext 0 - s.me.cxDone 0).toNat ∧ s.myEnt.g = false)
    ∧ (let s := (on0 fun k => { k with cxnext := [(0, 2)] }).setG 1 2
      let d := ((s.g 1).setWidth 32 - s.me.cxDone 0).toNat
      (s.me.cxNext 0 - s.me.cxDone 0).toNat ≤ d ∧ d < 2 ^ 31) := by decide +kernel
/-! ## Witnesses: memory heads -/

/-- A page of HBM at VA 0x20_0000, readable and writable, its entry in the ATC and its record at the home. -/
def page0 : AtcEntry := ⟨true, 0, 15, false, 0, false, 0, 0, 0x200, 0⟩

def rec0 : DRec := ⟨false, false, 0, 15, false, 0, false, 0, 1, 0, 0x200, 0, 0, 0x1FFFFF, 0x1FFFFF, 0x1FFFFF⟩

def mem0 : State := { ((on0 fun k => { k with atc := [page0] }).setG 1 0x200000) with recs := [(3, rec0)], spaces := [(0, ⟨0, 1, []⟩)] }

def ld0 : LsOp := ⟨.always, .i64, 2, ⟨0, .imm 0x1000⟩⟩

theorem witness_load_workspace : Quiet s0 ∧ s0.me.hold = none ∧ s0.guardOn ld0.q = true ∧ s0.address ld0.m (elemSize (elemTy ld0.t 0 0) 0) = .ok (.ws 0x1000)
    ∧ okay (s0.wsReady 0x1000 (elemSize (elemTy ld0.t 0 0) 0)) = true ∧ s0.sealedHit s0.cur 0x1000 (elemSize (elemTy ld0.t 0 0) 0) = false
    ∧ s0.spadPoison 0x1000 (elemSize (elemTy ld0.t 0 0) 0) = none
    ∧ s0.me.imageHit none 0x1000 (elemSize (elemTy ld0.t 0 0) 0) = false ∧ s0.myEnt.g = false ∧ 4096 * s0.me.blk.toNat + imageBytes ≤ 0x1000 := by
  unfold Quiet; decide +kernel

def ldm : LsOp := ⟨.always, .i64, 2, ⟨1, .imm 0x38⟩⟩

def roLine0 : RoLine := ⟨0, 5, 0, lineCheck 5⟩

def ro0 : State := mem0.modCore 0 fun k => { k with ro := [roLine0] }

theorem ro0_finds : ro0.me.roFind 0 = some roLine0 := by
  have h : ro0.me.ro = [roLine0] := rfl
  simp [Core.roFind, h, roLine0, RoLine.checked]

theorem witness_load_cached : (Quiet ro0 ∧ ldm.t ≠ .t4 ∧ ro0.me.hold = none ∧ ro0.guardOn ldm.q = true
    ∧ ro0.address ldm.m (elemSize (elemTy ldm.t 0 0) 0) = .ok (.va 0 0x200038) ∧ tagFmt 0 = 0 ∧ tagBlog 0 = 0
    ∧ 0x200038 % 64 + elemSize (elemTy ldm.t 0 0) 0 ≤ 64 ∧ ro0.moorHit 0x200038 0x20003F = none ∧ ro0.me.atcFind ro0.myEnt.sid 0x200038 = some page0
    ∧ page0.rts.getLsbD rRead = true ∧ atcPa page0 (0x200038 / 64 * 64) / 64 = 0) ∧ ro0.me.roFind 0 = some roLine0 ∧ roLine0.poi = 0 :=
  ⟨by unfold Quiet; decide +kernel, ro0_finds, rfl⟩

theorem witness_ldnb : Quiet mem0 ∧ (match mem0.loadPlace ldm.t ldm.m with
    | .ok (.va tag a, bs) => (match mem0.transPieces tag rRead 0 (pieces 64 bs) with
      | .ok xs =>
        !mem0.ownPending
          && okay (xs.forM fun x => mem0.pathFree x.1.a (mem0.receiver mem0.cur mem0.me.part (atcPa x.2 x.1.a) true x.2.det) false)
          && okay (mem0.issueLoad true (xs.map (mem0.loadReq tag .load (.load 0))) (mem0.outst true false ldm.a ldm.t (mkPtr tag a) xs))
      | .error _ => false)
    | _ => false) = true := by
  unfold Quiet; decide +kernel

theorem witness_load_far : mem0.me.hold = none ∧ mem0.guardOn .always = true ∧ mem0.address ldm.m (elemSize (elemTy ldm.t 0 0) 0) = .ok (.va 0 0x200038)
    ∧ (let n := elemSize (elemTy ldm.t (tagFmt 0) 0) (tagFmt 0)
      0 < n ∧ 0x200038 % 64 + n ≤ 64 ∧ 0x200038 + n ≤ 2 ^ 56 ∧ mem0.moorHit 0x200038 (0x200038 + n - 1) = none)
    ∧ mem0.me.atcFind mem0.myEnt.sid 0x200038 = some page0 ∧ page0.rts.getLsbD rRead = true ∧ mem0.ownPending = false ∧ mem0.me.orc < 64
    ∧ page0.det = false ∧ atBank mem0 (atcPa page0 0x200038) 0x200038 false
    ∧ atBank mem0 (atcPa page0 (0x200038 / 64 * 64)) (0x200038 / 64 * 64) page0.det
    ∧ mem0.me.roFind (atcPa page0 (0x200038 / 64 * 64) / 64) = none := by
  unfold atBank free; decide +kernel

theorem witness_load_answered : Quiet (held 1 [] (some .ok)) ∧ (held 1 [] (some .ok)).me.hold = some ⟨1, [], some .ok⟩
    ∧ (held 1 [] (some (.fault cNotMapped 4))).me.hold = some ⟨1, [], some (.fault cNotMapped 4)⟩ ∧ cNotMapped ≠ cIllegalOp ∧ cNotMapped ≠ cIllegalLine
    ∧ cNotMapped ≠ cIllegalTarget
    ∧ (let x := { outst0 with nb := true }; x.fault = none ∧ x.nb = true ∧ x.atom = false ∧ x.code = false ∧ x.log = [] ∧ x.fills = [])
    ∧ ((held 1 [] none).core 0).phaseOf outst0.hidx = some 1 := by
  unfold Quiet; decide +kernel

theorem witness_late : Quiet mem0 ∧ mem0.guardOn .always = true ∧ mem0.address ⟨1, .imm 0⟩ 8 = .ok (.va 0 0x200000)
    ∧ tagBlog 0 = 0 ∧ 0 < elemSize (elemTy .i64 (tagFmt 0) 0) (tagFmt 0) ∧ 0x200000 + elemSize (elemTy .i64 (tagFmt 0) 0) (tagFmt 0) ≤ 2 ^ 56
    ∧ 0x200000 % 64 + elemSize (elemTy .i64 (tagFmt 0) 0) (tagFmt 0) ≤ 64 ∧ mem0.moorHit 0x200000 0x200007 = none ∧ 0x200000 % 8 = 0
    ∧ atHome mem0 0x200000 ∧ mem0.detAt mem0.myEnt.sid 0x200000 = false
    ∧ (∃ t, mem0.lateHead (mem0.lateReqs 0 .store 0 0x200000 8 (storeVal mem0.me .i64 (tagFmt 0) (mem0.g 2))) = .ok t)
    ∧ ∃ t, mem0.lateHead (mem0.lateReqs 0 (.bred .add .i64) 1 0x200000 (tyBits .i64 / 8) ((mem0.g 2).toNat % 256 ^ (tyBits .i64 / 8))) = .ok t :=
  ⟨by unfold Quiet; decide +kernel, by decide +kernel, by decide +kernel, by decide, by decide, by decide, by decide, by decide +kernel, by decide,
    by unfold atHome; decide +kernel, by decide +kernel, exists_of_okay (by decide +kernel), exists_of_okay (by decide +kernel)⟩

theorem witness_bupd : okay (mem0.regImm (.imm 1)) = true ∧ mem0.vxBusy ((2 : BitVec 4).setWidth 5) = false ∧ ptrLegal (mem0.g 1) = true
    ∧ ptrBlog (mem0.g 1) = 0 ∧ ptrVa (mem0.g 1) % 64 = 0 ∧ bupdMask .i64 (0 : BitVec 16) = 0 ∧ bupdMask .i64 (1 : BitVec 16) ≠ 0
    ∧ atHome mem0 (ptrVa (mem0.g 1)) ∧ mem0.moorHit (ptrVa (mem0.g 1)) (ptrVa (mem0.g 1) + 63) = none := by
  unfold atHome; decide +kernel

theorem witness_discard : mem0.address ⟨1, .imm 0⟩ 64 = .ok (.va 0 0x200000) ∧ 0x200000 % 64 = 0 ∧ (mem0.g 2).toNat % 4096 + 1 = 1
    ∧ mem0.latePathFree 0x200000 = .ok () ∧ mem0.latePathFree (0x200000 + 64 - 1) = .ok () ∧ atHome mem0 0x200000
    ∧ mem0.moorHit 0x200000 (0x200000 + 64 - 1) = none
    ∧ ∃ t, mem0.issueLate ((List.range 1).map fun i => mem0.lateReq 0 .discard 3 0 ⟨0x200000 + 64 * i, 64, BitVec.allOnes 64⟩) = .ok t :=
  ⟨by decide +kernel, by decide, by decide +kernel, by decide +kernel, by decide +kernel, by unfold atHome; decide +kernel, by decide +kernel,
    exists_of_okay (by decide +kernel)⟩

theorem witness_late_sent : (let r := mem0.lateReq 0 .store 0 0 ⟨0x200000, 8, 0xFF⟩
    Quiet mem0 ∧ r.buoy = some ⟨some 0, 0⟩ ∧ mem0.me.srb.length < 64 ∧ 0 < (mem0.me.buoy 0).val ∧ mem0.latePathFree (ptrVa r.fptr) = .ok ()
    ∧ mem0.detAt r.who.sid (ptrVa r.fptr) = false) := by
  unfold Quiet; decide +kernel

theorem witness_atom : Quiet mem0 ∧ mem0.me.hold = none ∧ mem0.guardOn .always = true ∧ able mem0 (.g 3) ∧ mem0.ownPending = false ∧ mem0.me.orc < 64
    ∧ (let p := mem0.g 1
      ptrLegal p = true ∧ ptrBlog p = 0 ∧ 0 < tyBits .i64 / 8 ∧ ptrVa p % (tyBits .i64 / 8) = 0 ∧ mem0.moorHit (ptrVa p) (ptrVa p + tyBits .i64 / 8 - 1) = none
      ∧ mem0.me.atcFind mem0.myEnt.sid (ptrVa p) = some page0 ∧ page0.rts.getLsbD rRead = true ∧ page0.rts.getLsbD rWrite = true
      ∧ toBankFrom mem0 (atcPa page0 (ptrVa p)) (ptrVa p) page0.det)
    ∧ (let x := { outst0 with atom := true }
      x.fault = none ∧ x.nb = false ∧ x.atom = true ∧ x.code = false ∧ x.log = [] ∧ x.fills = [] ∧ ((held 1 [] none).core 0).phaseOf x.hidx = some 1)
    ∧ 2 ^ 64 - 1 < 2 ^ tyBits .i64 := by
  unfold Quiet able toBankFrom free; decide +kernel

theorem witness_barrier : Quiet mem0 ∧ Idle mem0 ∧ mem0.me.decrs = [] ∧ ptrLegal (mem0.g 1) = true ∧ ptrBlog (mem0.g 1) = 0 ∧ ptrVa (mem0.g 1) % 64 = 0
    ∧ mem0.me.atcFind mem0.myEnt.sid (ptrVa (mem0.g 1)) = some page0 ∧ page0.rts.getLsbD rWrite = true
    ∧ (let pa := atcPa page0 (ptrVa (mem0.g 1)); let rcv := mem0.receiver mem0.cur mem0.me.part pa false page0.det
      mem0.pathFree (ptrVa (mem0.g 1)) rcv true = .ok () ∧ ∀ z, receiverBuoy pa rcv = some z → 0 < (mem0.me.buoy z).val)
    ∧ mem0.myEnt.wait = (false, false) ∧ mem0.me.sfq = [] ∧ mem0.me.rcc = 0 ∧ mem0.me.line = some threeHeads ∧ mem0.myEnt.ganged = false
    ∧ (held 2 [0] (some .ok)).me.hold = some ⟨2, [0], some .ok⟩ := by
  unfold Quiet Idle; decide +kernel

/-- A fence of every kind waits for a load. -/
def fence0 : FenceWait := ⟨7, [1], [], false⟩

theorem witness_fence : (let s := (onEnt fun e => { e with fences := [fence0] }).modCore 0 fun k => { k with loads := [outst0] }
    s.wsW offSbrd = 0 ∧ s.me.hold = none ∧ fence0 ∈ s.myEnt.fences ∧ s.fenceOver fence0 = false ∧ s.myEnt.held = [] ∧ fence0.succ.getLsbD 0 = true
    ∧ fence0.succ.getLsbD 1 = true ∧ s.guardOn .always = true)
    ∧ (let s := onEnt fun e => { e with fences := [fence0], held := [⟨3, 0, 0, 5, 0, 1⟩] }
      fence0 ∈ s.myEnt.fences ∧ s.myEnt.held = [⟨3, 0, 0, 5, 0, 1⟩] ∧ 1 ∈ fence0.names) := by decide +kernel

/-! ## Witnesses: channels, tasks and system heads -/

/-- A binding word: kind 0, channel 5, base 0x46 in units of 64 bytes, four slots. -/
def bind0 : State := s0.setG 1 0x0500460300000000

theorem witness_cbind : Quiet bind0 ∧ (let w := bind0.g 1
    field w 62 2 = 0 ∧ field w 53 3 = 0 ∧ field w 0 32 = 0 ∧ 4096 * bind0.me.blk.toNat + imageBytes ≤ 64 * field w 40 13
    ∧ 64 * field w 40 13 + (64 * (field w 32 8 + 1) + (field w 32 8 + 2) / 2) ≤ 4096 * (bind0.me.blk.toNat + bind0.myEnt.nblk)
    ∧ (bind0.me.chan (BitVec.ofNat 5 (field w 56 5))).v = false ∧ w.getLsbD 61 = false)
    ∧ field ((s0.setG 1 0xC000000000000000).g 1) 62 2 = 3 := by
  unfold Quiet; decide +kernel

theorem witness_channels : Quiet chan0 ∧ (chan0.h 0).getLsbD 63 = true ∧ chan0.me.inChan = [] ∧ (chan0.me.chan (chan0.chanOf 0)).bh = false
    ∧ chan0.guardOn .always = true ∧ field (chan0.h 0) 57 2 = 0 ∧ (chan0.me.chan (chan0.chanOf 0)).v = true ∧ (1 : BitVec 9).toNat ≤ (chan0.me.chan (chan0.chanOf 0)).fill
    ∧ (1 : BitVec 9).toNat ≤ (chan0.me.chan (chan0.chanOf 0)).sm1.toNat + 1 ∧ (chan0.me.chan (chan0.chanOf 0)).sm1.toNat + 1 < (5 : BitVec 9).toNat := by
  unfold Quiet; decide +kernel

theorem witness_csend : s0.guardOn .always = true ∧ s0.net = [] ∧ s0.me.retry.length < 16 ∧ s0.destOk (s0.g 1) = true ∧ field (s0.g 1) 54 10 = s0.me.dev.toNat ∧ (s0.g 1).getLsbD 53 = false
    ∧ (let s := s0.setG 1 0x0020000000000000; s.destOk (s.g 1) = true ∧ field (s.g 1) 54 10 = s.me.dev.toNat ∧ (s.g 1).getLsbD 53 = true)
    ∧ (let s := { s0.setG 1 0x0040000000000000 with peers := [1] }; s.destOk (s.g 1) = true ∧ field (s.g 1) 54 10 ≠ s.me.dev.toNat ∧ (s.g 1).getLsbD 53 = false)
    ∧ (s0.setG 1 1).destOk ((s0.setG 1 1).g 1) = false := by decide +kernel

theorem witness_mask : ableOpd s0 (.imm 3) ∧ (readsOne s0 (.imm 3)).1.getLsbD 2 = false ∧ (readsOne s0 (.imm 4)).1.getLsbD 2 = true
    ∧ (readsOne s0 (.imm 4)).2.me.inMx = [] := by
  simp only [ableOpd]; decide +kernel

theorem witness_tasks : Quiet s0 ∧ ableOpd s0 (.imm 1) ∧ field (s0.g 1) 27 5 = 0 ∧ field (s0.g 1) 0 10 = 0 ∧ field ((s0.setG 1 1).g 1) 0 10 ≠ 0
    ∧ able s0 (.g 1) ∧ s0.gangOk ((s0.take (.g 1)).1) = false ∧ s0.myEnt.ganged = false ∧ formed0.myEnt.ganged = true := by
  simp only [Quiet, able, ableOpd]; decide +kernel

theorem witness_registers : Quiet s0 ∧ s0.guardOn .always = true ∧ ∀ n ∈ [(1 : BitVec 8), 3, 5, 14], (191 : BitVec 8) ≠ n := by
  unfold Quiet; decide +kernel

theorem witness_answered : (held 4 [] (some (.status 5))).me.hold = some ⟨4, [], some (.status 5)⟩ ∧ field (0x0200000000000000 : Word) 56 8 ≠ 0
    ∧ (held 5 [] (some (.status 5))).me.hold = some ⟨5, [], some (.status 5)⟩ ∧ field (5 : Word) 56 8 ≠ 5
    ∧ (held 3 [] (some .ok)).me.hold = some ⟨3, [], some .ok⟩ ∧ Quiet (held 3 [] (some .ok)) ∧ able (held 3 [] (some .ok)) (.g 1) ∧ (held 3 [] (some .ok)).me.tableBusy false = false
    ∧ (held 3 [0x8000000000000000, 0, 0, 0, 7] (some .ok)).me.hold = some ⟨3, [0x8000000000000000, 0, 0, 0, 7], some .ok⟩
    ∧ (privileged.wsW offTstat).getLsbD 63 = true ∧ (s0.wsW offTstat).getLsbD 63 = false ∧ (∀ r, RegImm.imm 1 = .reg r → field (s0.g r) 0 3 ≤ 1) := by
  refine ⟨by decide +kernel, by decide, by decide +kernel, by decide, by decide +kernel, by unfold Quiet; decide +kernel, trivial, by decide +kernel,
    by decide +kernel, by decide +kernel, by decide +kernel, by nofun⟩

theorem witness_messages : (let s := held 3 [0, 0] (some .ok); Quiet s ∧ s.me.hold = some ⟨3, [0, 0], some .ok⟩
      ∧ 0 < (s.me.buoy (BitVec.ofNat 7 (s.queueHome s.me.part (field (([0, 0] : List Word).getD 1 0) 33 3)))).val
      ∧ 0 < (s.me.buoy (BitVec.ofNat 7 (s.myEnt.lref.toNat / 2 ^ 26))).val
      ∧ 0 < (s.me.buoy (BitVec.ofNat 7 (s.kernel (BitVec.ofNat 4 (field (([0, 0] : List Word).getD 0 0) 60 4))))).val
      ∧ s.scrubCode s.who [0, 0] ≠ 0)
    ∧ s0.me.hold = none ∧ able s0 (.g 1) ∧ 0 < (s0.me.buoy (BitVec.ofNat 7 (((s0.take (.g 1)).1.setWidth 32 : ObjRef).toNat / 2 ^ 26))).val
    ∧ (held 4 [] (some (.status 5))).me.hold = some ⟨4, [], some (.status 5)⟩ ∧ field (5 : Word) 56 8 = 0
    ∧ 0 < (s0.me.buoy (BitVec.ofNat 7 (s0.home s0.me.part s0.myEnt.sid (field (s0.g 1) 0 56)))).val
    ∧ field ((s0.setG 1 2).g 1) 0 3 = 2 := by
  unfold Quiet able; decide +kernel

/-- A message of 64 bytes, an image of a table and a descriptor can be read at g1. -/
theorem witness_message_read : (let s := mem0.setWsW offTstat 0x8000000000000000
    Quiet s ∧ s.me.hold = none ∧ (s.wsW offTstat).getLsbD 63 = true ∧ s.guardOn .always = true ∧ able s (.g 1) ∧ s.me.tableBusy false = false
    ∧ (let p := s.g 1
      ptrLegal p = true ∧ ptrBlog p = 0 ∧ ptrVa p % 64 = 0 ∧ ptrVa p % 4096 + 1024 ≤ 4096 ∧ s.me.atcFind s.myEnt.sid (ptrVa p) = some page0
      ∧ page0.rts.getLsbD rRead = true ∧ page0.det = false ∧ s.moorHit (ptrVa p) (ptrVa p + 1023) = none ∧ s.ownPending = false
      ∧ BitVec.ofNat 64 (field (s.take (.g 1)).1 5 51 * 32) = p ∧ atBank s (atcPa page0 (ptrVa p)) (ptrVa p) false
      ∧ ∀ i, i < 16 → atBank s (atcPa page0 (ptrVa p + 64 * i)) (ptrVa p + 64 * i) false)) := by
  unfold Quiet able atBank free; decide +kernel

theorem witness_scrub_sent : (let s := { held 3 [0x1080000000000000, 0, 0x200000] (some .ok) with
      slices := [(0, slice0), (1, { Slice.reset with pdesc := [0x8800000000000000, 2, 0, 0, 0x0400800000000000, 0, 0, 0, 0, 0, 0, 0] })]
      recs := [(3, { rec0 with psz := 2 })], spaces := [(0, ⟨0, 1, []⟩)] }
    s.scrubCode s.who [0x1080000000000000, 0, 0x200000] = 0) := by decide +kernel
/-! ## Witnesses: homes, objects, launches -/

def miss0 : MissReq := ⟨who0, 0x200008, 1, 0, none, .held 0⟩

theorem witness_miss : mem0.sliceOwner (mem0.home miss0.who.pid miss0.who.sid (ptrVa miss0.fptr)) = some miss0.who.pid
    ∧ mem0.mode miss0.who.pid 0 = false ∧ mem0.mode miss0.who.pid 1 = false
    ∧ mem0.recFind (mem0.home miss0.who.pid miss0.who.sid (ptrVa miss0.fptr)) miss0.who.sid (ptrVa miss0.fptr) = some (3, rec0) ∧ rec0.wd = false
    ∧ Tab.find mem0.spaces miss0.who.sid.toNat = some ⟨0, 1, []⟩
    ∧ s0.recFind (s0.home miss0.who.pid miss0.who.sid (ptrVa miss0.fptr)) miss0.who.sid (ptrVa miss0.fptr) = none := by decide +kernel

theorem witness_late_home : (let r := mem0.lateReq 0 .store 0 0 ⟨0x200000, 8, 0xFF⟩
    mem0.sliceOwner (mem0.home r.who.pid r.who.sid (ptrVa r.fptr)) = some r.who.pid
    ∧ mem0.recFind (mem0.home r.who.pid r.who.sid (ptrVa r.fptr)) r.who.sid (ptrVa r.fptr) = some (3, rec0) ∧ rec0.rts.getLsbD 2 = true
    ∧ paRegion (BitVec.ofNat 56 (rec0.ppn.toNat * 4096 + ptrVa r.fptr % 2 ^ pageShift rec0.psz)).toNat = 0 ∧ mem0.recAt 3 = some rec0)
    ∧ (let d := { rec0 with rts := 2 }; let s : State := { mem0 with recs := [(3, d)] }
      s.recFind 0 0 0x200000 = some (3, d) ∧ d.rts.getLsbD 2 = false) := by decide +kernel

/-- The slice holds an access for its kernel, with its record. -/
def sf0 : SfRec := ⟨0, 0, 0, 0, cNotMapped, 255, 0x200008, 0, 0⟩

def holding (e : Event) : State := mem0.modSlice 0 fun k => { k with holdb := [(0, sf0, e)], ring := [(0, sf0)] }

theorem witness_service : (holding (.translationMiss miss0)).heldWith 0 0 = some (0, sf0, .translationMiss miss0)
    ∧ (let r := mem0.lateReq 0 .store 0 0 ⟨0x200000, 8, 0xFF⟩; (holding (.lateRequestAtHome r)).heldWith 0 0 = some (0, sf0, .lateRequestAtHome r))
    ∧ (holding (.translationMiss miss0)).recFind (0 : SliceId).toNat miss0.who.sid (ptrVa miss0.fptr) = some (3, rec0) ∧ rec0.wd = false
    ∧ (holding (.translationMiss miss0)).mode miss0.who.pid 1 = false ∧ hasRights rec0.rts miss0.need = true := by decide +kernel

def map0 : MapReq := ⟨who0, false, 0x200000, 0x300000, 1, 1, 0, 1, 0, none, false, none, .held 0⟩

def mapping : State := { mem0 with spaces := [(0, ⟨0, 1, []⟩), (1, ⟨0, 0, []⟩)] }

theorem witness_map : map0.root = none ∧ map0.grant = false ∧ map0.bad = false ∧ map0.psz.toNat < 5 ∧ map0.n = 1 ∧ map0.done = 0
    ∧ map0.sva.toNat % pageSize map0.psz = 0 ∧ mapping.sliceOwner (mapping.mapHome map0) = some map0.who.pid ∧ mapping.mapCheck map0 = 0
    ∧ mapping.recFind (mapping.mapHome map0) map0.who.sid map0.sva.toNat = some (3, rec0) ∧ rec0.stub = false ∧ mapping.recAt (BitVec.ofNat 21 3) = some rec0
    ∧ mem0.mapCheck map0 ≠ 0 ∧ map0.n = map0.done + 1
    ∧ Tab.find mapping.spaces rec0.sid.toNat = some ⟨0, 1, []⟩ ∧ (∀ h ∈ mapping.homesOf 0 rec0.sid (recBase rec0) (pageSize rec0.psz), h = recSlice 3)
    ∧ Tab.find mem0.spaces (1 : Sid).toNat = none ∧ (1 : Sid) ≠ 0 := by decide +kernel

def unmap0 : UnmapReq := ⟨who0, 0x200000, true, 1, 0xFFFFFFFF, false, none, .held 0⟩

theorem witness_unmap : mem0.sliceOwner (mem0.home unmap0.who.pid unmap0.who.sid unmap0.start.toNat) = some unmap0.who.pid ∧ unmapCheck unmap0 = 0
    ∧ unmapCheck { unmap0 with len := 0 } ≠ 0
    ∧ (({ mem0 with unmaps := [⟨7, unmap0, [0]⟩] } : State).unmaps.find? fun u => u.id == 7) = some ⟨7, unmap0, [0]⟩ ∧ mem0.mode 0 2 = false
    ∧ s0.unmapRoots 0 unmap0 = [] := by decide +kernel

theorem witness_withdraw : mem0.recAt 3 = some rec0 ∧ mem0.kidsOf 3 = []
    ∧ (let w : Withdraw := ⟨7, some (7, 0), [3], [(3, 2)], [0], 0, 0x1000⟩; let s : State := { mem0 with wds := [w] }
      (s.wds.find? fun w => w.id == 7) = some w ∧ w.owed = [(3, 2)] ∧ w.shoot = [(0 : CoreId).toNat])
    ∧ (let w : Withdraw := ⟨7, some (7, 0), [3], [], [], 0, 0x1000⟩; let s : State := { mem0 with wds := [w] }
      (s.wds.find? fun w => w.id == 7) = some w ∧ s.removable w = true ∧ w.recs = [3] ∧ w.part = some (7, 0)
      ∧ ∀ x ∈ s.wds, x.id ≠ 7 → x.part ≠ w.part)
    ∧ (∀ x ∈ mem0.spaces, x.2.hold = []) := by decide +kernel

/-- A graph object in slice 1. -/
def graph0 : Obj := { Obj.reset with v := true, lvl := 1, exp := 2, par := 0x08000000 }

def objects : State := { s0 with objs := [(2 ^ 26, graph0)] }

theorem witness_objects : (objects.obj 0x04000000).v = true ∧ graph0.posted = false ∧ graph0.par ≠ 0xFFFFFFFF ∧ graph0.lvl ≠ 0 ∧ graph0.fin ≠ graph0.exp
    ∧ graph0.over = false ∧ graph0.fin < graph0.exp ∧ graph0.cl = false
    ∧ ({ s0 with slices := [(0, { slice0 with pdesc := [0x8000000000000000, 3, 0, 0, 0] })], objs := [(2 ^ 26, graph0)] } : State).sliceOwner
      (objSlice 0x04000000) = some graph0.pid
    ∧ (∀ e ∈ objects.qbuf, e.lref ≠ 0x04000000) ∧ (∀ x ∈ objects.refused, x.1 ≠ (0 : BitVec 10).toNat) := by decide +kernel

theorem witness_closes : (let o := { graph0 with acks := 2, cl := true }; 1 < o.acks ∧ o.cl = true)
    ∧ (let o := { graph0 with acks := 1, last := true }; o.acks = 1 ∧ o.last = true)
    ∧ (∀ h, (s0.ent 0 h).bar.bw = false)
    ∧ (let s := onEnt fun e => { e with st := 3 }
      (s.ent 0 0).v = true ∧ (s.ent 0 0).lref = 0 ∧ (∀ x, (s.ent 0 x).v = true → (s.ent 0 x).lref = 0 → x = 0) ∧ (s.ent 0 0).st = 3 ∧ (s.ent 0 0).gang = none
      ∧ (s.ws 0 (s.ent 0 0).wpb offFstat).getLsbD 63 = false ∧ (s.core 0).srb = [] ∧ (s.core 0).emark = [] ∧ (s.core 0).loads = []
      ∧ (s.core 0).late = [])
    ∧ (let o := { graph0 with exp := 0, posted := true }; o.over = false ∧ o.last = false ∧ o.fin = o.exp ∧ o.lvl ≠ 2 ∧ o.par ≠ 0x04000000)
    ∧ (let o := { graph0 with lvl := 0, exp := 0 }; o.lvl = 0 ∧ o.fin = o.exp ∧ o.cl = false) := by decide +kernel

/-- The search for a free object finds one when there is one on its way. -/
theorem freeObj_some (s : State) (sl : Nat) (n : Nat) : ∀ (p k : Nat), k < n →
    (let r : ObjRef := BitVec.ofNat 32 (sl * 2 ^ 26 + (p + k) % 2 ^ 26); ((s.obj r).v || r == noObj || !inArea r) = false) → ∃ l, s.freeObj sl n p = some l := by
  induction n with
  | zero => intro p k h; omega
  | succ n ih =>
    intro p k h hk
    simp only [State.freeObj]
    split
    · rename_i h1
      match k with
      | 0 => rw [Nat.add_zero] at hk; rw [hk] at h1; simp at h1
      | k + 1 => exact ih (p + 1) k (by omega) (by rw [show p + 1 + k = p + (k + 1) by omega]; exact hk)
    · exact ⟨_, rfl⟩

/-- A slice takes an object wherever its search begins. -/
theorem newObj_free (s : State) (o : Obj) (h : s.objs = [(2 ^ 26, o)]) : ∃ l, s.newObj 0 = some l := by
  have hp : (Config.objectPlace s.names).toNat < 2 ^ 26 := (Config.objectPlace s.names).isLt
  refine freeObj_some s 0 _ _ ((2 ^ 26 - (Config.objectPlace s.names).toNat) % 2 ^ 26) (Nat.mod_lt _ (by decide)) ?_
  have e : ((Config.objectPlace s.names).toNat + (2 ^ 26 - (Config.objectPlace s.names).toNat) % 2 ^ 26) % 2 ^ 26 = 0 := by omega
  simp only [e]
  simp [State.obj, h, Tab.get, Obj.reset, noObj, inArea]

/-- A launch message of one task for core 0 under the graph. -/
def msg0 : Line := lineOf [0x1002, 0x0001000000000000, 0, 0, 0x0400000000000000, 0xFFFFFFFF, 0, 0]

def launch0 : LaunchReq := ⟨0, 0, msg0, 0, 0, false, .core, 0, 0, none⟩

theorem witness_host_write : (Tab.get Fn.reset ({ s0 with fns := [(1, { Fn.reset with st := 2 })] } : State).fns (32 * (0 : BitVec 1).toNat + (0 : Pid).toNat + 1)).st = 2
    ∧ (Tab.get Fn.reset s0.fns (32 * (0 : BitVec 1).toNat + (0 : Pid).toNat + 1)).st ≠ 2 ∧ field (lineWord msg0 1) 33 3 ≠ (1 : BitVec 3).toNat := by decide +kernel

theorem witness_launch : launch0.issuer = .core ∧ objects.sliceOwner (objects.queueHome 0 0) = some 0 ∧ objects.scrubbing 0 = false
    ∧ objects.msgBad launch0.pid launch0.msg launch0.priv = false ∧ field (lineWord launch0.msg 2) 30 12 = 0
    ∧ (let par : ObjRef := BitVec.ofNat 32 (field (lineWord launch0.msg 4) 32 32)
      par ≠ 0xFFFFFFFF ∧ (objects.obj par).v = true ∧ (objects.obj par).lvl = 1 ∧ (objects.obj par).pid = launch0.pid ∧ (objects.obj par).st = 0)
    ∧ (objects.lq 0 0).msgs.length < 64 ∧ (∃ l, objects.newObj (objects.queueHome launch0.pid 0) = some l) ∧ objects.msgBad 0 0 false = true
    ∧ field (lineWord msg0 1) 33 3 = (0 : BitVec 3).toNat ∧ ∃ l, objects.newObj (objects.kernel 0) = some l := by
  have q : objects.queueHome launch0.pid 0 = 0 := by decide +kernel
  have k : objects.kernel 0 = 0 := by decide +kernel
  rw [q, k]
  exact ⟨by decide +kernel, by decide +kernel, by decide +kernel, by decide +kernel, by decide +kernel, by decide +kernel, by decide +kernel,
    newObj_free _ _ rfl, by decide +kernel, by decide +kernel, newObj_free _ _ rfl⟩

def spawn0 : SpawnReq := ⟨who0, false, lineOf [0x1002, 0x0001000000000000, 0, 0, 0xFFFFFFFF00000000, 0xFFFFFFFF, 0, 0], 0, none⟩

theorem witness_spawn : s0.sliceOwner (objSlice spawn0.who.lref) = some spawn0.who.pid ∧ s0.spawnBad spawn0.who.pid spawn0.msg spawn0.priv = false
    ∧ (s0.obj spawn0.who.lref).exp < 2 ^ 32 - 1 ∧ s0.spawnBad spawn0.who.pid msg0 false = true
    ∧ (s0.core (BitVec.ofNat 11 (msgCore spawn0.msg 0))).part = spawn0.who.pid ∧ s0.heldBack 4 spawn0.who.lref = false
    ∧ s0.roomAt 0 (msgBlocks spawn0.msg) = some (1, 2) ∧ (on0 fun k => { k with avail := false }).roomAt 0 (msgBlocks spawn0.msg) = none := by
  decide +kernel

theorem witness_placement : (let s : State := { objects with lqs := [(0, ⟨[⟨msg0, 5, 0, 0⟩], [], []⟩)] }
    (s.win 0).turn < 8 ∧ (s.placeNext 0 (s.win 0).turn).isSome = true) := by decide +kernel

/-- Entry 0 waits for its counter, which stands at 2. -/
def waiting0 : State := (onEnt fun e => { e with st := 6, trg := 2, dco := 1 }).wr64 (spad 0 8) 2

theorem witness_install : (s0.ent 0 0).inst.bnd = false ∧ (waiting0.core 0).part = 0 ∧ (waiting0.ent 0 0).v = true ∧ (waiting0.ent 0 0).trg = 2
    ∧ (waiting0.ent 0 0).st = 6 ∧ (let a := spad 0 (8 * (waiting0.ent 0 0).dco.toNat)
      (1 : BitVec 32).toNat < field (waiting0.rd64 a) 0 32 ∧ (2 : BitVec 32).toNat = field (waiting0.rd64 a) 0 32)
    ∧ (waiting0.obj (waiting0.ent 0 0).lref).st ≠ 4
    ∧ (let o := waiting0.obj (waiting0.ent 0 0).lref; (waiting0.lq o.pid o.queue.toNat).due.contains ((0 : CoreId).toNat, (0 : Hidx)) = false) := by decide +kernel

def word0 : Packet := packet0 [5]

theorem witness_packet : (chan0.core word0.dst).part = word0.pid ∧ ((chan0.core 0).chan word0.chan).v = true ∧ ((chan0.core 0).chan word0.chan).kind = 0
    ∧ (chan0.core 0).waits word0.chan = false ∧ ((chan0.core 0).chan word0.chan).fill ≤ ((chan0.core 0).chan word0.chan).sm1.toNat
    ∧ ((chan0.core 0).chan word0.chan).bh = false
    ∧ (let e := (chan0.core 0).chan word0.chan; chan0.sealedHit word0.dst (ringSlot e e.wr.toNat) 64 = false)
    ∧ (let s := chan0.modCore 0 fun k => { k with inChan := [word0] }; (s.core 0).waits word0.chan = true) := by decide +kernel

def cancel0 : CancelReq := ⟨0, some .launch, 0, 0, 0, none, true⟩

theorem witness_cancel : cancel0.reply = true ∧ s0.sliceOwner (objSlice cancel0.ref) = some cancel0.pid ∧ (s0.obj cancel0.ref).v = false
    ∧ (let s : State := { s0 with objs := [(0, { Obj.reset with v := true, exp := 1 })] }; (s.obj 0).v = true ∧ (s.obj 0).pid = 0 ∧ (s.obj 0).lvl = 0
      ∧ (s.obj 0).st = 0)
    ∧ (let s : State := { s0 with objs := [(0, { Obj.reset with v := true, st := 3 })] }; (s.obj 0).v = true ∧ (s.obj 0).st = 3)
    ∧ (s0.ent 0 0).v = true ∧ (s0.ent 0 0).lref = 0 ∧ (∀ x, (s0.ent 0 x).v = true → (s0.ent 0 x).lref = 0 → x = 0) ∧ (s0.ent 0 0).st = 0
    ∧ (waiting0.ent 0 0).st = 6 ∧ ((onEnt fun e => { e with st := 1 }).ent 0 0).st = 1 := by decide +kernel

/-- A partition of cores 0 and 1. -/
def wide0 : State := { s0 with slices := [(0, { slice0 with pdesc := [0x8000000000000000, 1, 0, 0, 2 ^ 47, 0, 0, 0, 0, 0, 0, 0] })] }

theorem witness_gform : able wide0 (.g 1) ∧ (wide0.setG 1 1).gangOk (((wide0.setG 1 1).take (.g 1)).1) = true := by
  simp only [able]; decide +kernel

theorem witness_cancel_walk : ∀ q, (objects.lq 0 q).msgs = [] := fun _ => rfl
/-! ## Witnesses: engines at work, barriers and copies -/

def vx0 : VxItem := ⟨0, .vadd ⟨.always, .f32, 1, .v 2, .src (.v 3)⟩, 0, 0, 0, 1, 0x1002, 0, BitVec.allOnes 64, [], 0, false, 0, 0, [], false, [], 0⟩

def vst0 : VxItem := { vx0 with i := .vst vmem0 }

def withVx (x : VxItem) : State := on0 fun k => { k with vxq := [x] }

theorem witness_vx : ((withVx vx0).core 0).vxq = [vx0] ∧ (∀ o, vx0.i ≠ .vst o) ∧ (withVx vx0).gaussRun 0 vx0 = none ∧ vx0.chans = [] ∧ vx0.started = false
    ∧ vst0.i = .vst vmem0 ∧ ((withVx vst0).core 0).vxq = [vst0] ∧ vst0.ws = false ∧ vst0.reqs = [] ∧ vst0.owed = 0
    ∧ { vst0 with reqs := [load0] }.reqs ≠ [] ∧ { vx0 with started := true }.started = true ∧ vxDest vx0.i = some 1
    ∧ ((withVx vx0).ent 0 vx0.hidx).st ≠ 5 :=
  ⟨by decide +kernel, by nofun, by decide +kernel, by decide, by decide, by decide, by decide +kernel, by decide, by decide, by decide, by decide +kernel,
    by decide, by decide, by decide +kernel⟩

theorem witness_gauss : (let x := { vx0 with i := .gres ⟨1, 2⟩, bc := 2432 }
    (match (withVx x).gaussRun 0 x with | some (.ok _) => true | _ => false) = true) := by decide +kernel

def mx0 : MxItem := ⟨1, .mxclr 0, who0, 0, 0, 1, 0x1002, 0, 0, 0, 0, 0, [], false, false, [], [], [], [], 0, [], false, none⟩

def withMx (x : MxItem) : State := on0 fun k => { k with mxq := [x] }

theorem witness_mx : ((withMx mx0).core 0).mxPick false = some mx0 ∧ ((withMx mx0).core 0).mxprog.mv = false
    ∧ (let x := { mx0 with i := .mxmul ⟨.always, 0, 1, 2, 3⟩ }; ((withMx x).core 0).mxPick false = some x ∧ x.await = false ∧ x.nextRow = some (true, 0))
    ∧ (let x := { mx0 with i := .mxmul ⟨.always, 0, 1, 2, 3⟩, arows := [[]], brows := [[]] }; ((withMx x).core 0).mxPick false = some x ∧ x.nextRow = none)
    ∧ (let x := { mx0 with i := .mxmul ⟨.always, 0, 1, 2, 3⟩, await := true }; ((withMx x).core 0).mxPick false = some x)
    ∧ (let x := { mx0 with i := .mxst ⟨.always, .f32, 0, 1, 2, none⟩, started := true }; ((withMx x).core 0).mxPick false = some x ∧ x.reqs = [] ∧ x.owed = 0) := by
  decide +kernel

def command0 : Packet := packet0 [0, 5, 0, 0, 0, 0, 0, 0]

theorem witness_command : command0.pid = (s0.core command0.dst).part ∧ (s0.core 0).cmask.getLsbD 2 = false ∧ (s0.core 0).mxrq.length < 2
    ∧ remInstr command0.ws = some (.mxclr 2) ∧ (s0.core 0).mxs = false ∧ remInstr [1] = none
    ∧ (let y := ((on0 fun k => { k with mxs := true, capmx := 5 }).core 0); y.mxs = true ∧ y.capmx ≠ 0 ∧ command0.ws.getD 1 0 = y.capmx)
    ∧ okay (remCheck (.mxclr 2) command0.ws) = true ∧ ((on0 fun k => { k with cmask := 4 }).core 0).cmask.getLsbD 2 = true := by decide +kernel

theorem witness_message : (let s := on0 fun k => k.setChan 1 { ChanEnt.reset with v := true, kind := 1, base := 0x60, rd := 2 }
    let k : Packet := { packet0 [0, 7] with chan := 1 }
    let e := (s.core k.dst).chan k.chan
    k.pid = (s.core k.dst).part ∧ e.v = true ∧ e.kind = 1 ∧ field (k.ws.headD 0) 58 6 ≤ e.sm1.toNat ∧ field (k.ws.headD 0) 55 3 = 0 ∧ k.eos = false)
    ∧ ((s0.core 0).chan 1).v = false := by decide +kernel

/-- A barrier of two arrivals in the scratchpad of core 0 at byte 0x1000: v, earr 2, arr 0. -/
def bar0 : Line := lineOf [0x8000000200000000, 4, 4, 0, 0, 0, 0, 0]

def barrier0 : State := s0.setMemLine ((2 ^ 53 + 0x1000) / 64) bar0

def arrive0 : ArriveReq := ⟨who0, BitVec.ofNat 56 (2 ^ 53 + 0x1000), 0, 0x1000, 0x1002, none⟩

theorem witness_barrier_arrival : (let a := arrive0.pa.toNat
      paRegion a = 1 ∧ barrier0.paBad a = false ∧ barrier0.isLost a = false ∧ (barrier0.core (BitVec.ofNat 11 (a / 2 ^ 19))).part = arrive0.who.pid
      ∧ barrier0.sealedHit (BitVec.ofNat 11 (a / 2 ^ 19)) (a % 2 ^ 19) 64 = false
      ∧ (barrier0.core (BitVec.ofNat 11 (a / 2 ^ 19))).imageHit none (a % 2 ^ 19) 64 = false ∧ barrier0.poiAt (a / 64) = 0
      ∧ (let d := barrier0.memLine (a / 64); (lineWord d 0).getLsbD 63 = true ∧ field (lineWord d 0) 16 16 + 1 < field (lineWord d 0) 32 16)
      ∧ (lineWord (s0.memLine (a / 64)) 0).getLsbD 63 = false)
    ∧ (∃ a : Nat, barrier0.paBad a = true) ∧ field (lineWord bar0 0) 16 16 < field (lineWord bar0 0) 32 16 := by
  refine ⟨by decide +kernel, ⟨7 * 2 ^ 53, by decide +kernel⟩, by decide +kernel⟩

theorem witness_barrier_turn : (let d := lineOf [0x8000000200010000, 4, 4, 0, 0, 0, 0, 0]
    (lineWord d 0).getLsbD 63 = true ∧ field (lineWord d 0) 32 16 ≤ min (field (lineWord d 0) 16 16 + 1) 65535
    ∧ field (lineWord d 1) 0 48 ≤ field (lineWord d 2) 0 48) := by decide +kernel

theorem witness_wake : (∀ h, (s0.ent 0 h).v = true → (s0.ent 0 h).bar.line ≠ 5) ∧ (∀ h, (s0.ent 0 h).bar.bw = false) ∧ (s0.core 0).cxq ++ (s0.core 0).fifo = []
    ∧ (let s := onEnt fun e => { e with bar := { e.bar with bw := true } }
      (s.ent who0.core who0.hidx).v = true ∧ (s.ent 0 0).bar.bw = true ∧ (s.ent 0 0).lref = who0.lref ∧ (s.ent 0 0).tix = who0.tix) := by decide +kernel

def cxReq0 : CxReq := ⟨64, 0x2000, 0x3000, 0, [], 0, 0, who0, [0, 1], none, none⟩

theorem witness_wake_gate : (let s := on0 fun k => { k with fifo := [{ cxReq0 with gate := some (5, 0) }] }
    (s.core 0).cxq ++ (s.core 0).fifo = [{ cxReq0 with gate := some (5, 0) }] ∧ (0 : BitVec 32) ≠ 1) := by decide +kernel

theorem witness_returned : (owing (some 0)).returnStep 0 ⟨some 0, 1⟩ false ≠ none := by
  have h : ((owing (some 0)).returnStep 0 ⟨some 0, 1⟩ false).isSome = true := by decide +kernel
  intro e; rw [e] at h; cases h

theorem witness_copy_start : (let s := on0 fun k => { k with cxq := [cxReq0] }; (s.core 0).fifo ++ (s.core 0).cxq = [cxReq0] ∧ (s.core 0).xfers.length < 4)
    ∧ cxReq0.gate = none ∧ cxReq0.ord = false ∧ { cxReq0 with gate := some (5, 0) }.gate ≠ none := by decide +kernel

def xfer0 : CxXfer := ⟨cxReq0, 2, false, 0, 0, 0, [], false, [], false, none, false, none, none, [], 0, []⟩

def win0 : AtcEntry := ⟨true, 1, 15, false, 0, false, 0, 0, 0, 2 ^ 41⟩

/-- The unit that moves the 64 bytes, read but not written. -/
def unit0 : CxUnit := ⟨0, 0, 0, 64, win0, [], 0, [], [], none, false, none, []⟩

theorem witness_copy_unit : (let s := on0 fun k => { k with atc := [win0], xfers := [xfer0] }
      (s.core 0).xfer 0 0 = some xfer0 ∧ xfer0.await = none ∧ xfer0.pend.length < 16 ∧ xfer0.stage = 2 ∧ xfer0.stop = false ∧ xfer0.row < xfer0.req.rows
      ∧ xfer0.flight = []
      ∧ (s.engPieces 0 xfer0.req.who.sid rRead (pieces 64 (xfer0.req.srcBytes xfer0.row xfer0.pos (xfer0.req.unitAt xfer0.row xfer0.pos).2))).2 = none
      ∧ (s.core 0).atcFind xfer0.req.who.sid (ptrVa (xfer0.req.dstPtr xfer0.row xfer0.pos)) = some win0 ∧ win0.rts.getLsbD rWrite = true
      ∧ cxRefused 0 xfer0.req win0 (atcPa win0 (ptrVa (xfer0.req.dstPtr xfer0.row xfer0.pos))) = false)
    ∧ (let s := on0 fun k => { k with atc := [win0] }; let x := { xfer0 with stage := 0 }
      (s.core 0).atcFind x.req.who.sid (ptrVa x.req.barPtr) = some win0)
    ∧ { xfer0 with stage := 1 }.req.mode ≠ 5 ∧ { xfer0 with stage := 1 }.req.mode ≠ 6
    ∧ { xfer0 with req := { cxReq0 with w0 := 0x5000000000000040 } }.req.mode = 5 ∧ { xfer0 with row := 1 }.req.rows ≤ 1
    ∧ (let x := { xfer0 with row := 1, flight := [unit0] }; let s := on0 fun k => { k with atc := [win0], xfers := [x] }
      unit0.sent = false ∧ unit0.reqs = [] ∧ unit0.reads = 0 ∧ unit0.bad = none
      ∧ (let w := s.cxWriteReq 0 x.req unit0 []; (s.core 0).hasStep w.buoy = true ∧ s.pathOk 0 (s.pathOf 0 w) = true))
    ∧ { unit0 with sent := true, res := some none }.res = some none ∧ { xfer0 with stop := true }.stop = true := by decide +kernel

theorem witness_copy_post : (let x := { xfer0 with stage := 4, bar := some (2 ^ 53, 0), pend := [64] }; let s := on0 fun k => { k with xfers := [x] }
    let rcv := s.receiver 0 (s.core 0).part (2 ^ 53 : PA).toNat false false
    (s.core 0).xfer 0 0 = some x ∧ x.post = false ∧ (x.pend.take 16).sum ≠ 0 ∧ receiverBuoy (2 ^ 53 : PA).toNat rcv = none
    ∧ s.pathOk 0 ⟨x.req.who.sid, ptrVa x.req.barPtr, rcv, true⟩ = true) := by decide +kernel

theorem witness_copy_complete : (let s := on0 fun k => { k with xfers := [{ xfer0 with stage := 4 }] }
    (s.core 0).xfer 0 0 = some { xfer0 with stage := 4 } ∧ xfer0.post = false ∧ xfer0.unposted = false ∧ xfer0.code = none ∧ cxReq0.cch = 0 ∧ cxReq0.id = 0
    ∧ (∀ h, (s.ent 0 h).copy.cw = false) ∧ (s.ent 0 xfer0.req.hidx).st ≠ 5 ∧ (s.core 0).cxDone 0 = 0
    ∧ ((0 : BitVec 2), (1 : BitVec 32)) ∉ (s.core 0).cxfin ∧ ((0 : BitVec 2), (0 : BitVec 32)) ∉ (s.core 0).cxfin) := by decide +kernel

/-- A decrypt-in at its tag, its source mapped in the scratchpad, under a GCM key. -/
def sealed0 : State :=
  { (on0 fun k => { k with
      atc := [win0]
      xfers := [{ xfer0 with
        stage := 3, flight := [{ unit0 with n := 1 }], req := { cxReq0 with w0 := 0x5000000000000040, blk := [1, 0, 0, 0, 0, 0, 0, 0] } }] }) with
    keys := [(1, ⟨2, 0, 0, .gcm, 0, false⟩)] }

theorem witness_tag : (match (sealed0.core 0).xfer 0 0 with
    | some x =>
      x.flight == [{ unit0 with n := 1 }] && x.await == none && (sealed0.gcmKey (sealed0.core 0).part x.req).isSome && x.stage == 3
    | none => false) = true := by decide +kernel

/-! ## Witnesses: links, host lines, partitions, trust -/

theorem witness_links : (let s : State := { s0 with ports := [(0, ⟨true, 0, some 1, 0, 0, 0, 15, 0⟩)] }
      (s.port (0 : BitVec 5).toNat).up = true ∧ (s.port 0).key = some 1 ∧ (s.port 0).bad = 15 ∧ (s.port 0).tx.toNat + 1 < 2 ^ 63
      ∧ (s.port 0).rx.toNat + 1 < 2 ^ 63 ∧ (s.port 0).bad < 16)
    ∧ (s0.fn ⟨0, 0⟩).st = 0 ∧ (s0.fn ⟨0, 0⟩).drain = false
    ∧ (let s : State := { s0 with fns := [(0, { Fn.reset with st := 1, drain := true })] }; (s.fn ⟨0, 0⟩).st = 1 ∧ (s.fn ⟨0, 0⟩).drain = true)
    ∧ (let s : State := { s0 with fns := [(0, { Fn.reset with st := 2, tx := ⟨some 1, none, false, 0⟩, rx := ⟨some 1, none, true, 1024⟩ })] }
      (s.fn ⟨0, 0⟩).st = 2 ∧ ((s.fn ⟨0, 0⟩).tx.bank (s.fn ⟨0, 0⟩).tx.sel).isSome = true ∧ (s.fn ⟨0, 0⟩).rx.count = 1024)
    ∧ s0.fills = [] ∧ field (0x1000 : Word) 12 4 ≠ 0 := by decide +kernel

/-- A router with four packets before its core. -/
def crowded : State := on0 fun k => { k with inChan := [packet0 [1], packet0 [1], packet0 [1], packet0 [1]] }

def mc0 : McPacket := ⟨packet0 [5], ⟨0, 0, 0, 0⟩, true, []⟩

theorem witness_multicast : (s0.core 0).inChan.length < 4 ∧ 4 ≤ (crowded.core 0).inChan.length ∧ mc0.own = true ∧ mc0.next = []
    ∧ (s0.core 0).retry = [] ∧ s0.firstBlocked 0 0 = none
    ∧ ((on0 fun k => { k with retry := [packet0 [5]] }).core 0).retry = [packet0 [5]] ∧ (s0.core (packet0 [5]).dst).inChan.length < 4
    ∧ (let s := { crowded with net := [.multicastReplicate 0 0 mc0] }
      s.firstBlocked 0 0 = some mc0 ∧ (s.core 0).retry = [] ∧ (mcOwed 0 mc0).length = 1
      ∧ ∀ n ∈ mcOwed 0 mc0, 4 ≤ (s.core (BitVec.ofNat 11 n)).inChan.length) := by
  decide +kernel

theorem witness_bank_op : (let s : State := { s0 with
      bops := [((0, 0, 0), lineOf [0x0000080000000000, 0x1000])], fns := [(1, { Fn.reset with st := 2 })] }
    s.bops = [((0, 0, 0), lineOf [0x0000080000000000, 0x1000])] ∧ s.sliceOwner (0 : SliceId).toNat = some 0
    ∧ (Tab.get Fn.reset s.fns (32 * (0 : BitVec 1).toNat + (0 : Pid).toNat + 1)).st = 2
    ∧ (bankOpReq 0 0 0 (lineOf [0x0000080000000000, 0x1000]) 0).isSome = true) := by decide +kernel

/-- A slice that counts frame 2^43 of the host, which is to move in. -/
def frame0 (m : Migr) : State := s0.modSlice 0 fun k => { k with migr := [(2 ^ 43, m)], area := [0x100], migOn := true }

/-- A load of a line of the host, which waits for its grant. -/
def hostLoad : MemReq := { load0 with pa := BitVec.ofNat 56 (64 * 2 ^ 49) }

theorem witness_frames : (let m : Migr := ⟨256, 0, true, none, [], 0⟩
      Tab.find ((frame0 m).slice (0 : SliceId).toNat).migr (2 ^ 43 : BitVec 44).toNat = some m ∧ ((frame0 m).slice 0).area = [0x100] ∧ (0x100 : Nat) < 2 ^ 41
        ∧ ¬(256 ≤ m.h ∧ 4 * m.d < m.h))
    ∧ (let m : Migr := ⟨256, 0, false, none, [], 0⟩; ((frame0 m).slice 0).migOn = true ∧ 256 ≤ m.d ∧ 4 * m.h < m.d
      ∧ ((frame0 m).slice 0).migr.countP (fun x => x.2.move && x.2.area.isNone) < ((frame0 m).slice 0).area.length)
    ∧ (let m : Migr := ⟨0, 256, true, some 0x200, [2 ^ 49], 0⟩
      Tab.find ((frame0 m).slice (0 : SliceId).toNat).migr (2 ^ 43 : BitVec 44).toNat = some m ∧ paRegion (4096 * 2 ^ 43) = 4
        ∧ (frame0 m).torn (((frame0 m).sliceOwner 0).getD 0) (4096 * 2 ^ 43) = false ∧ ¬(256 ≤ m.d ∧ 4 * m.h < m.d))
    ∧ (let ln : Nat := 2 ^ 49
      let pl := placeOf 0 ln
      let s : State := { s0 with fills := [(pl, [.bankRequest hostLoad])] }
      Tab.find s.fills pl = some [.bankRequest hostLoad] ∧ paRegion (64 * ln) = 4 ∧ s.moving 0 ln = none ∧ s.cached pl = none
      ∧ (s.bankFacts (.bankRequest hostLoad)).map s.placeFor = some pl ∧ (Tab.get Fn.reset s.fns (fnAt 0 (64 * ln))).gen = 0)
    ∧ (let m : Migr := ⟨256, 0, true, none, [2 ^ 49], 0⟩
      (frame0 m).moving 0 (2 ^ 49) = some m ∧ (frame0 m).cached (placeOf 0 (2 ^ 49)) = none ∧ (frame0 m).sliceOwner 0 = some 0)
    ∧ s0.heldFor (2 ^ 49) = [] ∧ (let m : Migr := ⟨0, 0, false, some 0x100, [], 0⟩; (frame0 m).heldFor (2 ^ 49) = [(0, 0x100, m)]) := by decide +kernel

theorem witness_lost_links : State.reset.lines = [] ∧ State.reset.wbq = [] ∧ State.reset.fills = [] ∧ State.reset.slices = [] ∧ State.reset.quar = []
    ∧ acrossLink (.host 0) (2 ^ 49) = true ∧ { line0 with ln := 2 ^ 49, dirty := true }.dirty = true ∧ line0.copy = false
    ∧ LinkId.host 0 ∈ ({ s0 with downs := [.host 0] } : State).downs ∧ (s0.port (0 : BitVec 5).toNat).key = none
    ∧ (({ s0 with ports := [(0, ⟨false, 0, some 1, 0, 0, 0, 0, 0⟩)] } : State).port (0 : BitVec 5).toNat).key ≠ none := by decide +kernel

theorem witness_swap : (∃ c ∈ (wide0.partCores 0), wide0.coreDrained c = false)
    ∧ (∀ c ∈ ({ State.reset with slices := [(0, slice0)] } : State).partCores 0, ({ State.reset with slices := [(0, slice0)] } : State).coreDrained c = true)
    ∧ Tab.find s0.shadow (0 : Pid).toNat = none ∧ (s0.core 0).avail = true ∧ ((on0 fun k => { k with avail := false }).core 0).avail = false
    ∧ State.reset.coreDrained (0 : CoreId).toNat = true ∧ s0.coreDrained (0 : CoreId).toNat = false ∧ (∀ h, (State.reset.ent 0 h).v = false) :=
  ⟨⟨0, by decide +kernel, by decide +kernel⟩, by decide +kernel, by decide +kernel, by decide +kernel, by decide +kernel, by decide +kernel, by decide +kernel,
    by decide +kernel⟩

theorem witness_restore : (let i : Image := ⟨0, [], [], [], [], [], [], [], [], [], []⟩
    Tab.find ({ s0 with shadow := [(0, i)] } : State).shadow (0 : Pid).toNat = some i ∧ i.cores = []) := by decide +kernel

theorem witness_descriptor : (let d := slice0.pdesc
    pdescOk d = true ∧ State.reset.descMeets (0 : SliceId).toNat d = false ∧ State.reset.descBusy d = false
    ∧ State.reset.descBusy (State.reset.slice (0 : SliceId).toNat).pdesc = false ∧ inForce ((0 : SliceId).toNat, { Slice.reset with pdesc := d }) = true
    ∧ descCore d 0 = true ∧ pdescOk [4] = false ∧ (0x8000000000000000 : Word).getLsbD 63 = true ∧ shapeOk 0x8000000000000000 = false
    ∧ ∀ x ∈ State.reset.cores, ∀ e ∈ x.2.ents, e.2.v = false) := by decide +kernel

theorem witness_stitch : (let w : Word := 0x8000021000000000
    let s : State := { State.reset with slices := [(0, { slice0 with pdesc := [0x8000000000000000, 1, 0, 0, 2 ^ 47 + 2 ^ 42, 0, 0, 0, 0, 0, 0, 0] })] }
    shapeOk w = true ∧ (∀ c, c < 2048 → rectHas (stitchRect w) c = true → descCore (s.slice 0).pdesc c = true) ∧ (s.slice 0).stitch = []
      ∧ s.cores = []) := by decide +kernel

theorem witness_trust : (let s : State := { State.reset with fns := [(1, { Fn.reset with sess := some 1 })] }
      (Tab.get Fn.reset s.fns ((0 : Pid).toNat + 1)).sess.isSome = true ∧ (s.keySlot (0 : BitVec 6).toNat).state = 0)
    ∧ (Tab.get Fn.reset s0.fns ((0 : Pid).toNat + 1)).sess.isSome = false ∧ (Tab.get Fn.reset s0.fns (32 + (0 : Pid).toNat + 1)).sess.isSome = false ∧ (∀ x ∈ State.reset.slices, inForce x = false)
    ∧ (let k : Slice := { Slice.reset with logctl := [(0, 0x8000000000000000), (1, 1)] }
      (Tab.get 0 k.logctl 0).getLsbD 63 = true ∧ k.anchor = false ∧ field (Tab.get 0 k.logctl 3) 32 32 = 0 ∧ logFull k = false
      ∧ 1 ≤ field (Tab.get 0 k.logctl 1) 0 17 ∧ field (Tab.get 0 k.logctl 1) 0 17 ≤ 65536)
    ∧ (∀ x ∈ (s0.slice (s0.kernel 0)).totals, x.2.1.1 = 0 ∧ x.2.2.1 = 0)
    ∧ s0.fwmin.toNat ≤ (1 : BitVec 32).toNat ∧ s0.fwnext = none ∧ ({ s0 with fwnext := some 1 } : State).fwnext = some 1 := by decide +kernel

/-! ## Witnesses: the step -/

theorem witness_step_core : s0.hot = false ∧ s0.move = (.core 0, []) ∧ s0.me.run = some 0 ∧ s0.me.line = some threeHeads
    ∧ (let s := on0 fun k => { k with run := none }; s.move = (.core 0, []) ∧ s.me.run = none)
    ∧ (let s := on0 fun k => { k with line := none }; s.move = (.core 0, []) ∧ s.me.run = some 0 ∧ s.me.line = none ∧ s.myEnt.g = false)
    ∧ headAt threeHeads 0x1002 = none ∧ headAt (lineOfHead 0xEC00) 0x1002 = some .nop := by decide +kernel

theorem witness_step_gang : (let s := formed0.modCore 1 fun k => { k with run := some 0 }
      (match s.myEnt.gang with | some x => x.formed && s.gangReady | none => false) = true)
    ∧ (let s := formed0.modCore 1 fun k => { k with run := some 0, line := some (lineOfHead 0xEC00), pc := 0x1002 }
      let u := { (s.modEnt 1 0 fun e => { e with gang := e.gang.map fun g => { g with todo := some 0x1002 } }) with cur := 1 }
      u.me.run = some 0 ∧ u.myEnt.g = true ∧ (u.myEnt.gang.bind (·.todo)) = some 0x1002
      ∧ (∀ m ∈ u.gangMembers 1 0, m.1 < 1 → ((u.ent m.2.1 m.2.2).gang.bind (·.todo)) = none) ∧ headAt (lineOfHead 0xEC00) u.me.pc = some .nop) := by
  decide +kernel

theorem witness_step_event : (let s : State := { s0 with net := [.placement 0] }
      s.move = (.event 0, []) ∧ s.net[0]? = some (.placement 0) ∧ urgent (.placement 0) = false ∧ s.back.length = 0)
    ∧ (let s : State := { s0 with back := [.bankRequest load0] }; s.move = (.event 0, []) ∧ s.back[0]? = some (.bankRequest load0))
    ∧ (let s := s0.modSlice 0 fun k => { k with svc := [0x0220400B] }
      s.move = (.service 0, []) ∧ (s.slice 0).svc = [0x0220400B] ∧ (s.slice 0).reload = false ∧ decodeService 0x0220400B ≠ none)
    ∧ (let s : State := { s0 with net := [.reset], hot := true }; s.hot = true ∧ s.net.findIdx? (· == .reset) = some 0 ∧ Event.reset ∉ s.back)
    ∧ Event.reset ∉ s0.queue := by decide +kernel

/-- The task is about to enter its line. -/
def entering : State := code0.modCore 0 fun k => { k with line := none, edge := .enter, pc := 0x1042 }

theorem entering_checks : ∀ x ∈ entering.me.ro, x.chk = lineCheck x.data ∧ x.poi = 0 := code0_checks

theorem witness_enter : entering.me.run = some 0 ∧ entering.me.edge = .enter ∧ entering.me.stop = false ∧ entering.myEnt.g = false
    ∧ entering.gangReady = true ∧ entering.me.hold = none ∧ entering.me.ahead = none ∧ entering.lineEnd = .goes entering
    ∧ (∃ x, entering.fetch (pcLine entering.me.pc) = .ok x)
    ∧ (let s := entering.modCore 0 fun k => { k with ahead := some 0x1800 }
      s.me.ahead = some 0x1800 ∧ lineOk 0x1800 = true ∧ s.me.pc.toNat % 2 = 0 ∧ pcIdx s.me.pc ≠ 0 ∧ pcIdx s.me.pc ≤ headCount 0x1800 ∧ lineOk 0 = false
        ∧ (0x1043 : VA).toNat % 2 ≠ 0)
    ∧ (let a := atcPa win0 (pcLine entering.me.pc).toNat
      entering.me.atcFind entering.myEnt.sid (pcLine entering.me.pc).toNat = some win0 ∧ win0.rts.getLsbD rExec = true
      ∧ (∀ y, receiverBuoy a (entering.receiver entering.cur entering.me.part a true win0.det) = some y → 0 < (entering.me.buoy y).val)
      ∧ okay (entering.pathFree (pcLine entering.me.pc).toNat (entering.receiver entering.cur entering.me.part a true win0.det) false) = true)
    ∧ entering.mode entering.me.part 1 = false
    ∧ (let s := entering.modCore 0 fun k => { k with ro := [], hold := some ⟨9, [5], none⟩ }
      s.me.ro = [] ∧ (s.core 0).run = some 0 ∧ (s.core 0).hold = some ⟨9, [BitVec.ofNat 64 5], none⟩) :=
  ⟨by decide +kernel, by decide +kernel, by decide +kernel, by decide +kernel, by decide +kernel, by decide +kernel, by decide +kernel, by rfl,
    fetch_hit (e := win0) (ok_of_gives (by decide +kernel)) (by decide +kernel) (by decide +kernel) entering_checks, by decide +kernel, by decide +kernel,
    by decide +kernel, by decide +kernel⟩

theorem witness_encode : (Instr.add ⟨.always, .i64, 5, .g 5, .src (.c 0 1)⟩).wf = true
    ∧ (encode (.add ⟨.always, .i64, 5, .g 5, .src (.c 0 1)⟩)).isSome = true ∧ (5 : BitVec 3).toNat ≤ 5 ∧ encode .reset = none := by decide +kernel

theorem witness_memory : memOk s0 ∧ ∃ t, step s0 = .next t := by
  constructor
  · unfold memOk; decide +kernel
  · exact exists_of_goes (by decide +kernel)

theorem witness_numbers : Fmt.f16.decode 0x3C00 ≠ .nan ∧ Fmt.f16.decode 0x7E00 = .nan ∧ 0x7E00 < 2 ^ Fmt.f16.width ∧ (1 : GReg) ≠ 0 := by decide +kernel

theorem witness_image : (7 : Nat) < 8 ∧ 8 * 41 + 7 < imageBytes ∧ 8 * 303 + 7 < imageBytes := by decide
/-! ## Witnesses: what the engines do -/

/-- A VX head at the front that takes a slot of a stream. -/
def streamed (n : Nat) : State := (withVx { vx0 with i := .vadd ⟨.always, .f32, 1, .v 2, .src (.c 0 1)⟩, chans := [(0, 1, 1)] }).modCore 0 fun k =>
  k.setChan 1 { ChanEnt.reset with v := true, kind := 2, base := 0x60, sm1 := 3, fill := n }

theorem witness_vx_stream : (let e := ((streamed 1).core 0).chan 1
      e.v = true ∧ e.kind = 2 ∧ max 1 (1 : BitVec 4).toNat ≤ e.fill ∧ (streamed 1).sealedHit 0 (ringSlot e e.rd.toNat) 64 = false)
    ∧ ¬max 1 (1 : BitVec 4).toNat ≤ (((streamed 0).core 0).chan 1).fill
    ∧ (match ((streamed 1).core 0).vxq with | [x] => x.chans.length == 1 && ((streamed 1).gaussRun 0 x).isNone && !x.started | _ => false) = true
    ∧ ((withVx { vx0 with i := .vcmpLt ⟨.always, .f32, 1, .v 2, .src (.v 3)⟩, started := true }).ent 0 0).st ≠ 5
    ∧ (VredOp.mk .always .f32 6 3).a ≠ 0 := by decide +kernel

def mxmul0 : MxItem := { mx0 with i := .mxmul ⟨.always, 0, 1, 2, 3⟩, pa := 0x6000000000001000, pb := 0x6000000000002000 }

def mxst1 : MxItem := { mx0 with i := .mxst ⟨.always, .f32, 0, 1, 3, none⟩, pa := 0x7000000000001000, sw := 0x100000001 }

/-- The head of MX with a page of the scratchpad in the ATC. -/
def mapped (x : MxItem) (rts : BitVec 4) : State := (withMx x).modCore 0 fun k => { k with atc := [{ win0 with rts := rts }] }

/-- The pieces of the bytes that a row or a store needs. -/
def looked (s : State) (x : MxItem) : List (Piece × AtcEntry) × Option (Nat × Option Code) :=
  match x.nextRow with
  | some r =>
    let p := (x.row r).1
    let w := spanBytes (ptrFmt p) (ptrBlog p) (rowVa p (x.row r).2.1 (x.row r).2.2).1 (rowVa p (x.row r).2.1 (x.row r).2.2).2
    s.engPieces 0 x.who.sid rRead (pieces 64 ((List.range (w.2 + 1 - w.1).toNat).map (w.1.toNat + ·)))
  | none => ([], none)

def lookedSt (s : State) (x : MxItem) : List (Piece × AtcEntry) × Option (Nat × Option Code) :=
  s.engPieces 0 x.who.sid rWrite (pieces 64 ((mxstBytes (s.core 0) ((s.core 0).acc 0) .f32 false x.pa x.sw x.st.toInt).map (·.1)))

theorem witness_mx_row : (let s := mapped mxmul0 15
      (s.core 0).mxPick false = some mxmul0 ∧ mxmul0.nextRow = some (true, 0) ∧ mxmul0.fault = none ∧ (looked s mxmul0).2 = none ∧ (looked s mxmul0).1 ≠ [])
    ∧ (looked (withMx mxmul0) mxmul0).2 = some (0x1000, none) ∧ { mxmul0 with started := true }.reqs = [] ∧ { mxmul0 with started := true }.owed = 0
    ∧ { mxmul0 with started := true, reqs := [load0] }.reqs ≠ [] := by decide +kernel

theorem witness_mx_store : (let s := mapped mxst1 15
      (s.core 0).mxPick false = some mxst1 ∧ mxst1.await = false ∧ mxst1.fault = none ∧ (lookedSt s mxst1).2 = none)
    ∧ enabled mxst1.sw ≠ [] ∧ enabled { mxst1 with sw := 0 }.sw = []
    ∧ (lookedSt (mapped mxst1 2) mxst1).2 = some (0x1000, some cNoRight) ∧ (lookedSt (withMx mxst1) mxst1).2 = some (0x1000, none) := by decide +kernel

/-- An MXMUL that MXPROG keeps for entry 0. -/
def kept0 : State := (withMx { mx0 with i := .mxrsm 0 }).modCore 0 fun k =>
  { k.setAcc 0 { k.acc 0 with own := .task 0 } with mxprog := { k.mxprog with mv := true, item := some { mxmul0 with id := 7 } } }

theorem witness_mx_kept : (kept0.core 0).mxPick false = some { mx0 with i := .mxrsm 0 } ∧ (kept0.core 0).mxprog.item = some { mxmul0 with id := 7 }
    ∧ (kept0.core 0).mxprog.mv = true ∧ (kept0.core 0).mxprog.acc = 0 ∧ ((kept0.core 0).acc (kept0.core 0).mxprog.acc).own = .task 0
    ∧ ((kept0.modCore 0 fun k => { k with mxq := [mx0] }).core 0).mxPick false = some mx0 := by decide +kernel

theorem witness_commands : (∃ (code : Code) (d : BitVec 32) (a : Word), remCheck (.mxmul ⟨.always, 2, 0, 0, 0⟩) [0, 5, 0, 0, 0, 0, 0, 0] = .error (.fault code d a))
    ∧ { command0 with pid := 1 }.pid ≠ (s0.core command0.dst).part ∧ 2 ≤ ((on0 fun k => { k with mxrq := [mx0, mx0] }).core 0).mxrq.length
    ∧ command0.ws.getD 1 0 ≠ ((on0 fun k => { k with mxs := true, capmx := 6 }).core 0).capmx :=
  ⟨⟨_, _, _, rfl⟩, by decide +kernel⟩

/-- A mailbox of one slot, of two variables, and a part of a message for it. -/
def mail0 (stage : Tab Nat) : State := on0 fun k => k.setChan 1 { ChanEnt.reset with v := true, kind := 1, base := 0x60, rd := 2, stage := stage }

def part0 (n : Nat) (eos : Bool) : Packet := { packet0 [BitVec.ofNat 64 (n * 2 ^ 55), 2] with chan := 1, eos := eos }

theorem witness_parts : (let s := mail0 []; let k := part0 0 true
      let e := (s.core k.dst).chan k.chan
      let at_ := mailSlot e (field (k.ws.headD 0) 58 6)
      k.pid = (s.core k.dst).part ∧ e.v = true ∧ e.kind = 1 ∧ field (k.ws.headD 0) 58 6 ≤ e.sm1.toNat ∧ field (k.ws.headD 0) 55 3 = 0
        ∧ s.shut k.dst (at_ + mailHalf e) (min (8 * (k.ws.length - 1)) (mailHalf e)) = false ∧ s.shut k.dst at_ (mailStride e.rd.toNat) = false
        ∧ (let u := s.putWords k.dst (at_ + mailHalf e) (mailHalf e) (k.ws.drop 1)
          field (u.rd64 (spad k.dst (at_ + mailHalf e))) 0 4 = e.rd.toNat))
    ∧ (let s := mail0 []; let k := part0 1 false; let e := (s.core k.dst).chan k.chan
      field (k.ws.headD 0) 55 3 ≠ 0 ∧ Tab.find e.stage (field (k.ws.headD 0) 58 6) ≠ some (field (k.ws.headD 0) 55 3 - 1))
    ∧ (let s := mail0 [(0, 0)]; let k := part0 1 false; let e := (s.core k.dst).chan k.chan
      Tab.find e.stage (field (k.ws.headD 0) 58 6) = some (field (k.ws.headD 0) 55 3 - 1)) := by decide +kernel

/-! ### What they compute -/

theorem witness_tiles : (Acc.cleared .none).elems.length = 1024 ∧ (Acc.cleared .none).unset = true
    ∧ (let x : Acc := { Acc.cleared .none with unset := false, e := 0 }; x.unset = false ∧ -32768 ≤ x.e.toInt ∧ x.e.toInt + 4 < 32768)
    ∧ ((0x100000001 : Word).getLsbD 0 = true ∧ (0x100000001 : Word).getLsbD 32 = true)
    ∧ ptrBlog (0x7000000000001000 : Word) = 0 ∧ 0 ≤ mxstVa .f32 0x7000000000001000 32 0 0 ∧ ptrBlog (0xC300000000000000 : Word) ≠ 0
    ∧ 2 ^ ptrBlog (0xC300000000000000 : Word) ≤ 32 ∧ Val.nan ∉ [Val.zero] ∧ Val.nan ∈ [Val.nan]
    ∧ (let x := { mx0 with i := .rstat ⟨0, 0⟩ }; ((withMx x).core 0).mxPick false = some x) := by decide +kernel

/-! ## Witnesses: barriers, copies, links, partitions -/

/-- The barrier of two arrivals in a line that its bank holds. -/
def bankBar (d : Line) : State := { s0 with lines := [{ line0 with data := d, chk := lineCheck d }] }

def bankArrive : ArriveReq := { arrive0 with pa := 0x1000 }

theorem witness_bank_barrier : (let s := bankBar bar0; let a := bankArrive.pa.toNat
      paRegion a = 0 ∧ s.paBad a = false ∧ s.isLost a = false ∧ s.sliceOwner (s.lineSlice 0 a) = some bankArrive.who.pid ∧ s.keyOk bankArrive.key 0 = true
      ∧ ((s.bankFacts (.barrierArrive bankArrive)).bind fun f => s.cached (s.placeFor f)).isSome = true
      ∧ line0.key = bankArrive.key ∧ line0.poi = 0 ∧ line0.shar = 0 ∧ s.fills = [] ∧ s.invw = [])
    ∧ (barUpdate bar0 (some 0) 0).isSome = true
    ∧ ((barUpdate (lineOf [0x8000000200010000, 4, 4, 0, 0, 0, 0, 0]) (some 0) 0).map (·.adv)) = some true := by decide +kernel

theorem witness_arrival_fault : (let s := onEnt fun e => { e with bar := { e.bar with bw := true } }
      (s.ent 0 0).v = true ∧ (s.ent 0 0).bar.bw = true ∧ (s.ent 0 0).lref = who0.lref ∧ (s.ent 0 0).tix = who0.tix) ∧ (s0.ent 0 0).bar.bw = false
    ∧ ((owing (some 0)).returnStep 0 ⟨some 0, 1⟩ ((owing (some 0)).peerMarked 0 ⟨some 0, 1⟩)).isSome = true := by decide +kernel

def shortCopy (x : CxXfer) : State := on0 fun k => { k with atc := [win0], xfers := [x] }

/-- A destination that is not there, one that is lost, and one in HBM under an empty key. -/
def hbm0 : AtcEntry := { win0 with ppn := 0 }

theorem witness_unit_refused : cxRefused 0 cxReq0 { win0 with rts := 0 } 0 = true ∨ cxRefused 0 cxReq0 win0 (atcPa win0 0x1000) = true
    ∨ s0.paBad (7 * 2 ^ 53) = true := by
  exact Or.inr (Or.inr (by decide +kernel))

theorem witness_unit_key : (let s : State := { s0 with keys := [] }
      s.paBad 0x3000 = false ∧ s.isLost 0x3000 = false ∧ paRegion 0x3000 = 0 ∧ s.keyOk hbm0.key 0 = false)
    ∧ s0.keyOk hbm0.key 0 = true ∧ s0.paBad 0x3000 = false
    ∧ { s0 with lost := [2 ^ 43] }.isLost (2 ^ 55) = true ∧ s0.paBad (2 ^ 55) = false := by decide +kernel

theorem witness_gcm_unit : (let q : CxReq := { cxReq0 with w0 := 0x5000000000000040, blk := [1, 0, 0, 0, 0, 0, 0, 0] }
      let x : CxXfer := { xfer0 with row := 1, flight := [unit0], req := q }
      q.mode = 5 ∧ q.rows ≤ x.row ∧ (sealed0.gcmKey (sealed0.core 0).part q).isSome = true ∧ x.nokey = false ∧ { x with nokey := true }.nokey = true
        ∧ unit0.sent = false ∧ unit0.reqs = [] ∧ unit0.reads = 0 ∧ unit0.bad = none ∧ x.pend.length < 16)
    ∧ s0.gcmKey 0 { cxReq0 with w0 := 0x5000000000000040, blk := [1] } = none := by decide +kernel

theorem witness_copy_record : (let s := shortCopy { xfer0 with stage := 4, code := some (cPoison, 0x2000) }
      (s.core 0).xfer 0 0 = some { xfer0 with stage := 4, code := some (cPoison, 0x2000) } ∧ (s.ent 0 0).v = true ∧ (s.ent 0 0).st ≠ 5
        ∧ (s.core 0).cxerr.length < 4)
    ∧ (let s := (on0 fun k => { k with xfers := [{ xfer0 with stage := 4 }] }).modEnt 0 0 fun e => { e with st := 3, copy := ⟨true, 0, 0⟩ }
      (s.ent 0 0).copy.cw = true ∧ (s.ent 0 0).copy.cch = 0 ∧ (s.ent 0 0).copy.id = 0 ∧ (s.ent 0 0).st = 3 ∧ (s.core 0).cxDone 0 = 0
        ∧ ((0 : BitVec 2), (1 : BitVec 32)) ∉ (s.core 0).cxfin)
    ∧ ((on0 fun k => { k with cxdone := [(0, 5)] }).core 0).cxDone 0 ≠ 0 ∧ cxReq0.bad = none ∧ { cxReq0 with bad := some 3 }.bad = some 3
    ∧ 4 ≤ (List.replicate 4 xfer0).length := by decide +kernel

theorem witness_port_limits : (let p : Port := ⟨true, 0, some 1, 0, 0x7FFFFFFFFFFFFFFF, 0x7FFFFFFFFFFFFFFF, 0, 0⟩
      p.tx.toNat + 1 = 2 ^ 63 ∧ p.rx.toNat + 1 = 2 ^ 63)
    ∧ (let p : Port := ⟨true, 0, some 1, 0, 0, 0, 15, 0⟩; p.bad = 15 ∧ slotTag 1 (slotIv p p.rx) [] ≠ [] ∧ slotTag 1 (slotIv p p.rx) [] = slotTag 1 (slotIv p p.rx) [])
    ∧ (s0.port (0 : Fin 24).toNat).up = false
    ∧ (let s : State := { s0 with fns := [(0, { Fn.reset with sess := some 1 })] }
      (Tab.get Fn.reset s.fns 0).sess.isSome = true ∧ (s.fn ⟨0, 0⟩).sess ≠ none)
    ∧ (s0.fn ⟨0, 0⟩).sess = none ∧ (Tab.get Fn.reset s0.fns 0).sess.isSome = false ∧ (Tab.get Fn.reset s0.fns 32).sess.isSome = false := by decide +kernel

theorem witness_ide : (let d : IdeDir := ⟨some 1, some 2, false, 1⟩; d.count = 1 ∧ (d.bank d.sel).isSome = true ∧ (d.bank true).isSome = true)
    ∧ (let d : IdeDir := ⟨some 1, none, false, 1023⟩; d.count = 1023 ∧ (d.bank true).isNone = true)
    ∧ (IdeDir.mk none none false 0).count ≠ 1 ∧ (IdeDir.mk none none false 1024).count = 1024 := by decide +kernel

theorem witness_teardown : (let r := hostLoad; let s : State := { s0 with fills := [(placeOf 0 (2 ^ 49), [.bankRequest r])] }
      s.fills = [(placeOf 0 (2 ^ 49), [.bankRequest r])] ∧ paRegion (64 * placeLine (placeOf 0 (2 ^ 49))) = 4
        ∧ (s.through ⟨0, 1⟩ (.bankRequest r) = true ∨ s.through ⟨0, 1⟩ (.bankRequest r) = false))
    ∧ s0.fills = [] := by decide +kernel

theorem witness_key_ex : (FnId.mk 0 0).n = 0 ∧ (let f := FnId.mk 0 1; f.n.toNat ≤ 16 ∧ s0.pdesc (BitVec.ofNat 4 (f.n.toNat - 1)) ≠ none)
    ∧ (let f := FnId.mk 0 9; ¬(f.n = 0 ∨ f.n.toNat ≤ 16 ∧ s0.pdesc (BitVec.ofNat 4 (f.n.toNat - 1)) ≠ none)) ∧ (0x11 : Byte) ≠ 0x12 ∧ (0x11 : Byte) ≠ 0x13 := by
  decide +kernel

theorem witness_header : (let w : Word := 0x1000; field w 12 4 ≠ 0)
    ∧ (let w : Word := 0; field w 12 4 = 0 ∧ w.getLsbD 49 = false ∧ w.getLsbD 27 = false ∧ ∃ x ∈ s0.cores, x.2.dev.toNat = field w 54 10) := by
  refine ⟨by decide +kernel, by decide +kernel, by decide +kernel, by decide +kernel, ⟨_, List.mem_singleton.mpr rfl, by decide +kernel⟩⟩

theorem witness_snoop : (let x : CLine := { line0 with ln := 2 ^ 49, dirty := true }; let s : State := { s0 with lines := [x] }
      (s.lines.filter fun x => x.ln == 2 ^ 49 && !x.copy && x.dirty) = [x] ∧ s.heldFor (2 ^ 49) = [] ∧ ∀ y ∈ s.wbq, y.ln ≠ 2 ^ 49) := by decide +kernel

theorem witness_loss : (let x : CLine := { line0 with ln := 2 ^ 49, dirty := true }; let s : State := { s0 with lines := [x], wbq := [{ x with sl := 1 }] }
      (∀ x ∈ s.lines, x.dirty = true ∧ acrossLink (.host 0) x.ln = true) ∧ (∀ x ∈ s.wbq, acrossLink (.host 0) x.ln = true)
        ∧ ((s.lossList (.host 0)).map fun y => placeOf y.sl y.ln).Nodup ∧ ((s.lossList (.host 0)).map (·.at_)).Nodup
        ∧ (s.slice 0).tail - (s.slice 0).head < 256)
    ∧ (let s : State := { s0 with downs := [.host 0], quar := [(placeOf 0 (2 ^ 49), 7)] }
      s.quar = [(placeOf 0 (2 ^ 49), 7)] ∧ acrossLink (.host 0) (placeLine (placeOf 0 (2 ^ 49))) = true ∧ s.kernelQuar (placeOf 0 (2 ^ 49)) = false
        ∧ LinkId.host 0 ∈ s.downs)
    ∧ LinkId.host 0 ∉ s0.downs := by decide +kernel

theorem witness_restored : (let i : Image := ⟨0, [], [(0, { core0 with stop := true })], [], [], [], [], [], [], [], []⟩
    let s : State := { State.reset with slices := [(0, slice0)], shadow := [(0, i)] }
    Tab.find s.shadow (0 : Pid).toNat = some i ∧ (i.cores.map (·.1)).Nodup ∧ (∀ x ∈ i.cores, x.1 < 2048 ∧ s.inPart 0 x.1 = true)
      ∧ (∀ x ∈ i.cores, ∀ h, (x.2.ent h).v = true → (x.2.ent h).wpb.toNat + (x.2.ent h).nblk ≤ (s.core (BitVec.ofNat 11 x.1)).sblk.toNat)
      ∧ (∀ x ∈ i.cores, ∀ h, (x.2.ent h).v = true → (x.2.ent h).st ≠ 2) ∧ (i.recs.map (·.1)).Nodup ∧ (i.objs.map (·.1)).Nodup
      ∧ (i.lqs.map (·.1)).Nodup ∧ (i.rings.map (·.1)).Nodup ∧ Mem.wf i.cells = true) := by decide +kernel

theorem witness_relocate : (let s := (onEnt fun e => { e with st := 1 }).modCore 0 fun k => { k with run := none }
      let s : State := { s with slices := wide0.slices }
      (s.ent 0 0).st = 1 ∧ (s.ent 0 0).gang = none ∧ (∀ a ∈ (s.core 0).accs, a.2.own ≠ .task 0) ∧ (s.core 0).chans = [] ∧ s.roomAt 1 (s.ent 0 0).nblk = some (0, 0)
        ∧ (s.partCores 0).find? (fun y => y != (0 : CoreId).toNat && (s.roomAt y (s.ent 0 0).nblk).isSome) = some 1)
    ∧ (s0.ent 0 0).st = 0 ∧ (s0.ent 0 0).wpb.toNat + (s0.ent 0 0).nblk ≤ 128 ∧ 0 + (s0.ent 0 0).nblk ≤ 128 ∧ 0 < (s0.ent 0 0).nblk ∧ (0 : CoreId) ≠ 1 := by
  decide +kernel

theorem witness_descriptor_refused : (let d := slice0.pdesc
      pdescOk d = true ∧ ({ State.reset with slices := [(1, { Slice.reset with pdesc := [0x8800000000000000, 2, 0, 0, 0, 0, 0, 0, 0, 0, 0, 0] })] } : State).descMeets (0 : SliceId).toNat d = true
        ∧ s0.descMeets (0 : SliceId).toNat d = false ∧ s0.descBusy d = true)
    ∧ (let w : Word := 0x8000021000000000
      let k : Slice := { slice0 with pdesc := [0x8000000000000000, 1, 0, 0, 2 ^ 47 + 2 ^ 42, 0, 0, 0, 0, 0, 0, 0, 0], stitch := [(1, w)] }
      (∀ c, c < 2048 → rectHas (stitchRect w) c = true → descCore k.pdesc c = true)
        ∧ ∃ x ∈ k.stitch, x.1 ≠ (0 : BitVec 2).toNat ∧ x.2.getLsbD 63 = true ∧ ∃ c, c < 2048 ∧ rectHas (stitchRect w) c = true ∧ rectHas (stitchRect x.2) c = true) := by
  refine ⟨by decide +kernel, by decide +kernel, ⟨(1, 0x8000021000000000), List.mem_singleton.mpr rfl, by decide, by decide, 0, by decide +kernel⟩⟩

theorem witness_key_load : (let s : State := { State.reset with fns := [(1, { Fn.reset with sess := some 1 })], keys := [(3, ⟨0, 1, 0, .xts, 0, true⟩)] }
      (s.keySlot 3).owned = true ∧ (s.keySlot 3).part ≠ 0 ∧ (s.keySlot 0).state = 0 ∧ (s.keySlot 0).owned = false)
    ∧ (let s : State := { s0 with lines := [{ line0 with key := 3, dirty := true }] }
      s.wbq = [] ∧ s.lines = [{ line0 with key := 3, dirty := true }] ∧ paRegion (64 * line0.ln) = 0)
    ∧ (∀ x ∈ s0.lines ++ s0.wbq, x.key ≠ 3)
    ∧ s0.sliceOwner (0 : SliceId).toNat ≠ none ∧ State.reset.sliceOwner (0 : SliceId).toNat = none := by decide +kernel

theorem witness_log : (let k : Slice := { slice0 with logctl := [(0, 0x8000000000001000), (1, 1)] }
      (Tab.get 0 k.logctl 0).getLsbD 63 = true ∧ 64 ≤ 64 * field (Tab.get 0 k.logctl 1) 0 17 ∧ 64 * field (Tab.get 0 k.logctl 1) 0 17 ≤ 2 ^ 22
        ∧ field (Tab.get 0 k.logctl 3) 32 32 = 0 ∧ k.anchor = false ∧ (field (Tab.get 0 k.logctl 2) 0 22 + 1) % 64 ≠ field (Tab.get 0 k.logctl 3) 0 22)
    ∧ (let k : Slice := { slice0 with logctl := [(0, 0x8000000000001000), (1, 1), (2, 63)], anchor := true }
      (field (Tab.get 0 k.logctl 2) 0 22 + 1) % 64 = field (Tab.get 0 k.logctl 3) 0 22 ∧ k.anchor = true)
    ∧ (let k : Slice := { slice0 with logctl := [(0, 0x8000000000001000), (1, 1), (3, 0x100000000)] }
      field (Tab.get 0 k.logctl 3) 32 32 ≠ 0 ∧ (field (Tab.get 0 k.logctl 2) 0 22 + 1) % 64 ≠ field (Tab.get 0 k.logctl 3) 0 22)
    ∧ (Tab.get 0 slice0.logctl 0).getLsbD 63 = false
    ∧ (let k : Slice := { slice0 with totals := [(0, (5, false), (0, false))] }; (k.totals.filter fun x => x.2.1.1 != 0 || x.2.2.1 != 0) ≠ []) := by decide +kernel

theorem witness_scrub_run : (∀ c ∈ s0.partCores 0, c < 2048) ∧ (s0.keySlot 0).part = 0 ∧ (s0.keySlot 0).state ≠ 0
    ∧ (0x1F : BitVec 5).getLsbD 0 = true ∧ (0 : BitVec 5).getLsbD 0 = false := by decide +kernel

/-! ## Witnesses: banks, heads that fault, homes and queues -/

/-- A line under a good check that its bank holds, and a request for its first word. -/
def good0 : CLine := { line0 with chk := lineCheck 5 }

def held0 (p : BitVec 2) : State := { s0 with lines := [{ good0 with poi := p }] }

def at0 (op : BankOp) (n : Nat) : MemReq := { load0 with op := op, n := n, bm := BitVec.allOnes 64 }

theorem cached_single (s : State) (l : CLine) (pl : Nat) (h : s.lines = [l]) (hp : l.place = pl) (hc : l.copy = false) : s.cached pl = some l := by
  simp [State.cached, h, hp, hc]

theorem good0_poi : ({ good0 with poi := 0 } : CLine) = good0 := by simp only [good0, line0]

theorem good0_place : good0.place = 0x40 := by decide +kernel

theorem held_cached : (held0 0).cached 0x40 = some good0 ∧ good0.chk = lineCheck good0.data := ⟨cached_single _ _ _ (congrArg (fun l => [l]) good0_poi) good0_place rfl, by simp only [good0, line0]⟩

theorem witness_bank_operations : good0.key = load0.key ∧ load0.rref = none
    ∧ pastPort load0 = false ∧ (held0 0).copyFor load0 = none ∧ (held0 0).objsAt 0x40 = [] ∧ takesPoison load0 = false
    ∧ (∀ i < 64, (reqMask load0).getLsbD i = true → good0.poi.getLsbD (i / 32) = false)
    ∧ (let l := { good0 with poi := 1 }; (reqMask load0).getLsbD 0 = true ∧ l.poi.getLsbD 0 = true ∧ (reqMask load0).getLsbD 31 = false)
    ∧ (at0 (.bred .add .i64) 8).n = tyBits .i64 / 8 ∧ (at0 (.atom .add .i64 1 0) 8).n = tyBits .i64 / 8 ∧ good0.poi = 0 := by decide +kernel

theorem bank_forms : (at0 (.bupd .add .i64 1) 64).op = .bupd .add .i64 1 ∧ (at0 (.barinit 1 0) 64).op = .barinit 1 0 := ⟨rfl, rfl⟩

theorem witness_bank_facts : (let r := { load0 with op := .store, det := true }
      isDetOp r.op = true ∧ s0.qroom (s0.bankOf r.who.pid r.pa.toNat) = true ∧ paRegion r.pa.toNat = 0)
    ∧ ({ s0 with keys := [] } : State).keyOk load0.key load0.who.pid = false ∧ (held0 0).keyOk load0.key 0 = true
    ∧ opWrites .store = true ∧ good0.shar = 0 ∧ s0.cached 0x40 = none := by decide +kernel

theorem witness_fills : (∃ c, ({ s0 with badchk := [0x40] } : State).fillFrom 0x40 0 = .error c)
    ∧ (let s : State := { s0 with badchk := [0x40], poison := [0x80] }; s.poiAt (placeLine 0x40) ≠ 0 ∧ placeLine 0x40 ∈ s.badchk)
    ∧ placeLine 0x40 ∉ s0.badchk ∧ Tab.find s0.hkey (placeLine 0x40) = none
    ∧ (let x : CLine := { line0 with ln := 2 ^ 49 }
      paRegion (64 * x.ln) = 4 ∧ s0.torn ((s0.sliceOwner x.sl).getD 0) (64 * x.ln) = false
        ∧ ({ s0 with fns := [(1, { Fn.reset with st := 3 }), (33, { Fn.reset with st := 3 })] } : State).torn 0 (64 * x.ln) = true) :=
  ⟨⟨cPoison, by decide +kernel⟩, by decide +kernel⟩

theorem witness_acks : (let s : State := { s0 with invw := [⟨0x40, 9, []⟩] }
      (s.invw.find? fun w => w.ln == 0x40) = some ⟨0x40, 9, []⟩ ∧ (9 : BitVec 4) &&& ~~~BitVec.ofNat 4 (2 ^ (3 : BitVec 2).toNat) ≠ 0)
    ∧ s0.invw = [] ∧ (0x80 : BitVec 51).toNat ∉ s0.soft ∧ (∀ id, load0.ret ≠ .retained id) :=
  ⟨by decide +kernel, by decide +kernel, by decide +kernel, by nofun⟩

/-- A scaled pointer of eight 4-bit codes, one past the end, and a moored one. -/
def ptrs (w : Word) : State := s0.setG 1 w

def moored0 : State := (ptrs 0x200000).modCore 0 fun k => { k with moor := [(2, ⟨true, .mx, true, 1, 0, 0x200000, 0x2000FF⟩)] }

theorem witness_pointer_faults : (let p := (ptrs 0xC300000000000000).g 1; fmtLegal (field p 60 4) (field p 56 4) = true ∧ field p 56 4 ≠ 0 ∧ (8 : BitVec 9) ≠ 0)
    ∧ fmtLegal (field ((ptrs 0x7100000000000000).g 1) 60 4) (field ((ptrs 0x7100000000000000).g 1) 56 4) = false
    ∧ (2 : Nat) ^ 56 ≤ (field ((ptrs 0x00FFFFFFFFFFFFFF).g 1) 0 56 : Nat) + 1
    ∧ moored0.moorHit 0x200000 0x200007 = some 2 ∧ (2 : Nat) ^ 56 < 0x00FFFFFFFFFFFFFF + 8
    ∧ tagBlog 0x30 = 0 ∧ tagBlog 0xC3 ≠ 0 ∧ 0x200004 % 8 ≠ 0 ∧ s0.myEnt.g = false
    ∧ ptrLegal (0xC300000000000000 : Word) = true ∧ ptrBlog (0xC300000000000000 : Word) ≠ 0 ∧ ptrVa (0x0000000000200004 : Word) % 64 ≠ 0
    ∧ ptrVa (0x0000000000200004 : Word) % 8 ≠ 0 ∧ ptrLegal (0x200000 : Word) = true ∧ moored0.moorHit 0x200000 0x20003F = some 2 := by decide +kernel

theorem witness_consumption : (let s := withVx { vx0 with chans := [(0, 1, 1)] }; s.takeNames ≠ [] ∧ s.wsW offSbrd = 0 ∧ s.me.hold = none) ∧ s0.takeNames = [] := by
  decide +kernel

theorem witness_map_other : (let m := { map0 with n := 0 }; m.n = 0) ∧ (257 : Nat) > 256 ∧ (0x200400 : Nat) % pageSize 1 ≠ 0
    ∧ (let m := { map0 with grant := true }
      m.grant = true ∧ m.root = none ∧ mapping.recFind (mapping.mapHome m) m.who.sid (m.sva.toNat + m.done * pageSize m.psz) = some (3, rec0))
    ∧ mapping.mapHome map0 = 0 ∧ mapping.mapHome map0 ≠ 1 := by decide +kernel

/-- A record with one child, both under a withdrawal. -/
def family : State := { mem0 with
  recs := [(3, { rec0 with chd := 4 }), (4, { rec0 with par := 3 })], spaces := [(0, ⟨0, 2, [0]⟩)]
  wds := [⟨7, some (7, 0), [3], [(4, 3), (3, 3)], [0, 5], 0x200000, 0x200FFF⟩] }

theorem witness_family : family.kidsOf 3 = [4] ∧ (family.recAt 4).isSome = true ∧ family.recAt 9 = none
    ∧ (let w : Withdraw := ⟨7, some (7, 0), [3], [(4, 3), (3, 3)], [0, 5], 0x200000, 0x200FFF⟩
      (family.wds.find? fun w => w.id == 7) = some w ∧ (w.owed.find? fun x => x.1 == 4) = some (4, 3) ∧ w.owed.erase (4, 3) = [(3, 3)]
        ∧ (∃ x ∈ w.owed.erase (4, 3), x.2 = 3) ∧ w.shoot.filter (· != (0 : CoreId).toNat) = [5])
    ∧ (∀ e ∈ (State.reset.core 0).ents, e.2.v = true → e.2.sid ≠ rec0.sid) ∧ [(0 : SliceId), 1].erase 0 ≠ [] := by decide +kernel

def launching (o : Obj) : State := { s0 with objs := [(0, o)] }

theorem witness_reports : (let o : Obj := { Obj.reset with v := true, run := 1, hm := 1 }
      o.lvl = 0 ∧ o.over = false ∧ o.hm ≠ 0 ∧ o.wait + 1 = o.run)
    ∧ (let o : Obj := { Obj.reset with v := true, run := 2 }; o.hm = 0) ∧ (let o : Obj := { Obj.reset with v := true, cl := true }; o.cl = true) := by decide +kernel

/-- An entry of the quantum buffer of bank 0, to the line that is held. -/
def qe0 : QEnt := ⟨0, 0, 0, 0, 0xFF, 0, 1, 0, 0, 0x1000, 0, 7⟩

def closing0 : State := { held0 0 with qbuf := [qe0] }

theorem closing_cached : closing0.cached 0x40 = some good0 := cached_single _ _ _ (congrArg (fun l => [l]) good0_poi) good0_place rfl

theorem witness_commit : closing0.closing 0 0 0 false = [qe0] ∧ closing0.commitWaits qe0 (.closeAtBank 0 0 0 false) = none
    ∧ (∀ x ∈ closing0.refused, x.1 ≠ (0 : BitVec 10).toNat) ∧ closing0.detMarked 0 0 false = false ∧ qe0.op = 0 ∧ qe0.lref = 0
    ∧ closing0.paBad qe0.pa.toNat = false ∧ closing0.isLost qe0.pa.toNat = false ∧ closing0.keyOk qe0.key qe0.pid = true
    ∧ closing0.homePlace qe0.pid qe0.pa.toNat = 0x40 ∧ good0.key = qe0.key ∧ qe0.pa.toNat % 8 = 0 := by decide +kernel

theorem witness_commit_order : (let e := { qe0 with seq := 2 }; let s : State := { held0 0 with qbuf := [qe0, e] }; s.closing 0 0 0 false = [qe0, e])
    ∧ seqLt 1 2 = true := by decide +kernel

theorem witness_overflow : (∀ x, (s0.ent 0 x).gang = none) ∧ (s0.ent 0 0).overNow = false ∧ (s0.ent 0 0).st ≠ 5 ∧ (s0.ent 0 0).st ≠ 6
    ∧ (let x : Retained := ⟨1, load0, true, true⟩; x.marked = true ∧ x.req.who.lref = 0) := by decide +kernel

/-- A task with a line of bindings. -/
def binding0 (l : List AtcEntry) : State := (on0 fun k => { k with atc := l }).modEnt 0 0 fun e => { e with inst := { e.inst with bnd := true, pc := 0x1002 } }

theorem witness_bindings : ((binding0 []).ent 0 0).inst.bnd = true ∧ (binding0 []).bindAtc 0 0 = none ∧ ((binding0 [win0]).bindAtc 0 0).isSome = true
    ∧ (binding0 [win0]).me.ro = [] ∧ (s0.ent 0 0).binding = none
    ∧ (let s := (onEnt fun e => { e with st := 6, trg := 2, dco := 1 }).wr64 (spad 0 8) 1
      field (s.rd64 (spad 0 8)) 0 32 < (2 : BitVec 32).toNat ∧ s.sealedHit 0 8 8 = false ∧ (s.core 0).imageHit none 8 8 = false) := by decide +kernel

theorem witness_payload : 0 < word0.ws.length ∧ word0.ws.length ≤ 8
    ∧ (let e := (chan0.core 0).chan word0.chan; chan0.shut 0 (ringSlot e e.wr.toNat) 64 = false ∧ chan0.shut 0 (ringTag e e.wr.toNat) 1 = false
      ∧ e.wr.toNat ≤ e.sm1.toNat) := by decide +kernel

theorem witness_cancel_other : (let o : Obj := { Obj.reset with v := true, pid := 1 }; o.pid ≠ cancel0.pid) ∧ levelNo .graph ≠ (Obj.reset).lvl
    ∧ (let o : Obj := { Obj.reset with v := true, last := true }; o.last = true ∧ o.st ≠ 4) ∧ levelNo .launch = (Obj.reset).lvl
    ∧ (let o : Obj := { Obj.reset with v := true, st := 4 }; o.st = 4) ∧ (let o : Obj := { Obj.reset with v := true, lvl := 1 }; o.lvl ≠ 0 ∧ o.last = false)
    ∧ (∀ x, (State.reset.ent 0 x).v = true → (State.reset.ent 0 x).lref = 0 → (State.reset.ent 0 x).st = 5)
    ∧ (∀ h, (s0.ent 0 h).v = true → (s0.ent 0 h).lref = 0 → (s0.ent 0 h).st = 0) := by decide +kernel

theorem witness_gang_over_task : (let s := (formed0.modCore 1 fun k => (k.setEnt 1 { entry0 with st := 0 }).setEnt 0 { k.ent 0 with st := 3 }).modCore 1 fun k => { k with run := some 1 }
    (s.ent 1 0).v = true ∧ (s.ent 1 0).g = true ∧ (s.ent 1 0).st = 3 ∧ (s.core 1).run = some 1 ∧ (s.ent 1 1).st = 0 ∧ (s.ent 1 1).gang = none
      ∧ (∃ g, (s.ent 1 0).gang = some g ∧ s.leaderRuns 0 g = true)) ∧ (s0.ent 0 0).g = false := by
  refine ⟨⟨by decide +kernel, by decide +kernel, by decide +kernel, by decide +kernel, by decide +kernel, by decide +kernel, ⟨_, rfl, by decide +kernel⟩⟩, by decide +kernel⟩

theorem witness_split_busy : (let s := on0 fun k => k.setAcc 2 { k.acc 2 with own := .task 1 }
      (s.me.acc 2).own ≠ .none ∧ s.me.mxs = false ∧ s.me.mxq = []) ∧ spad s0.cur 0x1000 / 32 ∉ s0.poison ∧ s0.sealedHit s0.cur 0x1000 1 = false
    ∧ Event.mxcmdReceive command0 who0 0 ∉ s0.net := by decide +kernel

theorem witness_narrow : (Fmt.f16.decode 0x0001 ≠ .inf false) ∧ Fmt.f16.decode 0x7C00 = .inf false ∧ (0x0001 : Nat) / 2 ^ 10 % 32 = 0 ∧ (0x3C00 : Nat) / 2 ^ 10 % 32 ≠ 0
    ∧ convert .f16 .f19 false 1 = 0x19C00 ∧ convert .bf16 .f19 false 0xC0A0 = 0x60500 := by decide +kernel

end Sys2Proof.Tests
end

section
/-! SUPPORT. Where the scale and the codes of a scaled block lie, and what its elements stand for (R98, R99). -/

namespace Sys2Proof.Machine

/-- The formats that may be scaled have 4 or 8 bits, and a block has at least 8 codes (R96). -/
theorem fmtLegal_scaled {f k : Nat} (hk : k ≠ 0) (h : fmtLegal f k = true) : (fmtWidth f = 4 ∨ fmtWidth f = 8) ∧ 3 ≤ k := by
  unfold fmtLegal at h
  split at h
  · next hf => rcases hf with rfl | rfl | rfl | rfl <;> simp_all [fmtWidth]
  · split at h
    · next hf => rcases hf with rfl | rfl | rfl <;> simp_all [fmtWidth]
    · simp_all

theorem codeByte_scaled {k : Nat} (hk : k ≠ 0) (f v : Nat) : codeByte f k v = v * fmtWidth f / 8 + v / 2 ^ k + 1 := if_neg hk

/-- Element `r` of block `b` lies `r * w / 8 + 1` bytes above the block's scale byte, where the block's codes fill whole bytes (R98). -/
theorem codeByte_in_block {f k : Nat} (hk : k ≠ 0) (hw : 8 ∣ 2 ^ k * fmtWidth f) (v : Nat) :
    codeByte f k v = scaleByte f k v + 1 + v % 2 ^ k * fmtWidth f / 8 := by
  obtain ⟨n, hn⟩ := hw
  have split : v * fmtWidth f = 8 * (v / 2 ^ k * n) + v % 2 ^ k * fmtWidth f := by
    calc v * fmtWidth f = (2 ^ k * (v / 2 ^ k) + v % 2 ^ k) * fmtWidth f := by rw [Nat.div_add_mod]
      _ = v / 2 ^ k * (2 ^ k * fmtWidth f) + v % 2 ^ k * fmtWidth f := by ring
      _ = 8 * (v / 2 ^ k * n) + v % 2 ^ k * fmtWidth f := by rw [hn]; ring
  rw [codeByte_scaled hk, scaleByte, split, hn, Nat.mul_add_div (by decide), Nat.mul_div_cancel_left n (by decide), Nat.mul_succ]
  omega

/-- The codes of a block that fills whole bytes lie below the block's end. -/
theorem block_code_lt {w k n : Nat} (hw : 2 ^ k * w = 8 * n) (hpos : 0 < w) (v : Nat) : v % 2 ^ k * w / 8 < n := by
  have : v % 2 ^ k * w < 2 ^ k * w := Nat.mul_lt_mul_of_pos_right (Nat.mod_lt _ (by positivity)) hpos
  omega

theorem codeByte_bounds {f k : Nat} (hk : k ≠ 0) (h : fmtLegal f k = true) (v : Nat) :
    scaleByte f k v < codeByte f k v ∧ codeByte f k v < (v / 2 ^ k + 1) * (2 ^ k * fmtWidth f / 8 + 1) := by
  obtain ⟨hw, h3⟩ := fmtLegal_scaled hk h
  obtain ⟨n, hn⟩ : 8 ∣ 2 ^ k * fmtWidth f := Dvd.dvd.mul_right (pow_dvd_pow 2 h3) _
  have inBlock := codeByte_in_block hk ⟨n, hn⟩ v
  have below := block_code_lt hn (by omega) v
  have next : (v / 2 ^ k + 1) * (2 ^ k * fmtWidth f / 8 + 1) = scaleByte f k v + (n + 1) := by
    rw [Nat.succ_mul, scaleByte, hn, Nat.mul_div_cancel_left n (by decide)]
  omega

theorem codeOf_of_width_4 {f : Nat} (hf : fmtWidth f = 4) (v x : Nat) : codeOf f v x = if v % 2 = 0 then x % 16 else x / 16 % 16 := by
  rw [codeOf, if_pos hf]
  split <;> simp

theorem codeOf_of_width_ne_4 {f : Nat} (hf : fmtWidth f ≠ 4) (v x : Nat) : codeOf f v x = x := if_neg hf

/-- Settles O8: a legal scaled format has 4 or 8 bits and blocks of 8 codes or more, so the codes of a block fill whole bytes. -/
theorem scaledBlocksLieAndReadAsStated : Obligations.ScaledBlocksLieAndReadAsStated := by
  refine ⟨fun f k v hk h => ?_, fun _ _ _ => ⟨rfl, rfl, fun _ => ⟨rfl, rfl, rfl⟩, rfl, rfl⟩, fun k f s c => ?_⟩
  · obtain ⟨above, below⟩ := codeByte_bounds hk h v
    exact ⟨rfl, codeByte_scaled hk f v, above, below, fun x hf => codeOf_of_width_4 hf v x, fun x hf => codeOf_of_width_ne_4 hf v x⟩
  · unfold scaledVal
    cases codeVal k f c <;> rfl

end Sys2Proof.Machine
end

section
/-! SUPPORT. Bit patterns of the float layouts by their fields, exact rounding, and the conversions to F19 that lose nothing (R93, R104). -/

namespace Sys2Proof.Machine

/-! ## Bit patterns by their fields -/

/-- The bit pattern with a sign, an exponent field and a fraction field (R93). -/
def Fmt.pack (f : Fmt) (s : Bool) (ex fr : Nat) : Nat := (if s then f.signBit else 0) + (ex * 2 ^ f.fb + fr)

/-- The integer significand of a finite pattern: a subnormal has no hidden bit. -/
def Fmt.sig (f : Fmt) (ex fr : Nat) : Nat := (if ex = 0 then 0 else 2 ^ f.fb) + fr

theorem Fmt.signBit_eq (f : Fmt) : f.signBit = 2 ^ f.eb * 2 ^ f.fb := by rw [Fmt.signBit, pow_add, mul_comm]

theorem Fmt.mag_lt (f : Fmt) {ex fr : Nat} (hex : ex < 2 ^ f.eb) (hfr : fr < 2 ^ f.fb) : ex * 2 ^ f.fb + fr < f.signBit := by
  rw [f.signBit_eq]
  calc ex * 2 ^ f.fb + fr < (ex + 1) * 2 ^ f.fb := by rw [Nat.succ_mul]; omega
    _ ≤ 2 ^ f.eb * 2 ^ f.fb := Nat.mul_le_mul_right _ hex

theorem Fmt.pack_eq (f : Fmt) (s : Bool) (ex fr : Nat) : f.pack s ex fr = 2 ^ f.fb * (2 ^ f.eb * s.toNat + ex) + fr := by
  cases s <;> simp only [Fmt.pack, f.signBit_eq, if_true, Bool.false_eq_true, if_false, Bool.toNat_true, Bool.toNat_false] <;> ring

theorem Fmt.pack_lt (f : Fmt) (s : Bool) {ex fr : Nat} (hex : ex < 2 ^ f.eb) (hfr : fr < 2 ^ f.fb) : f.pack s ex fr < 2 ^ f.width := by
  have hmag := f.mag_lt hex hfr
  have hwidth : 2 ^ f.width = 2 * f.signBit := by rw [Fmt.width, Fmt.signBit, pow_succ, mul_comm]
  unfold Fmt.pack
  split <;> omega

theorem Fmt.pack_div_signBit (f : Fmt) (s : Bool) {ex fr : Nat} (hex : ex < 2 ^ f.eb) (hfr : fr < 2 ^ f.fb) :
    f.pack s ex fr / f.signBit = s.toNat := by
  have hmag := f.mag_lt hex hfr
  have hpos : 0 < f.signBit := by rw [Fmt.signBit]; positivity
  cases s <;> simp [Fmt.pack, Nat.add_div_left _ hpos, Nat.div_eq_of_lt hmag]

theorem Fmt.pack_div_fraction (f : Fmt) (s : Bool) {ex fr : Nat} (hex : ex < 2 ^ f.eb) (hfr : fr < 2 ^ f.fb) :
    f.pack s ex fr / 2 ^ f.fb % 2 ^ f.eb = ex := by
  rw [f.pack_eq, Nat.mul_add_div (by positivity), Nat.div_eq_of_lt hfr, Nat.add_zero, Nat.mul_add_mod, Nat.mod_eq_of_lt hex]

theorem Fmt.pack_mod_fraction (f : Fmt) (s : Bool) (ex : Nat) {fr : Nat} (hfr : fr < 2 ^ f.fb) : f.pack s ex fr % 2 ^ f.fb = fr := by
  rw [f.pack_eq, Nat.mul_add_mod, Nat.mod_eq_of_lt hfr]

/-- Every pattern of a format is packed from its fields. -/
theorem Fmt.exists_pack (f : Fmt) {x : Nat} (hx : x < 2 ^ f.width) :
    ∃ s ex fr, ex < 2 ^ f.eb ∧ fr < 2 ^ f.fb ∧ x = f.pack s ex fr := by
  have hsign : x / 2 ^ f.fb / 2 ^ f.eb < 2 := by
    rw [Nat.div_div_eq_div_mul, Nat.div_lt_iff_lt_mul (by positivity), ← pow_add, mul_comm, ← pow_succ]
    exact hx
  obtain ⟨s, hs⟩ : ∃ s : Bool, s.toNat = x / 2 ^ f.fb / 2 ^ f.eb := by
    obtain h | h := Nat.le_one_iff_eq_zero_or_eq_one.1 (Nat.le_of_lt_succ hsign)
    · exact ⟨false, h.symm⟩
    · exact ⟨true, h.symm⟩
  refine ⟨s, x / 2 ^ f.fb % 2 ^ f.eb, x % 2 ^ f.fb, Nat.mod_lt _ (by positivity), Nat.mod_lt _ (by positivity), ?_⟩
  rw [f.pack_eq, hs, Nat.div_add_mod, Nat.div_add_mod]

theorem Fmt.decode_pack (f : Fmt) (s : Bool) {ex fr : Nat} (hex : ex < 2 ^ f.eb) (hfr : fr < 2 ^ f.fb) :
    f.decode (f.pack s ex fr) = if ex = 2 ^ f.eb - 1 then (if fr = 0 then .inf s else .nan) else .fin s (f.sig ex fr) (f.emin + (ex - 1 : Nat)) := by
  have hs : (s.toNat % 2 == 1) = s := by cases s <;> rfl
  simp only [Fmt.decode, f.pack_div_signBit s hex hfr, f.pack_div_fraction s hex hfr, f.pack_mod_fraction s ex hfr, hs, Fmt.sig]
  split
  · rfl
  · split
    · simp_all
    · congr 1; omega

theorem Fmt.topExponent_lt (f : Fmt) : 2 ^ f.eb - 1 < 2 ^ f.eb := Nat.sub_one_lt (by positivity)

theorem Fmt.decode_pack_inf (f : Fmt) (s : Bool) : f.decode (f.pack s (2 ^ f.eb - 1) 0) = .inf s := by
  rw [f.decode_pack s f.topExponent_lt (by positivity), if_pos rfl, if_pos rfl]

theorem Fmt.decode_pack_nan (f : Fmt) (s : Bool) {fr : Nat} (h0 : fr ≠ 0) (hfr : fr < 2 ^ f.fb) : f.decode (f.pack s (2 ^ f.eb - 1) fr) = .nan := by
  rw [f.decode_pack s f.topExponent_lt hfr, if_pos rfl, if_neg h0]

theorem Fmt.decode_pack_fin (f : Fmt) (s : Bool) {ex fr : Nat} (hex : ex < 2 ^ f.eb - 1) (hfr : fr < 2 ^ f.fb) :
    f.decode (f.pack s ex fr) = .fin s (f.sig ex fr) (f.emin + (ex - 1 : Nat)) := by
  rw [f.decode_pack s (by omega) hfr, if_neg (by omega)]

/-! ## Exact rounding -/

theorem Fmt.sig_eq_zero (f : Fmt) {ex fr : Nat} : f.sig ex fr = 0 ↔ ex = 0 ∧ fr = 0 := by
  unfold Fmt.sig
  split <;> simp_all

theorem rneShift_natCast (m d : Nat) : rneShift m d = m * 2 ^ d := by simp [rneShift]

theorem log2_shift_bounds {m : Nat} (hm : m ≠ 0) (d : Nat) : 2 ^ (m.log2 + d) ≤ m * 2 ^ d ∧ m * 2 ^ d < 2 ^ (m.log2 + d + 1) := by
  constructor
  · rw [pow_add]
    exact Nat.mul_le_mul_right _ (Nat.log2_self_le hm)
  · rw [add_right_comm, pow_add]
    exact Nat.mul_lt_mul_of_pos_right Nat.lt_log2_self (by positivity)

theorem Fmt.sig_of_zero (f : Fmt) (fr : Nat) : f.sig 0 fr = fr := Nat.zero_add fr

theorem Fmt.sig_of_ne_zero (f : Fmt) {ex : Nat} (hex : ex ≠ 0) (fr : Nat) : f.sig ex fr = 2 ^ f.fb + fr := by rw [Fmt.sig, if_neg hex]

/-- A significand with its hidden bit has `fb + 1` bits, and a subnormal one has fewer. -/
theorem Fmt.log2_of_sig (f : Fmt) {m d ex fr : Nat} (hm : m ≠ 0) (hval : m * 2 ^ d = f.sig ex fr) (hfr : fr < 2 ^ f.fb) :
    m.log2 + d ≤ f.fb ∧ (ex ≠ 0 → m.log2 + d = f.fb) := by
  obtain ⟨hlow, hhigh⟩ := log2_shift_bounds hm d
  rw [hval] at hlow hhigh
  by_cases hex : ex = 0
  · rw [hex, f.sig_of_zero] at hlow
    have : m.log2 + d < f.fb := (Nat.pow_lt_pow_iff_right Nat.one_lt_two).1 (hlow.trans_lt hfr)
    exact ⟨this.le, fun h => absurd hex h⟩
  · rw [f.sig_of_ne_zero hex] at hlow hhigh
    have h1 : m.log2 + d < f.fb + 1 := (Nat.pow_lt_pow_iff_right Nat.one_lt_two).1 (by rw [pow_succ]; omega)
    have h2 : f.fb < m.log2 + d + 1 := (Nat.pow_lt_pow_iff_right Nat.one_lt_two).1 (by omega)
    exact ⟨by omega, fun _ => by omega⟩

/-- A magnitude that lies on the grid of its binade rounds to itself (R104, R105). -/
theorem Fmt.roundMag_exact (f : Fmt) {m d ex fr : Nat} (hval : m * 2 ^ d = f.sig ex fr) (hfr : fr < 2 ^ f.fb) :
    f.roundMag m (f.emin + (ex - 1 : Nat) + d) = ex * 2 ^ f.fb + fr := by
  have hbits : (ex - 1) * 2 ^ f.fb + f.sig ex fr = ex * 2 ^ f.fb + fr := by
    rcases ex with _ | ex
    · simp [Fmt.sig]
    · rw [f.sig_of_ne_zero (Nat.succ_ne_zero ex), Nat.add_sub_cancel]
      ring
  unfold Fmt.roundMag
  split
  · next hm =>
    obtain ⟨rfl, rfl⟩ : ex = 0 ∧ fr = 0 := f.sig_eq_zero.1 (by simpa [hm] using hval.symm)
    simp
  · next hm =>
    obtain ⟨hle, heq⟩ := f.log2_of_sig hm hval hfr
    have hq : max ((m.log2 : Int) + (f.emin + (ex - 1 : Nat) + d) - f.fb) f.emin = f.emin + (ex - 1 : Nat) := by omega
    simp only [hq, add_sub_cancel_left, Int.toNat_natCast, rneShift_natCast, hval, hbits]

theorem Val.cmp_scaled_eq (s : Bool) (m d : Nat) (e : Int) : (Val.fin s m (e + d)).cmp (.fin s (m * 2 ^ d) e) = some .eq := by
  simp [Val.cmp, Val.mant]

/-- A finite value that the format represents is encoded in its pattern, which decodes to the same number (R104, R105). -/
theorem Fmt.encode_exact (f : Fmt) (sat s : Bool) {m d ex fr : Nat} {e : Int} (hval : m * 2 ^ d = f.sig ex fr) (hfr : fr < 2 ^ f.fb)
    (hex : ex < 2 ^ f.eb - 1) (he : e = f.emin + (ex - 1 : Nat) + d) :
    f.encode sat (.fin s m e) = f.pack s ex fr ∧ (Val.fin s m e).cmp (f.decode (f.pack s ex fr)) = some .eq := by
  subst he
  constructor
  · have hfin : ex * 2 ^ f.fb + fr < f.infBits := by
      calc ex * 2 ^ f.fb + fr < (ex + 1) * 2 ^ f.fb := by rw [Nat.succ_mul]; omega
        _ ≤ f.infBits := Nat.mul_le_mul_right _ hex
    simp only [Fmt.encode, f.roundMag_exact hval hfr, if_neg (Nat.not_le.2 hfin), Fmt.pack]
  · rw [f.decode_pack_fin s hex hfr, ← hval]
    exact Val.cmp_scaled_eq s m d _

/-- A number of at most 11 significant bits at an exponent from -24 to 0 is zero or a normal F19 number, which holds it exactly. -/
theorem Fmt.f19_encode_small (sat s : Bool) {m : Nat} {e : Int} (hm : m < 2 ^ 11) (hlo : -24 ≤ e) (hhi : e ≤ 0) :
    ∃ ex fr, ex < 255 ∧ fr < 2 ^ 10 ∧ (m ≠ 0 → 0 < ex) ∧ Fmt.f19.encode sat (.fin s m e) = Fmt.f19.pack s ex fr
      ∧ (Val.fin s m e).cmp (Fmt.f19.decode (Fmt.f19.pack s ex fr)) = some .eq := by
  have hemin : Fmt.f19.emin = -136 := rfl
  by_cases h0 : m = 0
  · refine ⟨0, 0, by decide, by decide, fun h => absurd h0 h, Fmt.f19.encode_exact sat s (d := (e + 136).toNat) ?_ (by decide) (by decide) ?_⟩
    · simp [h0, Fmt.sig]
    · rw [hemin]; omega
  · have hlog : m.log2 < 11 := (Nat.log2_lt h0).2 hm
    obtain ⟨hlow, hhigh⟩ := log2_shift_bounds h0 (10 - m.log2)
    rw [show m.log2 + (10 - m.log2) = 10 by omega] at hlow hhigh
    have hfr : m * 2 ^ (10 - m.log2) - 2 ^ 10 < 2 ^ 10 := by omega
    refine ⟨(e + 127 + m.log2).toNat, _, by omega, hfr, fun _ => by omega, Fmt.f19.encode_exact sat s (d := 10 - m.log2) ?_ hfr ?_ ?_⟩
    · rw [Fmt.f19.sig_of_ne_zero (by omega)]
      exact (Nat.add_sub_cancel' hlow).symm
    · show _ < 255
      omega
    · rw [hemin]; omega

/-! ## Conversion to F19 (R104) -/

/-- Two values are both NaN, the same infinity, or finite and numerically equal. -/
inductive Val.Agree : Val → Val → Prop
  | nan : Val.Agree .nan .nan
  | inf (s : Bool) : Val.Agree (.inf s) (.inf s)
  | fin {s s' : Bool} {m m' : Nat} {e e' : Int} (h : (Val.fin s m e).cmp (.fin s' m' e') = some .eq) : Val.Agree (.fin s m e) (.fin s' m' e')

theorem Val.agree_of_cmp_eq {s : Bool} {m : Nat} {e : Int} {v : Val} (h : (Val.fin s m e).cmp v = some .eq) : (Val.fin s m e).Agree v := by
  cases v with
  | fin => exact .fin h
  | inf b => cases b <;> simp [Val.cmp] at h
  | nan => simp [Val.cmp] at h

theorem Val.fin_cmp_eq_symm {s : Bool} {m : Nat} {e : Int} {v : Val} (h : (Val.fin s m e).cmp v = some .eq) : v.cmp (.fin s m e) = some .eq := by
  cases Val.agree_of_cmp_eq h with
  | fin h =>
    simp only [Val.cmp, Option.some.injEq, compare_eq_iff_eq] at h ⊢
    rw [min_comm, h]

theorem Val.Agree.nan_iff {v w : Val} (h : v.Agree w) : v = .nan ↔ w = .nan := by cases h <;> simp

theorem Val.Agree.eq_inf {v w : Val} (h : v.Agree w) {b : Bool} (hv : v = .inf b) : w = .inf b := by cases h <;> simp_all

theorem Val.Agree.cmp_eq {v w : Val} (h : v.Agree w) {b : Bool} {m : Nat} {e : Int} (hv : v = .fin b m e) : v.cmp w = some .eq := by
  cases h with
  | fin h => exact h
  | nan => simp at hv
  | inf => simp at hv

theorem tyVal_half {t : Ty} (ht : t = .f16 ∨ t = .bf16) {x : Nat} (hx : x < 2 ^ (tyFmt t).width) : tyVal t x = (tyFmt t).decode x := by
  rcases ht with rfl | rfl <;> simp [tyVal, Ty.isFloat, Nat.mod_eq_of_lt hx]

theorem convert_f19_of_not_nan {t : Ty} (ht : t = .f16 ∨ t = .bf16) (sat : Bool) {x : Nat} (hx : x < 2 ^ (tyFmt t).width)
    (h : ((tyFmt t).decode x).isNan = false) : convert t .f19 sat x = Fmt.f19.encode sat ((tyFmt t).decode x) := by
  rw [convert, tyVal_half ht hx, if_neg (by simp [h])]
  rfl

/-- A NaN keeps its sign, and its fraction moves to the top of the F19 fraction (R104). -/
theorem convert_f19_nan {t : Ty} (ht : t = .f16 ∨ t = .bf16) (sat s : Bool) {fr : Nat} (h0 : fr ≠ 0) (hfr : fr < 2 ^ (tyFmt t).fb) :
    convert t .f19 sat ((tyFmt t).pack s (2 ^ (tyFmt t).eb - 1) fr) = Fmt.f19.pack s (2 ^ Fmt.f19.eb - 1) (fr * 2 ^ (10 - (tyFmt t).fb)) := by
  have hs : s.toNat % 2 = 1 ↔ s = true := by cases s <;> decide
  have hex := (tyFmt t).topExponent_lt
  rw [convert, tyVal_half ht ((tyFmt t).pack_lt s hex hfr), (tyFmt t).decode_pack_nan s h0 hfr, if_pos ⟨rfl, rfl, ht⟩]
  simp only [(tyFmt t).pack_div_signBit s hex hfr, (tyFmt t).pack_mod_fraction s _ hfr, hs]
  exact Nat.add_assoc _ _ _

/-- What R104 says of the F19 pattern, with fields `ex'` and `fr'`, of the F16 or BF16 pattern with sign `s` and fields `ex` and `fr`. -/
structure Widens (t : Ty) (sat s : Bool) (ex fr ex' fr' : Nat) : Prop where
  exponent_lt : ex' < 2 ^ Fmt.f19.eb
  fraction_lt : fr' < 2 ^ Fmt.f19.fb
  pattern : convert t .f19 sat ((tyFmt t).pack s ex fr) = Fmt.f19.pack s ex' fr'
  agree : ((tyFmt t).decode ((tyFmt t).pack s ex fr)).Agree (Fmt.f19.decode (Fmt.f19.pack s ex' fr'))
  fraction : t = .bf16 ∨ ex ≠ 0 → fr' = fr * 2 ^ (10 - (tyFmt t).fb)
  normal : t = .f16 → ex = 0 → fr ≠ 0 → 0 < ex' ∧ ex' < 255

section
variable {t : Ty} (ht : t = .f16 ∨ t = .bf16) (sat s : Bool) {ex fr : Nat}
include ht

theorem fraction_widened_lt (hfr : fr < 2 ^ (tyFmt t).fb) : fr * 2 ^ (10 - (tyFmt t).fb) < 2 ^ Fmt.f19.fb := by
  rcases ht with rfl | rfl <;> simp only [tyFmt, Fmt.f16, Fmt.bf16, Fmt.f19] at * <;> omega

theorem Widens.of_nan (h0 : fr ≠ 0) (hfr : fr < 2 ^ (tyFmt t).fb) :
    Widens t sat s (2 ^ (tyFmt t).eb - 1) fr (2 ^ Fmt.f19.eb - 1) (fr * 2 ^ (10 - (tyFmt t).fb)) where
  exponent_lt := Fmt.f19.topExponent_lt
  fraction_lt := fraction_widened_lt ht hfr
  pattern := convert_f19_nan ht sat s h0 hfr
  agree := by
    rw [(tyFmt t).decode_pack_nan s h0 hfr, Fmt.f19.decode_pack_nan s (by simp [h0]) (fraction_widened_lt ht hfr)]
    exact .nan
  fraction := fun _ => rfl
  normal := fun h hex => by subst h; contradiction

theorem Widens.of_inf : Widens t false s (2 ^ (tyFmt t).eb - 1) 0 (2 ^ Fmt.f19.eb - 1) 0 where
  exponent_lt := Fmt.f19.topExponent_lt
  fraction_lt := by positivity
  pattern := by
    have hsrc := (tyFmt t).decode_pack_inf s
    rw [convert_f19_of_not_nan ht _ ((tyFmt t).pack_lt s (tyFmt t).topExponent_lt (by positivity)) (by rw [hsrc]; rfl), hsrc]
    rfl
  agree := by
    rw [(tyFmt t).decode_pack_inf, Fmt.f19.decode_pack_inf]
    exact .inf s
  fraction := fun _ => (Nat.zero_mul _).symm
  normal := fun _ _ h => absurd rfl h

/-- A finite pattern widens to the F19 pattern that its value is encoded in. -/
theorem Widens.of_encode {ex' fr' : Nat} (hex : ex < 2 ^ (tyFmt t).eb - 1) (hfr : fr < 2 ^ (tyFmt t).fb) (hex' : ex' < 255) (hfr' : fr' < 2 ^ 10)
    (h : Fmt.f19.encode sat (.fin s ((tyFmt t).sig ex fr) ((tyFmt t).emin + (ex - 1 : Nat))) = Fmt.f19.pack s ex' fr'
      ∧ (Val.fin s ((tyFmt t).sig ex fr) ((tyFmt t).emin + (ex - 1 : Nat))).cmp (Fmt.f19.decode (Fmt.f19.pack s ex' fr')) = some .eq)
    (hfraction : t = .bf16 ∨ ex ≠ 0 → fr' = fr * 2 ^ (10 - (tyFmt t).fb)) (hnormal : t = .f16 → ex = 0 → fr ≠ 0 → 0 < ex') :
    Widens t sat s ex fr ex' fr' where
  exponent_lt := hex'.trans (by decide)
  fraction_lt := hfr'
  pattern := by
    have hsrc := (tyFmt t).decode_pack_fin s hex hfr
    rw [convert_f19_of_not_nan ht _ ((tyFmt t).pack_lt s (by omega) hfr) (by rw [hsrc]; rfl), hsrc, h.1]
  agree := by
    rw [(tyFmt t).decode_pack_fin s hex hfr]
    exact Val.agree_of_cmp_eq h.2
  fraction := hfraction
  normal := fun a b c => ⟨hnormal a b c, hex'⟩

end

/-- An F16 normal keeps its fraction, and its exponent field rises by the difference of the biases. -/
theorem Widens.of_f16_normal (sat s : Bool) {ex fr : Nat} (h0 : ex ≠ 0) (hex : ex < 31) (hfr : fr < 2 ^ 10) : Widens .f16 sat s ex fr (ex + 112) fr := by
  refine .of_encode (.inl rfl) sat s hex hfr (by omega) hfr ?_ (fun _ => (Nat.mul_one fr).symm) (fun _ h => absurd h h0)
  refine Fmt.f19.encode_exact sat s (d := 0) ?_ hfr (by show _ < 255; omega) ?_
  · simp [Fmt.sig, h0, tyFmt, Fmt.f16, Fmt.f19]
  · show (-24 : Int) + _ = -136 + _ + 0
    omega

theorem Widens.of_f16_subnormal (sat s : Bool) {fr : Nat} (hfr : fr < 2 ^ 10) : ∃ ex' fr', Widens .f16 sat s 0 fr ex' fr' := by
  have hsig := (tyFmt .f16).sig_of_zero fr
  obtain ⟨ex', fr', hex', hfr', hpos, h⟩ := Fmt.f19_encode_small sat s (m := (tyFmt .f16).sig 0 fr) (e := -24) (by omega) (by decide) (by decide)
  exact ⟨ex', fr', .of_encode (.inl rfl) sat s (by decide) hfr hex' hfr' h (by simp) (fun _ _ h0 => hpos (by rwa [hsig]))⟩

/-- A finite BF16 number keeps its exponent field, and its fraction gets three zeros below. -/
theorem Widens.of_bf16_finite (sat s : Bool) {ex fr : Nat} (hex : ex < 255) (hfr : fr < 2 ^ 7) : Widens .bf16 sat s ex fr ex (fr * 2 ^ 3) := by
  refine .of_encode (.inr rfl) sat s hex hfr hex (by omega) ?_ (fun _ => rfl) (fun h => nomatch h)
  refine Fmt.f19.encode_exact sat s (d := 3) ?_ (by show _ < 2 ^ 10; omega) hex ?_
  · by_cases h0 : ex = 0 <;> simp [Fmt.sig, h0, tyFmt, Fmt.bf16, Fmt.f19]
    ring
  · show (-133 : Int) + _ = -136 + _ + 3
    omega

/-- Every F16 or BF16 pattern widens as R104 says; an infinity only without .SAT. -/
theorem exists_widens {t : Ty} (ht : t = .f16 ∨ t = .bf16) (sat s : Bool) {ex fr : Nat} (hex : ex < 2 ^ (tyFmt t).eb) (hfr : fr < 2 ^ (tyFmt t).fb)
    (hsat : sat = true → ∀ b, (tyFmt t).decode ((tyFmt t).pack s ex fr) ≠ .inf b) : ∃ ex' fr', Widens t sat s ex fr ex' fr' := by
  by_cases htop : ex = 2 ^ (tyFmt t).eb - 1
  · subst htop
    by_cases h0 : fr = 0
    · subst h0
      have hsat' : sat = false := by
        by_contra h
        exact hsat (by simpa using h) s ((tyFmt t).decode_pack_inf s)
      subst hsat'
      exact ⟨_, _, .of_inf ht s⟩
    · exact ⟨_, _, .of_nan ht sat s h0 hfr⟩
  · rcases ht with rfl | rfl
    · have hex' : ex < 31 := Nat.lt_of_le_of_ne (Nat.le_pred_of_lt hex) htop
      by_cases h0 : ex = 0
      · subst h0
        exact Widens.of_f16_subnormal sat s hfr
      · exact ⟨_, _, .of_f16_normal sat s h0 hex' hfr⟩
    · exact ⟨_, _, .of_bf16_finite sat s (Nat.lt_of_le_of_ne (Nat.le_pred_of_lt hex) htop) hfr⟩

/-! ## Integers -/

theorem natAbs_intVal_le (signed : Bool) (w x : Nat) : (intVal signed w x).natAbs ≤ 2 ^ w := by
  have hlt : x % 2 ^ w < 2 ^ w := Nat.mod_lt _ (by positivity)
  have hcast : (2 : Int) ^ w = (2 ^ w : Nat) := by push_cast; rfl
  simp only [intVal, hcast]
  generalize x % 2 ^ w = n at *
  generalize 2 ^ w = p at *
  split <;> omega

/-- An integer of at most 11 significant bits keeps its value in F19 (R104). -/
theorem f19_encode_ofInt (sat : Bool) {i : Int} (hi : i.natAbs < 2 ^ 11) : (Fmt.f19.decode (Fmt.f19.encode sat (.ofInt i))).cmp (.ofInt i) = some .eq := by
  obtain ⟨ex, fr, -, -, -, hencode, hcmp⟩ := Fmt.f19_encode_small sat (decide (i < 0)) hi (by decide : (-24 : Int) ≤ 0) le_rfl
  rw [Val.ofInt, hencode]
  exact Val.fin_cmp_eq_symm hcmp

theorem convert_f19_of_int8 {t : Ty} (ht : t = .i8 ∨ t = .z8) (sat : Bool) (c : Nat) :
    convert t .f19 sat c = Fmt.f19.encode sat (.ofInt (intVal t.isSigned 8 c)) := by
  rcases ht with rfl | rfl <;> rfl

/-- Settles O9: by the classes of the patterns, each of which widens in its own way. -/
theorem narrowFormatsConvertToF19Exactly : Obligations.NarrowFormatsConvertToF19Exactly := by
  refine ⟨fun t sat x ht hx hsat => ?_, fun sat c _ => ⟨fun t ht => ?_, fun _ => ?_⟩⟩
  · have hwidth : (tyFmt t).width = 16 := by rcases ht with rfl | rfl <;> rfl
    have hsignBit : (tyFmt t).signBit = 2 ^ 15 := by rcases ht with rfl | rfl <;> rfl
    obtain ⟨s, ex, fr, hex, hfr, rfl⟩ := (tyFmt t).exists_pack (hwidth.symm ▸ hx)
    obtain ⟨ex', fr', hw⟩ := exists_widens ht sat s hex hfr hsat
    have hexponent : Fmt.f19.pack s ex' fr' / 2 ^ 10 % 256 = ex' := Fmt.f19.pack_div_fraction s hw.exponent_lt hw.fraction_lt
    have hfraction : Fmt.f19.pack s ex' fr' % 2 ^ 10 = fr' := Fmt.f19.pack_mod_fraction s ex' hw.fraction_lt
    simp only [hw.pattern, hexponent, hfraction]
    refine ⟨Fmt.f19.pack_lt s hw.exponent_lt hw.fraction_lt, ?_, hw.agree.nan_iff, fun _ => hw.agree.eq_inf, fun _ _ _ => hw.agree.cmp_eq, ?_, ?_, ?_⟩
    · rw [← hsignBit, (tyFmt t).pack_div_signBit s hex hfr]
      exact Fmt.f19.pack_div_signBit s hw.exponent_lt hw.fraction_lt
    · rintro rfl
      rw [hw.fraction (.inl rfl), show (tyFmt .bf16).pack s ex fr % 2 ^ 7 = fr from Fmt.bf16.pack_mod_fraction s ex hfr]
      rfl
    all_goals
      rintro rfl
      rw [show (tyFmt .f16).pack s ex fr / 2 ^ 10 % 32 = ex from Fmt.f16.pack_div_fraction s hex hfr,
        show (tyFmt .f16).pack s ex fr % 2 ^ 10 = fr from Fmt.f16.pack_mod_fraction s ex hfr]
    · exact fun h0 => (hw.fraction (.inr h0)).trans (Nat.mul_one fr)
    · exact hw.normal rfl
  · rw [convert_f19_of_int8 ht]
    exact f19_encode_ofInt sat ((natAbs_intVal_le _ 8 c).trans_lt (by decide))
  · exact f19_encode_ofInt sat ((natAbs_intVal_le _ 4 c).trans_lt (by decide))

end Sys2Proof.Machine
end
